-- ==== Sys2Proof/Word.lean ====
section
/-!
DEFINITION. The word types of the FV7-B768 and the plainest readings of them.
-/

namespace Sys2Proof

/-- The unit of memory. -/
abbrev Byte := BitVec 8

/-- A per-thread register, v or t (R8). -/
abbrev Word := BitVec 32

/-- A team-uniform register, an address or a register pair (R8, R48). -/
abbrev DWord := BitVec 64

/-- A sparse table of values by key: a list of key and value pairs, the keys strictly rising. -/
abbrev FMap (α : Type) := List (Nat × α)

end Sys2Proof
end

