-- ==== Sys2Proof/Machine/Float.lean ====
section
/-!
DEFINITION. The floating formats and their arithmetic (R43-R46, R53-R62): every operation converts its operands to exact
dyadic numbers, computes exactly and rounds once at the end.
-/

namespace Sys2Proof.Machine

/-- The exception flags in the bit order of kexc (R71): nv, dz, of, uf, nx from bit 0. -/
abbrev Flags := BitVec 5

/-- No flag. -/
def flNone : Flags := 0
/-- Invalid operation. -/
def flNv : Flags := 1
/-- Division of a finite nonzero value by zero. -/
def flDz : Flags := 2
/-- Overflow. -/
def flOf : Flags := 4
/-- Underflow. -/
def flUf : Flags := 8
/-- Inexact. -/
def flNx : Flags := 16

/-- The rounding modes of R53. -/
inductive Rm where
  | rne | rtz | rup | rdn
deriving DecidableEq, Repr

/-- The mode a two-bit code names (R53, R54). -/
def Rm.ofCode (c : BitVec 2) : Rm :=
  if c = 0 then .rne else if c = 1 then .rtz else if c = 2 then .rup else .rdn

/-- A binary format of R43: exponent and fraction widths. -/
structure Fmt where
  ebits : Nat
  mbits : Nat
deriving DecidableEq, Repr

def f64 : Fmt := ⟨11, 52⟩
def f32 : Fmt := ⟨8, 23⟩
def f16 : Fmt := ⟨5, 10⟩
def bf16 : Fmt := ⟨8, 7⟩
def e5m2 : Fmt := ⟨5, 2⟩
/-- e4m3 has no infinity (R44): its own rules are in `decodeE4m3` and `toE4m3`. -/
def e4m3 : Fmt := ⟨4, 3⟩

namespace Fmt

/-- The bias of R43. -/
def bias (f : Fmt) : Nat := 2 ^ (f.ebits - 1) - 1

/-- The exponent of the least quantum, that of the subnormals: value = n × 2^qmin. -/
def qmin (f : Fmt) : Int := 1 - (f.bias : Int) - f.mbits

/-- The encoding of +∞. -/
def infBits (f : Fmt) : Nat := (2 ^ f.ebits - 1) <<< f.mbits

/-- The sign bit. -/
def signBit (f : Fmt) : Nat := 2 ^ (f.ebits + f.mbits)

/-- The canonical NaN of R56. -/
def nanBits (f : Fmt) : Nat := f.infBits + 2 ^ (f.mbits - 1)

/-- The largest finite magnitude. -/
def maxBits (f : Fmt) : Nat := f.infBits - 1

end Fmt

/-- A value of a floating format, exactly: a NaN (signalling or quiet), an infinity, or ± m × 2^e. -/
inductive Num where
  | nan (signalling : Bool)
  | inf (neg : Bool)
  | fin (neg : Bool) (m : Nat) (e : Int)
deriving DecidableEq, Repr

/-- The value an encoding stands for (R43-R45). -/
def Num.ofBits (f : Fmt) (b : Nat) : Num :=
  let neg := b.testBit (f.ebits + f.mbits)
  let frac := b % 2 ^ f.mbits
  let ef := (b >>> f.mbits) % 2 ^ f.ebits
  if ef = 2 ^ f.ebits - 1 then
    if frac = 0 then .inf neg else .nan (f.mbits > 2 && frac < 2 ^ (f.mbits - 1))
  else if ef = 0 then .fin neg frac f.qmin
  else .fin neg (frac + 2 ^ f.mbits) (f.qmin + (ef - 1))

/-- The value of an e4m3 encoding (R44): only fraction 0b111 of the top exponent is NaN. -/
def decodeE4m3 (b : Nat) : Num :=
  let neg := b.testBit 7
  if b % 128 = 127 then .nan false
  else
    let ef := (b >>> 3) % 16
    if ef = 0 then .fin neg (b % 8) e4m3.qmin else .fin neg (b % 8 + 8) (e4m3.qmin + (ef - 1))

/-- The value is a NaN. -/
def Num.isNan : Num → Bool
  | .nan _ => true
  | _ => false

def Num.isSnan : Num → Bool
  | .nan s => s
  | _ => false

def Num.isFin : Num → Bool
  | .fin _ _ _ => true
  | _ => false

def Num.isZero : Num → Bool
  | .fin _ m _ => m == 0
  | _ => false

def Num.neg : Num → Num
  | .nan s => .nan s
  | .inf n => .inf (!n)
  | .fin n m e => .fin (!n) m e

/-- One rounding step: (m + ε·sticky) × 2^e to a multiple of 2^q. Answers the multiple and whether it is inexact. -/
def roundTo (rm : Rm) (neg : Bool) (m : Nat) (e : Int) (sticky : Bool) (q : Int) : Nat × Bool :=
  if q ≤ e then (m <<< (e - q).toNat, sticky)
  else
    let s := (q - e).toNat
    let n := m >>> s
    let r := m % 2 ^ s
    let h := 2 ^ (s - 1)
    let inexact := sticky || r != 0
    let up := match rm with
      | .rne => decide (h < r) || (r == h && (sticky || n % 2 == 1))
      | .rtz => false
      | .rup => inexact && !neg
      | .rdn => inexact && neg
    (if up then n + 1 else n, inexact)

/-- A sign put on a magnitude. -/
def withSign (f : Fmt) (neg : Bool) (mag : Nat) : Nat := if neg then f.signBit + mag else mag

/-- The result of an overflow in each mode (R55). -/
def overflowMag (f : Fmt) (rm : Rm) (neg : Bool) : Nat :=
  match rm with
  | .rne => f.infBits
  | .rtz => f.maxBits
  | .rup => if neg then f.maxBits else f.infBits
  | .rdn => if neg then f.infBits else f.maxBits

/-- The quantum exponent for a value with top bit 2^top: normal spacing, never below the subnormal one. -/
def quantum (f : Fmt) (top : Int) : Int := max (top - f.mbits) f.qmin

/-- A nonzero magnitude m × 2^e (and a little more when sticky) rounded to format `f` without a bound above: the
encoding as if exponents went on, whether it is inexact, and whether it is tiny after rounding (R46). -/
def roundMag (f : Fmt) (rm : Rm) (neg : Bool) (m : Nat) (e : Int) (sticky : Bool) : Nat × Bool × Bool :=
  let top := (m.log2 : Int) + e
  let q := quantum f top
  let (n, ix) := roundTo rm neg m e sticky q
  let (n2, _) := roundTo rm neg m e sticky (top - f.mbits)
  let emin := f.qmin + f.mbits
  let tiny := decide (top < emin) && !(n2 == 2 ^ (f.mbits + 1) && top + 1 == emin)
  (((q - f.qmin).toNat <<< f.mbits) + n, ix, tiny)

/-- The exact value ± (m + ε·sticky) × 2^e rounded once to an IEEE format (R55), with its flags. -/
def roundFin (f : Fmt) (rm : Rm) (neg : Bool) (m : Nat) (e : Int) (sticky : Bool) : Nat × Flags :=
  if m = 0 then (withSign f neg 0, flNone)
  else
    let (mag, ix, tiny) := roundMag f rm neg m e sticky
    if f.infBits ≤ mag then (withSign f neg (overflowMag f rm neg), flOf ||| flNx)
    else (withSign f neg mag, if ix then (if tiny then flUf ||| flNx else flNx) else flNone)

/-- The canonical NaN with nv when `bad`. -/
def nanOf (f : Fmt) (bad : Bool) : Nat × Flags := (f.nanBits, if bad then flNv else flNone)

/-- ± m × 2^e as an integer multiple of 2^q, for q at or below e. -/
def signedAt (neg : Bool) (m : Nat) (e q : Int) : Int :=
  let a : Int := (m <<< (e - q).toNat : Nat)
  if neg then -a else a

/-- The exact sum of two finite values, rounded once; an exact zero has the sign IEEE 754 gives it (R213). -/
def addFin (f : Fmt) (rm : Rm) (n1 : Bool) (m1 : Nat) (e1 : Int) (n2 : Bool) (m2 : Nat) (e2 : Int) : Nat × Flags :=
  let q := min e1 e2
  let s := signedAt n1 m1 e1 q + signedAt n2 m2 e2 q
  if s = 0 then
    let neg := if m1 = 0 ∧ m2 = 0 ∧ n1 = n2 then n1 else rm = .rdn
    (withSign f neg 0, flNone)
  else roundFin f rm (decide (s < 0)) s.natAbs q false

/-- Addition of two values (R55-R57). -/
def addNum (f : Fmt) (rm : Rm) (x y : Num) : Nat × Flags :=
  match x, y with
  | .nan s, y => nanOf f (s || y.isSnan)
  | x, .nan s => nanOf f (s || x.isSnan)
  | .inf a, .inf b => if a = b then (withSign f a f.infBits, flNone) else nanOf f true
  | .inf a, .fin _ _ _ => (withSign f a f.infBits, flNone)
  | .fin _ _ _, .inf b => (withSign f b f.infBits, flNone)
  | .fin n1 m1 e1, .fin n2 m2 e2 => addFin f rm n1 m1 e1 n2 m2 e2

/-- The exact product of two values; none for 0 × ∞ (the caller raises nv). NaNs are the caller's. -/
def mulExact (x y : Num) : Option Num :=
  match x, y with
  | .nan s, y => some (.nan (s || y.isSnan))
  | x, .nan s => some (.nan (s || x.isSnan))
  | .inf a, .inf b => some (.inf (a != b))
  | .inf a, .fin n m _ => if m = 0 then none else some (.inf (a != n))
  | .fin n m _, .inf b => if m = 0 then none else some (.inf (n != b))
  | .fin n1 m1 e1, .fin n2 m2 e2 => some (.fin (n1 != n2) (m1 * m2) (e1 + e2))

/-- A value put into a format with one rounding; a NaN gives the canonical NaN. -/
def roundNum (f : Fmt) (rm : Rm) (x : Num) : Nat × Flags :=
  match x with
  | .nan s => nanOf f s
  | .inf n => (withSign f n f.infBits, flNone)
  | .fin n m e => roundFin f rm n m e false

/-- Multiplication (R55-R57). -/
def mulNum (f : Fmt) (rm : Rm) (x y : Num) : Nat × Flags :=
  match mulExact x y with
  | some p => roundNum f rm p
  | none => nanOf f true

/-- Fused multiply-add x × y + z, rounded once; 0 × ∞ raises nv even when z is a quiet NaN (R213). -/
def fmaNum (f : Fmt) (rm : Rm) (x y z : Num) : Nat × Flags :=
  match mulExact x y with
  | none => nanOf f true
  | some p => addNum f rm p z

/-- x < y for values that are not NaN; the two zeros are equal. -/
def ltNum (x y : Num) : Bool :=
  match x, y with
  | .inf a, .inf b => a && !b
  | .inf a, .fin _ _ _ => a
  | .fin _ _ _, .inf b => !b
  | .fin n1 m1 e1, .fin n2 m2 e2 =>
    let q := min e1 e2
    decide (signedAt n1 m1 e1 q < signedAt n2 m2 e2 q)
  | _, _ => false

/-- x = y for values that are not NaN. -/
def eqNum (x y : Num) : Bool :=
  match x, y with
  | .inf a, .inf b => a == b
  | .fin n1 m1 e1, .fin n2 m2 e2 =>
    let q := min e1 e2
    decide (signedAt n1 m1 e1 q = signedAt n2 m2 e2 q)
  | _, _ => false

def Num.sign : Num → Bool
  | .nan _ => false
  | .inf n => n
  | .fin n _ _ => n

/-- The first operand is the minimum: smaller, or equal with −0 ordered below +0 (R58). -/
def leMin (x y : Num) : Bool := ltNum x y || (eqNum x y && (x.sign || !y.sign))

/-- Minimum and maximum of R58 on encodings; `num` selects minimumNumber and maximumNumber. -/
def minMax (f : Fmt) (isMax num : Bool) (a b : Nat) : Nat × Flags :=
  let x := Num.ofBits f a
  let y := Num.ofBits f b
  let fl := if x.isSnan || y.isSnan then flNv else flNone
  if x.isNan && y.isNan then (f.nanBits, fl)
  else if x.isNan then (if num then b else f.nanBits, fl)
  else if y.isNan then (if num then a else f.nanBits, fl)
  else if leMin x y then (if isMax then b else a, fl)
  else (if isMax then a else b, fl)

/-! ### Operations on encodings -/

def fAdd (f : Fmt) (rm : Rm) (a b : Nat) : Nat × Flags := addNum f rm (Num.ofBits f a) (Num.ofBits f b)
def fMul (f : Fmt) (rm : Rm) (a b : Nat) : Nat × Flags := mulNum f rm (Num.ofBits f a) (Num.ofBits f b)
def fFma (f : Fmt) (rm : Rm) (a b c : Nat) : Nat × Flags :=
  fmaNum f rm (Num.ofBits f a) (Num.ofBits f b) (Num.ofBits f c)

/-- The integer square root of `n`, bit by bit from bit `k` down. -/
def isqrtAux : Nat → Nat → Nat → Nat
  | 0, _, r => r
  | k + 1, n, r =>
    let r' := r + 2 ^ k
    isqrtAux k n (if r' * r' ≤ n then r' else r)

def isqrt (n : Nat) : Nat := isqrtAux (n.log2 / 2 + 1) n 0

/-- The reciprocal of R217: ±0 gives ±∞ and dz, ±∞ gives ±0. -/
def fRcp (f : Fmt) (rm : Rm) (a : Nat) : Nat × Flags :=
  match Num.ofBits f a with
  | .nan s => nanOf f s
  | .inf n => (withSign f n 0, flNone)
  | .fin n m e =>
    if m = 0 then (withSign f n f.infBits, flDz)
    else
      let k := m.log2 + f.mbits + 4
      roundFin f rm n (2 ^ k / m) (-(k : Int) - e) (2 ^ k % m != 0)

/-- The square root of R217. -/
def fSqrt (f : Fmt) (rm : Rm) (a : Nat) : Nat × Flags :=
  match Num.ofBits f a with
  | .nan s => nanOf f s
  | .inf n => if n then nanOf f true else (f.infBits, flNone)
  | .fin n m e =>
    if m = 0 then (withSign f n 0, flNone)
    else if n then nanOf f true
    else
      let sh := 2 * (f.mbits + 4) + (if e % 2 = 0 then 0 else 1)
      let r := isqrt (m <<< sh)
      roundFin f rm false r ((e - sh) / 2) (r * r != m <<< sh)

/-- 1/√a rounded by RNE (R217). -/
def fRsq (a : Nat) : Nat × Flags :=
  match Num.ofBits f32 a with
  | .nan s => nanOf f32 s
  | .inf n => if n then nanOf f32 true else (0, flNone)
  | .fin n m e =>
    if m = 0 then (withSign f32 n f32.infBits, flDz)
    else if n then nanOf f32 true
    else
      -- a = m' × 2^(2h); 1/√a = √(2^(2k)/m') × 2^(−k−h)
      let odd := e % 2 ≠ 0
      let m' := if odd then 2 * m else m
      let h := if odd then (e - 1) / 2 else e / 2
      let k := m'.log2 + 40
      let r := isqrt (2 ^ (2 * k) / m')
      roundFin f32 .rne false r (-(k : Int) - h) (r * r * m' != 2 ^ (2 * k))

/-! ### Conversions (R59-R62, R164) -/

/-- To e4m3 (R60, R61): the rounding goes on past 448; a larger result is the canonical NaN, or ±448 with .sat. -/
def toE4m3 (rm : Rm) (sat : Bool) (x : Num) : Nat × Flags :=
  match x with
  | .nan s => (0x7F, if s then flNv else flNone)
  | .inf n => if sat then ((if n then 0xFE else 0x7E), flNone) else (0x7F, flNv)
  | .fin n m e =>
    if m = 0 then (withSign e4m3 n 0, flNone)
    else
      let (mag, ix, tiny) := roundMag e4m3 rm n m e false
      if 0x7F ≤ mag then (if sat then withSign e4m3 n 0x7E else 0x7F, flOf ||| flNx)
      else (withSign e4m3 n mag, if ix then (if tiny then flUf ||| flNx else flNx) else flNone)

/-- To e5m2 with .sat (R61): overflow becomes ±57,344, an infinite input is clamped without a flag. -/
def toE5m2Sat (rm : Rm) (x : Num) : Nat × Flags :=
  match x with
  | .nan s => (0x7E, if s then flNv else flNone)
  | .inf n => (withSign e5m2 n e5m2.maxBits, flNone)
  | .fin n m e =>
    if m = 0 then (withSign e5m2 n 0, flNone)
    else
      let (mag, ix, tiny) := roundMag e5m2 rm n m e false
      if e5m2.infBits ≤ mag then (withSign e5m2 n e5m2.maxBits, flOf ||| flNx)
      else (withSign e5m2 n mag, if ix then (if tiny then flUf ||| flNx else flNx) else flNone)

/-- The canonical NaN of e5m2 is 0x7E (R56), which is the general rule's encoding. -/
def toFmt (f : Fmt) (rm : Rm) (x : Num) : Nat × Flags := roundNum f rm x

/-- A value to an integer between `lo` and `hi` (R62): NaN gives 0, an out-of-range result the nearer end; both raise
nv; any other inexact result raises nx. -/
def toInt (rm : Rm) (lo hi : Int) (x : Num) : Int × Flags :=
  match x with
  | .nan _ => (0, flNv)
  | .inf n => (if n then lo else hi, flNv)
  | .fin n m e =>
    let (r, ix) := roundTo rm n m e false 0
    let v : Int := if n then -(r : Int) else r
    if v < lo then (lo, flNv) else if hi < v then (hi, flNv)
    else (v, if ix then flNx else flNone)

/-- An integer as an exact value. -/
def Num.ofInt (v : Int) : Num := .fin (decide (v < 0)) v.natAbs 0

/-- An integer clamped to a range, no flag (R49). -/
def clampInt (lo hi v : Int) : Int := if v < lo then lo else if hi < v then hi else v

/-- The value of a cb4 level times 2^s times S, exactly (R50, R52). -/
def cb4Levels : List Int := [-128, -91, -68, -50, -35, -22, -11, 0, 9, 19, 30, 42, 56, 72, 94, 128]

/-- One decoded cb4 element (R52): s = −128 gives +0; a NaN or infinite super-scale gives NaN; else exact. -/
def cb4Value (idx : Nat) (s : Int) (S : Nat) : Num :=
  if s = -128 then .fin false 0 0
  else match Num.ofBits f32 S with
    | .fin n m e =>
      let lv := cb4Levels.getD idx 0
      .fin (decide (lv < 0) != n) (lv.natAbs * m) (e + s - 7)
    | _ => .nan false

/-! ### The array's arithmetic (R64-R68) -/

/-- The value of an f26 encoding: the binary32 value with six more zero bits (R44). -/
def f26Num (b : Nat) : Num := Num.ofBits f32 (b <<< 6)

/-- The sum of R64 over the exact products: NaN, an infinity, or products truncated at 2^(E−40) and added exactly. -/
def arraySum (prods : List Num) : Num :=
  if prods.any Num.isNan || (prods.any (· == .inf false) && prods.any (· == .inf true)) then .nan false
  else if prods.any (· == .inf false) then .inf false
  else if prods.any (· == .inf true) then .inf true
  else
    let tops := prods.filterMap fun p => match p with
      | .fin _ m e => if m = 0 then none else some ((m.log2 : Int) + e)
      | _ => none
    match tops with
    | [] => .fin false 0 0
    | t :: ts =>
      let q := ts.foldl max t - 40
      let s : Int := prods.foldl (fun (acc : Int) p => match p with
        | .fin n m e =>
          let a : Int := ((if q ≤ e then m <<< (e - q).toNat else m >>> (q - e).toNat : Nat) : Int)
          acc + (if n then -a else a)
        | _ => acc) (0 : Int)
      .fin (decide (s < 0)) s.natAbs q

/-- round_f26_rne of R65 on part + s: the new 26-bit partial and its flags. `anyNan` says that a product or the prior
partial is NaN, in which case no nv is raised. -/
def f26Add (part : Nat) (s : Num) (anyNan : Bool) : Nat × Flags :=
  match f26Num part, s with
  | .nan _, _ => (0x1FF0000, flNone)
  | _, .nan _ => (0x1FF0000, if anyNan then flNone else flNv)
  | .inf a, .inf b => if a = b then ((if a then 2 ^ 25 else 0) + (255 <<< 17), flNone)
      else (0x1FF0000, if anyNan then flNone else flNv)
  | .inf a, .fin _ _ _ => ((if a then 2 ^ 25 else 0) + (255 <<< 17), flNone)
  | .fin _ _ _, .inf b => ((if b then 2 ^ 25 else 0) + (255 <<< 17), flNone)
  | .fin n1 m1 e1, .fin n2 m2 e2 =>
    let q := min e1 e2
    let v := signedAt n1 m1 e1 q + signedAt n2 m2 e2 q
    if v = 0 then (0, flNone)
    else
      let neg := decide (v < 0)
      let m := v.natAbs
      let top := (m.log2 : Int) + q
      let (n, _) := roundTo .rne neg m q false (top - 17)
      -- the rounded magnitude is n × 2^(top−17), n between 2^17 and 2^18
      let top' := if n = 2 ^ 18 then top + 1 else top
      let frac := if n = 2 ^ 18 then 0 else n - 2 ^ 17
      let sg := if neg then 2 ^ 25 else 0
      if 127 < top' then (sg + (255 <<< 17), flOf)
      else if top' < -126 then (sg, flUf)
      else (sg + ((top' + 127).toNat <<< 17) + frac, flNone)

/-- Promotion (R68): the partial is added into the FP32 element with one RNE rounding; nx is never raised. -/
def promoteElem (acc : Nat) (part : Nat) : Nat × Flags :=
  let (v, fl) := addNum f32 .rne (Num.ofBits f32 acc) (f26Num part)
  (v, fl &&& ~~~flNx)

end Sys2Proof.Machine
end

