-- ==== Sys2Proof/Machine/Elem.lean ====
section
/-!
DEFINITION. The correctly rounded functions FEXP2, FLOG2, FSIN and FCOS of R217.

Each argument is a dyadic number, so it is reduced exactly. The reduced function is evaluated in fixed point with
512 fraction bits and the value is rounded once by RNE. The exact cases (an integer power of two and so on) are taken
apart first: outside them the value is irrational, so it is inexact and never a tie. DEDUCED (log 34): the error of the
evaluation, below 2^-490, decides no rounding of a binary32 argument.
-/

namespace Sys2Proof.Machine

/-- Fraction bits of the fixed-point evaluation. -/
def fxBits : Nat := 512

/-- ⌊ln 2 × 2^512⌋. -/
def fxLn2 : Nat := 0xb17217f7d1cf79abc9e3b39803f2f6af40f343267298b62d8a0d175b8baafa2be7b876206debac98559552fb4afa1b10ed2eae35c138214427573b291169b825

/-- ⌊π × 2^512⌋. -/
def fxPi : Nat := 0x3243f6a8885a308d313198a2e03707344a4093822299f31d0082efa98ec4e6c89452821e638d01377be5466cf34e90c6cc0ac29b7c97c50dd3f84d5b5b5470917

/-- The terms t^k / k! from term `k` on, with `fuel` terms left. -/
def expTerms : Nat → Nat → Nat → Nat → Nat
  | 0, _, _, _ => 0
  | fuel + 1, k, t, term => term + expTerms fuel (k + 1) t (((term * t) >>> fxBits) / (k + 1))

/-- e^t in fixed point for 0 ≤ t < 1. -/
def fxExp (t : Nat) : Nat := expTerms 130 0 t (2 ^ fxBits)

/-- The terms z^(2k+1) / (2k+1) from the power `p` on. -/
def atanhTerms : Nat → Nat → Nat → Nat → Nat
  | 0, _, _, _ => 0
  | fuel + 1, k, z2, p => p / (2 * k + 1) + atanhTerms fuel (k + 1) z2 ((p * z2) >>> fxBits)

/-- log2 of n/d in fixed point for 1 ≤ n/d < 2. -/
def fxLog2 (n d : Nat) : Nat :=
  let z := ((n - d) <<< fxBits) / (n + d)
  let ln := 2 * atanhTerms 180 0 ((z * z) >>> fxBits) z
  (ln <<< fxBits) / fxLn2

/-- The terms of the sine series, alternating. -/
def sinTerms : Nat → Nat → Nat → Int → Int
  | 0, _, _, _ => 0
  | fuel + 1, k, t2, term =>
    term + sinTerms fuel (k + 1) t2 (-((term * t2 / 2 ^ fxBits) / ((2 * k + 2) * (2 * k + 3))))

/-- sin t in fixed point for 0 ≤ t ≤ π/2. -/
def fxSin (t : Nat) : Nat := (sinTerms 90 0 ((t * t) >>> fxBits) t).toNat

/-- 2^a (R217). -/
def fExp2 (a : Nat) : Nat × Flags :=
  match Num.ofBits f32 a with
  | .nan s => nanOf f32 s
  | .inf n => (if n then 0 else f32.infBits, flNone)
  | .fin n m e =>
    if m = 0 then roundFin f32 .rne false 1 0 false
    else
      let big := decide (10 ≤ (m.log2 : Int) + e)
      if big then roundFin f32 .rne false 1 (if n then -1000 else 1000) true
      else
        -- the argument as an integer multiple of 2^-fxBits, exactly (e ≥ −149)
        let x := signedAt n m e (-(fxBits : Int))
        let i := x / 2 ^ fxBits
        let f := (x % 2 ^ fxBits).toNat
        if f = 0 then roundFin f32 .rne false 1 i false
        else roundFin f32 .rne false (fxExp ((f * fxLn2) >>> fxBits)) (i - fxBits) true

/-- log2 a (R217). -/
def fLog2 (a : Nat) : Nat × Flags :=
  match Num.ofBits f32 a with
  | .nan s => nanOf f32 s
  | .inf n => if n then nanOf f32 true else (f32.infBits, flNone)
  | .fin n m e =>
    if m = 0 then (withSign f32 true f32.infBits, flDz)
    else if n then nanOf f32 true
    else
      let k := m.log2
      let i : Int := (k : Int) + e
      if m = 2 ^ k then roundFin f32 .rne (decide (i < 0)) i.natAbs 0 false
      else
        let v : Int := i * 2 ^ fxBits + fxLog2 m (2 ^ k)
        roundFin f32 .rne (decide (v < 0)) v.natAbs (-(fxBits : Int)) true

/-- sin(π r/d) for 0 ≤ r < 2d, with the sign flipped by `neg`; `zneg` is the sign of an exact zero. -/
def sinTurn (neg zneg : Bool) (r d : Nat) : Nat × Flags :=
  if r % d = 0 then (withSign f32 zneg 0, flNone)
  else
    let low := decide (d < r)
    let r1 := if low then r - d else r
    let r2 := if d < 2 * r1 then d - r1 else r1
    let sg := neg != low
    if 2 * r2 = d then roundFin f32 .rne sg 1 0 false
    else roundFin f32 .rne sg (fxSin (fxPi * r2 / d)) (-(fxBits : Int)) true

/-- sin(π a) (R217). -/
def fSin (a : Nat) : Nat × Flags :=
  match Num.ofBits f32 a with
  | .nan s => nanOf f32 s
  | .inf _ => nanOf f32 true
  | .fin n m e =>
    if m = 0 ∨ 0 ≤ e then (withSign f32 n 0, flNone)
    else
      let d := 2 ^ (-e).toNat
      sinTurn n n (m % (2 * d)) d

/-- cos(π a) (R217). -/
def fCos (a : Nat) : Nat × Flags :=
  match Num.ofBits f32 a with
  | .nan s => nanOf f32 s
  | .inf _ => nanOf f32 true
  | .fin _ m e =>
    if m = 0 ∨ 1 ≤ e then roundFin f32 .rne false 1 0 false
    else if e = 0 then roundFin f32 .rne (m % 2 == 1) 1 0 false
    else
      let d := 2 ^ (-e).toNat
      sinTurn false false ((m + d / 2) % (2 * d)) d

end Sys2Proof.Machine
end

