-- ==== Sys2Proof/Config.lean ====
section
/-!
DEFINITION. What the spec leaves open and the model leaves free: opaque constants, of which Lean can prove no value.
-/

namespace Sys2Proof.Config

/-- The unpredictable contents of t0-t7 and L at the start of a run (R160): run stamp, thread index, register (8 is L).
DESIGN CHOICE, log 4. -/
opaque freeT : Nat → Nat → Nat → Word

/-- Which of the values R157 allows a short read receives: read stamp, thread index, register code. DESIGN CHOICE, log 5. -/
opaque freePick : Nat → Nat → Nat → Nat

/-- A value the spec states no contents for: stamp, and which of the values of that step. DESIGN CHOICE, log 6. -/
opaque freeWord : Nat → Nat → Word

/-- The half-lines of 64 bytes, by physical address over 64, in which an uncorrectable data error comes up in a clock, with the structure of
R364 (0 HBM, 1 L2, 6 cell cache, 7 tile directory, 8 uniform data cache). DESIGN CHOICE, log 10. -/
opaque dataErrors : Nat → FMap Nat

/-- The errors that come up in a clock in the structures of a core: window unit (0 register file, 1 scratch frames, 2 operand store,
3 accumulator memory), package core, word of the unit (R79, R364). DESIGN CHOICE, log 10. -/
opaque coreErrors : Nat → List (Nat × Nat × Nat)

/-- The package ids that the control kernel's routing table maps to a port, by the stamp of its load (R387). DESIGN CHOICE, log 10. -/
opaque routes : Nat → List Nat

/-- Where another package keeps the backing of its tile directory: its tdbase (R374). DESIGN CHOICE, log 10. -/
opaque remoteTdbase : Nat → DWord

/-- Verification of a firmware image by the ROM (R384): source and stamp to the reason code of R386, 0 when it passes.
DESIGN CHOICE, log 33. -/
opaque imageReason : Nat → Nat → BitVec 8

/-- The rollback counter of the image a source holds (R384, R386). DESIGN CHOICE, log 33. -/
opaque imageRollback : Nat → Nat → BitVec 32

/-- The SHAKE256 digest of the image a source holds (R386). DESIGN CHOICE, log 33. -/
opaque imageDigest : Nat → Nat → BitVec 512

/-- The fused minimum rollback counter (R386). DESIGN CHOICE, log 33. -/
opaque fusedRollback : BitVec 32

/-- The Ed448 public key of the device identity key (R386), 57 bytes. DESIGN CHOICE, log 33. -/
opaque deviceKey : BitVec 456

/-- The Ed448 signature by the device identity key of the 112 bytes of a report (R385, R386). DESIGN CHOICE, log 33. -/
opaque ed448Sign : BitVec 896 → BitVec 912

end Sys2Proof.Config
end

