-- ==== Sys2Proof/Syntax.lean ====
section
/-!
DEFINITION. The instructions and events of the FV7-B768: one constructor for each row of the opcode table.

The encoded instructions carry their fields as bit vectors of the width the format gives them (R146-R149, R162), in
ascending order of their bit positions; `st` is the stall field. The last constructors are the table's events (the
steps a device makes that no instruction word names): their arguments say which piece of state the event concerns.
-/

namespace Sys2Proof

/-- One constructor per row of the opcode table. -/
inductive Instr where
  /-- RUNH (R153). A thread reaching a run header reads its run predicate and either executes the body or skips the run; header-detected traps are taken first. -/
  | runh (len : BitVec 5) (trl : BitVec 1) (pred : BitVec 3) (sense : BitVec 1) (chk : BitVec 1)
  /-- RUNT (R154). The run trailer names up to three registers that are scoreboarded for later runs. -/
  | runt (c0 : BitVec 7) (c1 : BitVec 7) (c2 : BitVec 7) (cnt : BitVec 4)
  /-- BRA (R194). Each thread branches to the target run header when its selected predicate or kf bit xor sense is 1. -/
  | bra (cond : BitVec 4) (sense : BitVec 1) (off : BitVec 20)
  /-- CALL (R195). Writes the address after the run into a register pair and jumps to the target. -/
  | call (v : BitVec 7) (imm : BitVec 16)
  /-- RET (R195). Jumps to the 64-bit address held in the named pair. -/
  | ret (v : BitVec 7)
  /-- JMPK (R195). Jumps to the address held in a k register. -/
  | jmpk (k : BitVec 6)
  /-- EXIT (R195). Ends the thread, which issues nothing more. -/
  | exit
  /-- PWAIT_S (R250). Blocks until the given phase of a phase object in scratch has ended, then acquires. -/
  | pwaitS (st : BitVec 2) (k : BitVec 6) (v : BitVec 7)
  /-- PWAIT_G (R250). Blocks until the given phase of a phase object in global memory has ended, then acquires. -/
  | pwaitG (st : BitVec 2) (k : BitVec 6) (v : BitVec 7)
  /-- PWAIT_CNT (R250). Blocks until an engine counter is at or below the threshold, then acquires. -/
  | pwaitCnt (st : BitVec 2) (cnt : BitVec 2) (thr : BitVec 7)
  /-- PWAIT_FENCE (R250). Blocks until every fence of the thread up to the token's sequence number has completed. -/
  | pwaitFence (st : BitVec 2) (v : BitVec 7)
  /-- PWAIT_LOCK (R250). Blocks until the thread holds the queue-lock grant that the token names. -/
  | pwaitLock (st : BitVec 2) (v : BitVec 7)
  /-- SIGN (R287). The thread signs a convergence register, stalling while its count already equals the expected count. -/
  | sign (st : BitVec 2) (n : BitVec 3)
  /-- CVSET (R197). Sets a convergence register's expected count and clears its signature count. -/
  | cvset (st : BitVec 2) (n : BitVec 3) (i : BitVec 11)
  /-- ELECT (R166). Cross-thread: writes 1 to the predicate in the lowest-indexed active thread of each crew and 0 in the others. -/
  | elect (st : BitVec 2) (p : BitVec 3)
  /-- TRAP (R196). Gives the executing thread a precise TRAP trap carrying n. -/
  | trap (st : BitVec 2) (n : BitVec 21)
  /-- BKPT (R196). Gives the executing thread a precise BKPT trap carrying n. -/
  | bkpt (st : BitVec 2) (n : BitVec 21)
  /-- YIELD (R363). Ends the thread's part in a yield handler. -/
  | yield (st : BitVec 2)
  /-- ERET (R363). Returns from the trap record or the resume record, mid-run or at a run header. -/
  | eret (st : BitVec 2)
  /-- ERET_SKIP (R363). As ERET, but skips the returned-to instruction of a mid-run record. -/
  | eretSkip (st : BitVec 2)
  /-- KADD (R198). kd := ka + kb modulo 2^64. -/
  | kadd (st : BitVec 2) (d : BitVec 6) (a : BitVec 6) (b : BitVec 6)
  /-- KSUB (R198). kd := ka - kb modulo 2^64. -/
  | ksub (st : BitVec 2) (d : BitVec 6) (a : BitVec 6) (b : BitVec 6)
  /-- KMUL (R198). kd := low 64 bits of ka times kb. -/
  | kmul (st : BitVec 2) (d : BitVec 6) (a : BitVec 6) (b : BitVec 6)
  /-- KAND (R198). kd := ka and kb. -/
  | kand (st : BitVec 2) (d : BitVec 6) (a : BitVec 6) (b : BitVec 6)
  /-- KOR (R198). kd := ka or kb. -/
  | kor (st : BitVec 2) (d : BitVec 6) (a : BitVec 6) (b : BitVec 6)
  /-- KXOR (R198). kd := ka xor kb. -/
  | kxor (st : BitVec 2) (d : BitVec 6) (a : BitVec 6) (b : BitVec 6)
  /-- KSHL (R198). kd := ka shifted left by kb[5:0]. -/
  | kshl (st : BitVec 2) (d : BitVec 6) (a : BitVec 6) (b : BitVec 6)
  /-- KSHR (R198). kd := ka shifted right logically by kb[5:0]. -/
  | kshr (st : BitVec 2) (d : BitVec 6) (a : BitVec 6) (b : BitVec 6)
  /-- KSAR (R198). kd := ka shifted right arithmetically by kb[5:0]. -/
  | ksar (st : BitVec 2) (d : BitVec 6) (a : BitVec 6) (b : BitVec 6)
  /-- KMIN (R198). kd := signed minimum of ka and kb. -/
  | kmin (st : BitVec 2) (d : BitVec 6) (a : BitVec 6) (b : BitVec 6)
  /-- KMAX (R198). kd := signed maximum of ka and kb. -/
  | kmax (st : BitVec 2) (d : BitVec 6) (a : BitVec 6) (b : BitVec 6)
  /-- KMINN (R198). kd := unsigned minimum of ka and kb. -/
  | kminn (st : BitVec 2) (d : BitVec 6) (a : BitVec 6) (b : BitVec 6)
  /-- KMAXN (R198). kd := unsigned maximum of ka and kb. -/
  | kmaxn (st : BitVec 2) (d : BitVec 6) (a : BitVec 6) (b : BitVec 6)
  /-- KCMP (R198). Compares ka with kb and writes eq, lt, ltn and kz into kf. -/
  | kcmp (st : BitVec 2) (a : BitVec 6) (b : BitVec 6)
  /-- KADDI (R200). kd := ka + sign-extended imm11 modulo 2^64. -/
  | kaddi (st : BitVec 2) (d : BitVec 6) (a : BitVec 6) (i : BitVec 11)
  /-- KLDI (R201). Loads a 16-bit immediate into a k register at a 16-bit shift, clearing or keeping the other bits. -/
  | kldi (d : BitVec 6) (h : BitVec 2) (k : BitVec 1) (i : BitVec 16)
  /-- KLD (R202). One uniform load of 1 to 8 bytes into a k register through the uniform data cache. -/
  | kld (st : BitVec 2) (d : BitVec 6) (a : BitVec 6) (o : BitVec 6) (w : BitVec 2) (h : BitVec 2)
  /-- KST (R202). One uniform store of 1 to 8 bytes from a k register through the uniform data cache. -/
  | kst (st : BitVec 2) (d : BitVec 6) (a : BitVec 6) (o : BitVec 6) (w : BitVec 2) (h : BitVec 2)
  /-- KRD (R203). Reads kexc, kf, a counter, placement, grid coordinate or cell index into a k register. -/
  | krd (st : BitVec 2) (k : BitVec 6) (e : BitVec 8)
  /-- KWR (R203). Writes kexc or kf from a k register. -/
  | kwr (st : BitVec 2) (k : BitVec 6) (e : BitVec 8)
  /-- KMOVV (R203). Copies a lane register of the group's lowest-indexed thread into a k register. -/
  | kmovv (st : BitVec 2) (k : BitVec 6) (v : BitVec 7)
  /-- MOVK (R203). Copies the low 32 bits of a k register into a lane register of each thread. -/
  | movk (st : BitVec 2) (k : BitVec 6) (v : BitVec 7)
  /-- IADD (R204). 32-bit lane integer add, wrapping or saturating, as i32 or i16x2. -/
  | iadd (st : BitVec 2) (m : BitVec 2) (d : BitVec 7) (a : BitVec 7) (b : BitVec 7)
  /-- ISUB (R204). 32-bit lane integer subtract, wrapping or saturating, as i32 or i16x2. -/
  | isub (st : BitVec 2) (m : BitVec 2) (d : BitVec 7) (a : BitVec 7) (b : BitVec 7)
  /-- IMUL (R204). 32-bit lane integer multiply giving the low, signed high, unsigned high or packed product. -/
  | imul (st : BitVec 2) (m : BitVec 2) (d : BitVec 7) (a : BitVec 7) (b : BitVec 7)
  /-- IMAD (R204). Lane integer multiply-add d := a × b + d, as i32 or i16x2. -/
  | imad (st : BitVec 2) (m : BitVec 1) (d : BitVec 7) (a : BitVec 7) (b : BitVec 7)
  /-- IMIN (R204). Lane integer minimum, signed or unsigned, scalar or packed. -/
  | imin (st : BitVec 2) (m : BitVec 2) (d : BitVec 7) (a : BitVec 7) (b : BitVec 7)
  /-- IMAX (R204). Lane integer maximum, signed or unsigned, scalar or packed. -/
  | imax (st : BitVec 2) (m : BitVec 2) (d : BitVec 7) (a : BitVec 7) (b : BitVec 7)
  /-- ADDMIN (R63). d := min(d, a + b) with the sum rounded, wrapped or clamped once. -/
  | addmin (st : BitVec 2) (m : BitVec 2) (d : BitVec 7) (a : BitVec 7) (b : BitVec 7)
  /-- ADDMAX (R63). d := max(d, a + b) with the sum rounded, wrapped or clamped once. -/
  | addmax (st : BitVec 2) (m : BitVec 2) (d : BitVec 7) (a : BitVec 7) (b : BitVec 7)
  /-- AND (R206). d := a and b. -/
  | and (st : BitVec 2) (d : BitVec 7) (a : BitVec 7) (b : BitVec 7)
  /-- OR (R206). d := a or b. -/
  | or (st : BitVec 2) (d : BitVec 7) (a : BitVec 7) (b : BitVec 7)
  /-- XOR (R206). d := a xor b. -/
  | xor (st : BitVec 2) (d : BitVec 7) (a : BitVec 7) (b : BitVec 7)
  /-- ANDN (R206). d := a and not b. -/
  | andn (st : BitVec 2) (d : BitVec 7) (a : BitVec 7) (b : BitVec 7)
  /-- SHL (R206). d := a shifted left by b[4:0]. -/
  | shl (st : BitVec 2) (d : BitVec 7) (a : BitVec 7) (b : BitVec 7)
  /-- SHR (R206). d := a shifted right logically by b[4:0]. -/
  | shr (st : BitVec 2) (d : BitVec 7) (a : BitVec 7) (b : BitVec 7)
  /-- SAR (R206). d := a shifted right arithmetically by b[4:0]. -/
  | sar (st : BitVec 2) (d : BitVec 7) (a : BitVec 7) (b : BitVec 7)
  /-- ROL (R206). d := a rotated left by b[4:0]. -/
  | rol (st : BitVec 2) (d : BitVec 7) (a : BitVec 7) (b : BitVec 7)
  /-- POPC (R207). d := number of 1 bits in a. -/
  | popc (st : BitVec 2) (d : BitVec 7) (a : BitVec 7)
  /-- CLZ (R207). d := leading zeros of a. -/
  | clz (st : BitVec 2) (d : BitVec 7) (a : BitVec 7)
  /-- CTZ (R207). d := trailing zeros of a. -/
  | ctz (st : BitVec 2) (d : BitVec 7) (a : BitVec 7)
  /-- BREV (R207). d := a with its bit order reversed. -/
  | brev (st : BitVec 2) (d : BitVec 7) (a : BitVec 7)
  /-- NOT (R207). d := not a. -/
  | not (st : BitVec 2) (d : BitVec 7) (a : BitVec 7)
  /-- ABS (R207). d := absolute value of a as i32. -/
  | abs (st : BitVec 2) (d : BitVec 7) (a : BitVec 7)
  /-- NEG (R207). d := 0 - a modulo 2^32. -/
  | neg (st : BitVec 2) (d : BitVec 7) (a : BitVec 7)
  /-- BFX (R208). Extracts an unsigned bit field of a. -/
  | bfx (st : BitVec 2) (d : BitVec 7) (a : BitVec 7) (b : BitVec 7)
  /-- BFX_S (R208). Extracts a sign-extended bit field of a. -/
  | bfxS (st : BitVec 2) (d : BitVec 7) (a : BitVec 7) (b : BitVec 7)
  /-- BFI (R208). Inserts a bit field of a into d. -/
  | bfi (st : BitVec 2) (d : BitVec 7) (a : BitVec 7) (b : BitVec 7)
  /-- ICMP (R210). Integer comparison writing or combining into a predicate. -/
  | icmp (st : BitVec 2) (m : BitVec 2) (p : BitVec 3) (c : BitVec 4) (a : BitVec 7) (b : BitVec 7)
  /-- FCMP (R210). f32 comparison writing or combining into a predicate. -/
  | fcmp (st : BitVec 2) (m : BitVec 2) (p : BitVec 3) (c : BitVec 4) (a : BitVec 7) (b : BitVec 7)
  /-- SEL (R212). d := p[M] ? a : b in each thread. -/
  | sel (st : BitVec 2) (p : BitVec 2) (d : BitVec 7) (a : BitVec 7) (b : BitVec 7)
  /-- PLOG (R211). Writes a predicate from a truth table over two predicates. -/
  | plog (st : BitVec 2) (d : BitVec 3) (c : BitVec 4) (a : BitVec 3) (b : BitVec 3)
  /-- FADD (R213). f32 add rounded once by the mod. -/
  | fadd (st : BitVec 2) (m : BitVec 2) (d : BitVec 7) (a : BitVec 7) (b : BitVec 7)
  /-- FMUL (R213). f32 multiply rounded once by the mod. -/
  | fmul (st : BitVec 2) (m : BitVec 2) (d : BitVec 7) (a : BitVec 7) (b : BitVec 7)
  /-- FFMA (R213). f32 fused multiply-add d := a × b + d rounded once. -/
  | ffma (st : BitVec 2) (m : BitVec 2) (d : BitVec 7) (a : BitVec 7) (b : BitVec 7)
  /-- FMIN (R214). IEEE minimum of two f32 values. -/
  | fmin (st : BitVec 2) (d : BitVec 7) (a : BitVec 7) (b : BitVec 7)
  /-- FMAX (R214). IEEE maximum of two f32 values. -/
  | fmax (st : BitVec 2) (d : BitVec 7) (a : BitVec 7) (b : BitVec 7)
  /-- FMIN_NUM (R214). IEEE minimumNumber of two f32 values. -/
  | fminNum (st : BitVec 2) (d : BitVec 7) (a : BitVec 7) (b : BitVec 7)
  /-- FMAX_NUM (R214). IEEE maximumNumber of two f32 values. -/
  | fmaxNum (st : BitVec 2) (d : BitVec 7) (a : BitVec 7) (b : BitVec 7)
  /-- HADD (R215). Packed f16x2 add. -/
  | hadd (st : BitVec 2) (d : BitVec 7) (a : BitVec 7) (b : BitVec 7)
  /-- HMUL (R215). Packed f16x2 multiply. -/
  | hmul (st : BitVec 2) (d : BitVec 7) (a : BitVec 7) (b : BitVec 7)
  /-- HFMA (R215). Packed f16x2 fused multiply-add. -/
  | hfma (st : BitVec 2) (d : BitVec 7) (a : BitVec 7) (b : BitVec 7)
  /-- HFMA_BF16X2 (R215). Packed bf16x2 fused multiply-add. -/
  | hfmaBf16x2 (st : BitVec 2) (d : BitVec 7) (a : BitVec 7) (b : BitVec 7)
  /-- DADD (R216). f64 add on register pairs. -/
  | dadd (st : BitVec 2) (d : BitVec 7) (a : BitVec 7) (b : BitVec 7)
  /-- DMUL (R216). f64 multiply on register pairs. -/
  | dmul (st : BitVec 2) (d : BitVec 7) (a : BitVec 7) (b : BitVec 7)
  /-- DFMA (R216). f64 fused multiply-add on register pairs. -/
  | dfma (st : BitVec 2) (d : BitVec 7) (a : BitVec 7) (b : BitVec 7)
  /-- FNEG (R217). Inverts the f32 sign bit. -/
  | fneg (st : BitVec 2) (d : BitVec 7) (a : BitVec 7)
  /-- FABS (R217). Clears the f32 sign bit. -/
  | fabs (st : BitVec 2) (d : BitVec 7) (a : BitVec 7)
  /-- FRCP (R217). f32 reciprocal rounded by the mod. -/
  | frcp (st : BitVec 2) (m : BitVec 2) (d : BitVec 7) (a : BitVec 7)
  /-- FSQRT (R217). f32 square root rounded by the mod. -/
  | fsqrt (st : BitVec 2) (m : BitVec 2) (d : BitVec 7) (a : BitVec 7)
  /-- FRSQ (R217). f32 reciprocal square root, correctly rounded by RNE. -/
  | frsq (st : BitVec 2) (d : BitVec 7) (a : BitVec 7)
  /-- FEXP2 (R217). f32 2^a, correctly rounded by RNE. -/
  | fexp2 (st : BitVec 2) (d : BitVec 7) (a : BitVec 7)
  /-- FLOG2 (R217). f32 log2 a, correctly rounded by RNE. -/
  | flog2 (st : BitVec 2) (d : BitVec 7) (a : BitVec 7)
  /-- FSIN (R217). f32 sin(π a), correctly rounded by RNE. -/
  | fsin (st : BitVec 2) (d : BitVec 7) (a : BitVec 7)
  /-- FCOS (R217). f32 cos(π a), correctly rounded by RNE. -/
  | fcos (st : BitVec 2) (d : BitVec 7) (a : BitVec 7)
  /-- DNEG (R217). Inverts the f64 sign bit. -/
  | dneg (st : BitVec 2) (d : BitVec 7) (a : BitVec 7)
  /-- DABS (R217). Clears the f64 sign bit. -/
  | dabs (st : BitVec 2) (d : BitVec 7) (a : BitVec 7)
  /-- DRCP (R217). f64 reciprocal rounded by the mod. -/
  | drcp (st : BitVec 2) (m : BitVec 2) (d : BitVec 7) (a : BitVec 7)
  /-- DSQRT (R217). f64 square root rounded by the mod. -/
  | dsqrt (st : BitVec 2) (m : BitVec 2) (d : BitVec 7) (a : BitVec 7)
  /-- CVT (R218). Converts between floating and integer types by R59–R62. -/
  | cvt (st : BitVec 2) (m : BitVec 2) (d : BitVec 7) (a : BitVec 7) (t : BitVec 4) (r : BitVec 3)
  /-- IADDI (R209). d := a + sign-extended imm9 modulo 2^32. -/
  | iaddi (st : BitVec 2) (d : BitVec 7) (a : BitVec 7) (i : BitVec 9)
  /-- ANDI (R209). d := a and a sign-extended 7-bit immediate. -/
  | andi (st : BitVec 2) (d : BitVec 7) (a : BitVec 7) (i : BitVec 7)
  /-- ORI (R209). d := a or a sign-extended 7-bit immediate. -/
  | ori (st : BitVec 2) (d : BitVec 7) (a : BitVec 7) (i : BitVec 7)
  /-- XORI (R209). d := a xor a sign-extended 7-bit immediate. -/
  | xori (st : BitVec 2) (d : BitVec 7) (a : BitVec 7) (i : BitVec 7)
  /-- SHLI (R209). d := a shifted left by an immediate. -/
  | shli (st : BitVec 2) (d : BitVec 7) (a : BitVec 7) (n : BitVec 5)
  /-- SHRI (R209). d := a shifted right logically by an immediate. -/
  | shri (st : BitVec 2) (d : BitVec 7) (a : BitVec 7) (n : BitVec 5)
  /-- SARI (R209). d := a shifted right arithmetically by an immediate. -/
  | sari (st : BitVec 2) (d : BitVec 7) (a : BitVec 7) (n : BitVec 5)
  /-- ROLI (R209). d := a rotated left by an immediate. -/
  | roli (st : BitVec 2) (d : BitVec 7) (a : BitVec 7) (n : BitVec 5)
  /-- MOVI (R209). d := sign-extended imm16. -/
  | movi (st : BitVec 2) (d : BitVec 7) (i : BitVec 16)
  /-- SHFL (R219). Cross-thread: each active thread receives a source thread's value, named by index through the remapping table. -/
  | shfl (st : BitVec 2) (m : BitVec 2) (d : BitVec 7) (a : BitVec 7) (b : BitVec 7)
  /-- VOTE_ANY (R220). Cross-thread: d := 1 if any active thread has the predicate set. -/
  | voteAny (st : BitVec 2) (d : BitVec 7) (p : BitVec 3)
  /-- VOTE_ALL (R220). Cross-thread: d := 1 if every active thread has the predicate set. -/
  | voteAll (st : BitVec 2) (d : BitVec 7) (p : BitVec 3)
  /-- VOTE_BALLOT (R220). Cross-thread: d := mask of active threads with the predicate set. -/
  | voteBallot (st : BitVec 2) (d : BitVec 7) (p : BitVec 3)
  /-- CRED_ADD (R221). Cross-thread sum reduction over the active threads. -/
  | credAdd (st : BitVec 2) (t : BitVec 2) (d : BitVec 7) (a : BitVec 7)
  /-- CRED_MIN (R221). Cross-thread minimum reduction over the active threads. -/
  | credMin (st : BitVec 2) (t : BitVec 2) (d : BitVec 7) (a : BitVec 7)
  /-- CRED_MAX (R221). Cross-thread maximum reduction over the active threads. -/
  | credMax (st : BitVec 2) (t : BitVec 2) (d : BitVec 7) (a : BitVec 7)
  /-- CSCAN_INCL (R221). Cross-thread inclusive prefix sum in ascending thread index. -/
  | cscanIncl (st : BitVec 2) (t : BitVec 2) (d : BitVec 7) (a : BitVec 7)
  /-- CSCAN_EXCL (R221). Cross-thread exclusive prefix sum in ascending thread index. -/
  | cscanExcl (st : BitVec 2) (t : BitVec 2) (d : BitVec 7) (a : BitVec 7)
  /-- COMPRESS (R222). Cross-thread: packs the values of selected threads into the lowest active threads and gives the count in L. -/
  | compress (st : BitVec 2) (d : BitVec 7) (a : BitVec 7) (p : BitVec 3)
  /-- EXPAND (R222). Cross-thread: spreads the values of the lowest active threads to the selected threads and gives the count in L. -/
  | expand (st : BitVec 2) (d : BitVec 7) (a : BitVec 7) (p : BitVec 3)
  /-- MATCH (R220). Cross-thread: d := mask of active threads whose a equals this thread's a. -/
  | matchAny (st : BitVec 2) (d : BitVec 7) (a : BitVec 7)
  /-- LDS (R224). Lane scratch load of 2 to 16 bytes. -/
  | lds (st : BitVec 2) (w : BitVec 2) (d : BitVec 7) (a : BitVec 7) (o : BitVec 7)
  /-- STS (R224). Lane scratch store of 2 to 16 bytes. -/
  | sts (st : BitVec 2) (w : BitVec 2) (d : BitVec 7) (a : BitVec 7) (o : BitVec 7)
  /-- ATOMS (R226). Lane atomic on scratch, combining lanes that name one address in ascending thread index. -/
  | atoms (st : BitVec 2) (r : BitVec 2) (d : BitVec 7) (a : BitVec 7) (o : BitVec 5) (z : BitVec 2)
  /-- ATOMG (R226). Lane atomic on global memory performed at the home slice, combining lanes that name one address. -/
  | atomg (st : BitVec 2) (r : BitVec 2) (d : BitVec 7) (a : BitVec 7) (o : BitVec 5) (z : BitVec 2)
  /-- FGET (R229). Reads a future, returning it if full or taking a deferral entry if empty. -/
  | fget (st : BitVec 2) (d : BitVec 7) (a : BitVec 7) (p : BitVec 3)
  /-- FPUT (R229). Fills a future with bit 63 set and answers its deferred FGETs; a release. -/
  | fput (st : BitVec 2) (d : BitVec 7) (a : BitVec 7) (p : BitVec 3)
  /-- QLOCK (R230). Enqueues the thread on a queue lock at its home slice and returns a lock token. -/
  | qlock (st : BitVec 2) (d : BitVec 7) (a : BitVec 7) (p : BitVec 3)
  /-- QUNLOCK (R230). The holder hands the queue lock to the next queued thread or frees it; a release. -/
  | qunlock (st : BitVec 2) (a : BitVec 7)
  /-- CPY (R239). Issues an engine copy of a box between a tensor and scratch, a slot or global memory. -/
  | cpy (st : BitVec 2) (d : BitVec 6) (a : BitVec 6) (b : BitVec 6)
  /-- CPYRED_ARR (R240). Issues a reduce copy that adds the near box into the tensor at its home slices in arrival order. -/
  | cpyredArr (st : BitVec 2) (d : BitVec 6) (a : BitVec 6) (b : BitVec 6)
  /-- CPYRED_ORD (R240). Issues one ordered contribution of a reduce set that is installed when all n have arrived. -/
  | cpyredOrd (st : BitVec 2) (d : BitVec 6) (a : BitVec 6) (b : BitVec 6)
  /-- ICPY (R241). Issues an indexed gather of tensor rows into the near side. -/
  | icpy (st : BitVec 2) (d : BitVec 6) (a : BitVec 6) (b : BitVec 6)
  /-- ISCT (R241). Issues an indexed scatter of near rows into tensor rows. -/
  | isct (st : BitVec 2) (d : BitVec 6) (a : BitVec 6) (b : BitVec 6)
  /-- SREAD (R242). Issues a copy of a cell's committed value buffer to scratch, pinning the buffer until completion. -/
  | sread (st : BitVec 2) (d : BitVec 6) (a : BitVec 6) (b : BitVec 6)
  /-- PREF (R243). Issues a prefetch of the in-bounds tensor box into L2. -/
  | pref (st : BitVec 2) (d : BitVec 6) (a : BitVec 6) (b : BitVec 6)
  /-- CFLUSH (R245). Writes dirty words of cached non-coherent lines in a range to their home slices. -/
  | cflush (st : BitVec 2) (d : BitVec 6) (a : BitVec 6) (b : BitVec 6)
  /-- CINV (R245). Drops cached non-coherent lines in a range, discarding dirty words. -/
  | cinv (st : BitVec 2) (d : BitVec 6) (a : BitVec 6) (b : BitVec 6)
  /-- TCLASS (R244). Issues a scan of one tile that rewrites its directory entry and reports its class. -/
  | tclass (st : BitVec 2) (d : BitVec 6) (a : BitVec 6)
  /-- FENCE (R249). Returns a fence token covering the thread's prior accesses of the named class, with optional release or acquire. -/
  | fence (st : BitVec 2) (c : BitVec 2) (d : BitVec 7) (e : BitVec 2)
  /-- BINIT (R248). Initialises a phase object with its expected arrivals and phase number. -/
  | binit (st : BitVec 2) (d : BitVec 6) (a : BitVec 6) (b : BitVec 6) (g : BitVec 1)
  /-- BARRIVE (R248). Counts one arrival at a phase object, a release; held for the next phase when already complete. -/
  | barrive (st : BitVec 2) (d : BitVec 6) (a : BitVec 6) (g : BitVec 1)
  /-- BEXPECT (R248). Adds expected bytes to a phase object's current phase. -/
  | bexpect (st : BitVec 2) (d : BitVec 6) (a : BitVec 6) (b : BitVec 6) (g : BitVec 1)
  /-- HINS (R259). Inserts a key into a hash table, spilling when the bucket is full. -/
  | hins (st : BitVec 2) (k : BitVec 6) (q : BitVec 7)
  /-- HPROBE (R259). Looks a key up in a hash table. -/
  | hprobe (st : BitVec 2) (k : BitVec 6) (q : BitVec 7)
  /-- HDEL (R259). Turns a hash-table entry into a tombstone. -/
  | hdel (st : BitVec 2) (k : BitVec 6) (q : BitVec 7)
  /-- HACC (R259). Combines a value into a hash-table entry, placing the key if absent. -/
  | hacc (st : BitVec 2) (u : BitVec 3) (k : BitVec 6) (q : BitVec 7)
  /-- HDRAIN (R262). Copies every live entry of a table to a scratch buffer and optionally clears the table. -/
  | hdrain (st : BitVec 2) (k : BitVec 6) (q : BitVec 7)
  /-- HSTAT (R263). Returns a table's live, tombstone and spill counts. -/
  | hstat (st : BitVec 2) (k : BitVec 6) (q : BitVec 7)
  /-- HCLAIM (R257). Makes a new live hash table in the team's claimable scratch. -/
  | hclaim (st : BitVec 2) (k : BitVec 6) (q : BitVec 7)
  /-- HREL (R258). Clears a table's live bit. -/
  | hrel (st : BitVec 2) (k : BitVec 6) (q : BitVec 7)
  /-- XBEGIN (R270). Opens an elastic or strict atomic region with bounds from the order clock. -/
  | xbegin (st : BitVec 2) (e : BitVec 1) (k : BitVec 6) (v : BitVec 7)
  /-- XEND (R275). Commits the open region by seal, choose, broadcast and complete. -/
  | xend (st : BitVec 2) (k : BitVec 6) (v : BitVec 7)
  /-- XABORT (R270). Aborts the open region with cause explicit. -/
  | xabort (st : BitVec 2) (n : BitVec 7)
  /-- XRD (R270). Reads the region's xlo or xhi into a pair. -/
  | xrd (st : BitVec 2) (e : BitVec 1) (v : BitVec 7)
  /-- XLD (R271). Region load from a granule's home slice, joining the read set and narrowing bounds. -/
  | xld (st : BitVec 2) (w : BitVec 2) (d : BitVec 7) (a : BitVec 7) (o : BitVec 6)
  /-- XST (R271). Region store held for commit, joining the write set and narrowing bounds. -/
  | xst (st : BitVec 2) (w : BitVec 2) (d : BitVec 7) (a : BitVec 7) (o : BitVec 6)
  /-- SCLAIM (R286). Atomically claims the operand slots of a mask if all are free or already held. -/
  | sclaim (st : BitVec 2) (d : BitVec 6) (a : BitVec 6)
  /-- SREL (R286). Requests the release of held operand slots once their fills and reading matrix instructions have issued. -/
  | srel (st : BitVec 2) (d : BitVec 6) (a : BitVec 6)
  /-- SCLASS (R286). Returns an operand slot's descriptor. -/
  | sclass (st : BitVec 2) (d : BitVec 6) (a : BitVec 6)
  /-- MMA (R292). Issues a 64×64×64 matrix operation into an accumulator unit once its signatures and slots are ready. -/
  | mma (st : BitVec 2) (c : BitVec 3) (a : BitVec 4) (b : BitVec 4) (u : BitVec 4) (f : BitVec 1) (z : BitVec 1) (n : BitVec 1)
  /-- MMASP (R293). Issues a 2:4 structured-sparse matrix operation with a metadata slot. -/
  | mmasp (st : BitVec 2) (c : BitVec 3) (a : BitVec 4) (b : BitVec 4) (u : BitVec 4) (f : BitVec 1) (z : BitVec 1) (m : BitVec 4)
  /-- MMAG (R294). Issues a matrix operation with a B slot selected per 8-row group from a k register. -/
  | mmag (st : BitVec 2) (c : BitVec 3) (a : BitVec 4) (q : BitVec 4) (u : BitVec 4) (f : BitVec 1) (z : BitVec 1) (n : BitVec 1)
  /-- AZERO (R299). Issues a clear of a range of the team's accumulator units. -/
  | azero (st : BitVec 2) (k : BitVec 6)
  /-- ALD (R300). Issues a load of accumulator rows from scratch or global memory. -/
  | ald (st : BitVec 2) (k : BitVec 6) (d : BitVec 7)
  /-- AST (R300). Issues a store of accumulator rows to scratch or global memory, classifying them. -/
  | ast (st : BitVec 2) (k : BitVec 6) (d : BitVec 7)
  /-- AWIN (R297). Sets the accumulator window of each executing crew. -/
  | awin (st : BitVec 2) (k : BitVec 6)
  /-- ARD (R298). Reads one accumulator element per thread, promoting the unit first. -/
  | ard (st : BitVec 2) (k : BitVec 6) (d : BitVec 7) (n : BitVec 6) (h : BitVec 1)
  /-- AWR (R298). Writes one accumulator element per thread, promoting the unit first. -/
  | awr (st : BitVec 2) (k : BitVec 6) (d : BitVec 7) (n : BitVec 6) (h : BitVec 1)
  /-- APROMO (R301). Sets the team's promotion interval. -/
  | apromo (st : BitVec 2) (n : BitVec 7)
  /-- SCOMMIT (R332). Commits a standing cell's new value, residual and raises in one atomic release. -/
  | scommit (st : BitVec 2) (d : BitVec 6) (a : BitVec 6) (b : BitVec 6)
  /-- SRAISE (R333). Raises a cell of a standing set, receiving its sequence number; a release. -/
  | sraise (st : BitVec 2) (d : BitVec 6) (a : BitVec 6) (b : BitVec 6)
  /-- SQUERY (R334). Reads a cell's live residual, version, state and the set's absorbed sequence at one instant. -/
  | squery (st : BitVec 2) (d : BitVec 6) (a : BitVec 6) (b : BitVec 6)
  /-- SSTART (R335). Starts a standing set: assigns a set id, initialises cells, registers watches and begins dispatch. -/
  | sstart (st : BitVec 2) (d : BitVec 6) (a : BitVec 6)
  /-- SSTOP (R336). Stops a standing set from accepting raises and reads and makes no further dispatch. -/
  | sstop (st : BitVec 2) (d : BitVec 6) (a : BitVec 6)
  /-- GLAUNCH (R355). Launches a grid from a team record on the issuing die; a release. -/
  | glaunch (st : BitVec 2) (d : BitVec 6) (a : BitVec 6) (b : BitVec 6) (p : BitVec 3)
  /-- QPUT (R356). Copies one command into a queue ring and advances its write pointer, as a doorbell. -/
  | qput (st : BitVec 2) (d : BitVec 6) (a : BitVec 6) (b : BitVec 6) (p : BitVec 3)
  /-- SRD (R372). Privileged read of a system register into a k register. -/
  | srd (st : BitVec 2) (k : BitVec 6) (r : BitVec 15)
  /-- SWR (R372). Privileged write of a system register, taking effect at each team's next run header. -/
  | swr (st : BitVec 2) (k : BitVec 6) (r : BitVec 15)
  /-- TLBI (R372). Privileged translation shootdown of a context's page or all its translations. -/
  | tlbi (st : BitVec 2) (k : BitVec 6)
  /-- MOV (R146). 16-bit lane move d := s. -/
  | mov (d : BitVec 5) (s : BitVec 5)
  /-- IADD_16 (R146). 16-bit lane add d := d + s modulo 2^32. -/
  | iadd16 (d : BitVec 5) (s : BitVec 5)
  /-- ISUB_16 (R146). 16-bit lane subtract d := d - s modulo 2^32. -/
  | isub16 (d : BitVec 5) (s : BitVec 5)
  /-- IMUL_16 (R146). 16-bit lane multiply keeping the low 32 bits. -/
  | imul16 (d : BitVec 5) (s : BitVec 5)
  /-- FADD_16 (R146). 16-bit f32 add rounded by the code 0 rule. -/
  | fadd16 (d : BitVec 5) (s : BitVec 5)
  /-- FMUL_16 (R146). 16-bit f32 multiply rounded by the code 0 rule. -/
  | fmul16 (d : BitVec 5) (s : BitVec 5)
  /-- FMIN_16 (R146). 16-bit f32 IEEE minimum. -/
  | fmin16 (d : BitVec 5) (s : BitVec 5)
  /-- FMAX_16 (R146). 16-bit f32 IEEE maximum. -/
  | fmax16 (d : BitVec 5) (s : BitVec 5)
  /-- IMIN_16 (R146). 16-bit signed minimum. -/
  | imin16 (d : BitVec 5) (s : BitVec 5)
  /-- IMAX_16 (R146). 16-bit signed maximum. -/
  | imax16 (d : BitVec 5) (s : BitVec 5)
  /-- AND_16 (R146). 16-bit lane and. -/
  | and16 (d : BitVec 5) (s : BitVec 5)
  /-- OR_16 (R146). 16-bit lane or. -/
  | or16 (d : BitVec 5) (s : BitVec 5)
  /-- XOR_16 (R146). 16-bit lane xor. -/
  | xor16 (d : BitVec 5) (s : BitVec 5)
  /-- SHL_16 (R146). 16-bit lane shift left by s[4:0]. -/
  | shl16 (d : BitVec 5) (s : BitVec 5)
  /-- SHR_16 (R146). 16-bit lane logical shift right by s[4:0]. -/
  | shr16 (d : BitVec 5) (s : BitVec 5)
  /-- SAR_16 (R146). 16-bit lane arithmetic shift right by s[4:0]. -/
  | sar16 (d : BitVec 5) (s : BitVec 5)
  /-- NOP (R148). Short control word with no effect. -/
  | nop
  /-- STALL (R148). Holds the group n clocks before the next instruction of the run issues. -/
  | stall (n : BitVec 5)
  /-- RESULT_WRITEBACK (R158). A variable-latency result or token arrives and is written, releasing scoreboard waits. -/
  | resultWriteback (team i : Nat)
  /-- FENCE_COMPLETE (R127). Every access covered by a fence has performed at its home, completing the fence. -/
  | fenceComplete (team thread : Nat)
  /-- SCRATCH_PAGE_REFILL (R87). An unpinned scratch page finishes refilling into a frame and the stalled access proceeds. -/
  | scratchPageRefill (team page : Nat)
  /-- ENGINE_BYTES_LAND (R121). Bytes of an engine operation perform at their home and are counted toward its phase object. -/
  | engineBytesLand (op : Nat)
  /-- ENGINE_COMPLETE (R235). An engine operation finishes and writes its completion status into its token. -/
  | engineComplete (op : Nat)
  /-- ENGINE_RETIRE (R35). An engine or matrix operation retires in issue order and its counter decrements, setting matrix flags. -/
  | engineRetire (team cls : Nat)
  /-- CPYRED_SET_INSTALL (R240). When all n ordered contributions have arrived, the slice adds them in index order and installs the result. -/
  | cpyredSetInstall (start n : Nat)
  /-- SLOT_RELEASE (R286). A pending SREL takes effect once the slot's fill has completed and the named matrix instructions have issued. -/
  | slotRelease (rel : Nat)
  /-- FAULT_UNIT_PARK (R236). A fault unit that failed translation parks in the fault queue once an entry is free. -/
  | faultUnitPark (op : Nat)
  /-- WAITER_REEVALUATE (R251). Threads waiting on unregistered objects are re-evaluated when the registered object advances or after 4,096 clocks. -/
  | waiterReevaluate (team : Nat)
  /-- TEAM_PLACE (R344). Admission places the next team, cohort or saved team on a core of a cluster that has room. -/
  | teamPlace (die : Nat)
  /-- TEAM_ACTIVATE (R346). A core with fewer than 16 active teams activates a parked team, restoring its parked state. -/
  | teamActivate (core : Nat)
  /-- TEAM_PARK (R27). The core parks an active team whose live threads all wait while another team waits to become active. -/
  | teamPark (core : Nat)
  /-- ROTATION (R346). After a parked team has had a ready thread for 100 µs, the core parks active teams to activate it. -/
  | rotation (core : Nat)
  /-- TEAM_RETIRE (R38). A team whose threads have all exited and whose operations have all completed releases its resources. -/
  | teamRetire (team : Nat)
  /-- DISCARD_REQUEUE (R351). Once its counters read zero, a discarded grid team is re-queued under its launch. -/
  | discardRequeue (team : Nat)
  /-- TEAM_SAVE (R352). Once every live thread has yielded or is exempt and cnt.matrix is zero, the team's state is written and its resources released. -/
  | teamSave (team : Nat)
  /-- PREEMPTION_COMPLETE (R382). All outcomes of a pre-emption request are complete; busy clears and an interrupt entry is posted. -/
  | preemptionComplete (die : Nat)
  /-- LINE_READ_REQUEST (R92). A core's read of a D line reaches its home slice and is recorded as a sharer. -/
  | lineReadRequest (core line : Nat)
  /-- EXCLUSIVE_REQUEST (R92). A core's store requests a D line exclusively and the home sends invalidations. -/
  | exclusiveRequest (core line : Nat)
  /-- INVALIDATION (R92). A core receives an invalidation and acknowledges it, whether or not it holds the line. -/
  | invalidation (core line : Nat)
  /-- INVALIDATION_ACK (R92). The home counts an acknowledgement against the outstanding invalidations. -/
  | invalidationAck (core line : Nat)
  /-- EXCLUSIVE_GRANT (R92). With all acknowledgements received, the writer is granted the line and the store performs. -/
  | exclusiveGrant (core line : Nat)
  /-- LINE_WRITEBACK (R94). A core writes dirty bytes of a cached line back to the home slice on its own. -/
  | lineWriteback (core line : Nat)
  /-- RECALL_ANSWER (R98). The home receives a holder's recall answer and grants once all have answered. -/
  | recallAnswer (pkg page : Nat)
  /-- HOLDER_GRANT (R98). The requesting package receives its shared or exclusive grant and its line access completes. -/
  | holderGrant (page : Nat) (excl : Bool)
  /-- TLB_SHOOTDOWN_ACK (R100). A die acknowledges a shootdown once its older-generation accesses have performed. -/
  | tlbShootdownAck (die shoot : Nat)
  /-- GRANULE_REQUEST (R273). A region's XLD or XST arrives at the granule's home slice and narrows bounds. -/
  | granuleRequest (req : Nat)
  /-- NARROWING (R272). A narrowing message arrives at a region and raises xlo or lowers xhi. -/
  | narrowing (msg : Nat)
  /-- SEAL (R275). A seal arrives at a granule's slice, which returns the recorded bounds and holds other requests. -/
  | seal (team thread : Nat)
  /-- COMMIT_APPLY (R276). A commit position reaches a sealed slice, which installs bytes and updates wpos, rpos and other regions. -/
  | commitApply (team thread : Nat)
  /-- RAISE_ABSORB (R315). A raise is absorbed at its cell in sequence order, updating res or inacc and possibly queuing the cell. -/
  | raiseAbsorb (set : Nat)
  /-- DISPATCH_SLOT (R323). A dispatch slot occurs and is assigned to a fairness class by the credit procedure. -/
  | dispatchSlot (die : Nat)
  /-- QUIESCENCE_RECORD (R329). A quiescent set writes its quiescence record and signals its phase object and vector. -/
  | quiescenceRecord (set : Nat)
  /-- SSTOP_COMPLETE (R336). Once running cells are settled and SREADs done, every record is written back and the set id freed. -/
  | sstopComplete (set : Nat)
  /-- QUEUE_FETCH (R378). The owner die fetches the next entry of a queue once the previous command has completed. -/
  | queueFetch (q : Nat)
  /-- LAUNCH (R380). Host command that launches a grid from a team record. -/
  | launch (q : Nat)
  /-- START_SET (R335). Host command with the effect of SSTART. -/
  | startSet (q : Nat)
  /-- STOP_SET (R336). Host command with the effect of SSTOP. -/
  | stopSet (q : Nat)
  /-- RAISE (R333). Host command with the effect of SRAISE. -/
  | raise (q : Nat)
  /-- COPY (R380). Host command that performs a copy with a global near side. -/
  | copy (q : Nat)
  /-- SIGNAL (R380). Host command that makes one BARRIVE on a global phase object. -/
  | signal (q : Nat)
  /-- WAIT (R380). Host command that completes when the named phase has ended. -/
  | wait (q : Nat)
  /-- COMMAND_COMPLETE (R380). A command completes: its completion word is written, its arrival made and rp advanced. -/
  | commandComplete (q : Nat)
  /-- HOST_WRITE (R388). A host write to device memory arrives over a host link, receives its CRC and performs at its home slice. -/
  | hostWrite (pa : Nat) (data : List (BitVec 8))
  /-- FAULT_REPLAY (R236). The control kernel replays a parked fault unit. -/
  | faultReplay (fu : Nat)
  /-- FAULT_DECLARE_UNSERVICEABLE (R236). The control kernel declares a parked fault unit unserviceable; its bytes are not moved. -/
  | faultDeclareUnserviceable (fu : Nat)
  /-- PREEMPTION_REQUEST (R348). Writing prq.go issues a pre-emption request whose estimator fixes drain, discard or save per team. -/
  | preemptionRequest (die : Nat)
  /-- PRQ_LATE_CLEAR (R382). Writing 1 to prq.st.late clears it. -/
  | prqLateClear (die : Nat)
  /-- EVICTION_NOTICE (R92). A core's eviction notice reaches the home and removes its pointer in pointer mode. -/
  | evictionNotice (core line : Nat)
  /-- HOLDER_READ_REQUEST (R98). A package's read of a page homed elsewhere reaches the home package. -/
  | holderReadRequest (pkg page : Nat)
  /-- HOLDER_WRITE_REQUEST (R98). A package's upgrade or write of a page homed elsewhere reaches the home package. -/
  | holderWriteRequest (pkg page : Nat)
  /-- RECALL_DOWNGRADE (R98). The exclusive holder collects dirty words, sends them home, keeps shared copies and answers. -/
  | recallDowngrade (page : Nat)
  /-- RECALL_INVALIDATE (R98). A holder invalidates the page at its cores, sends dirty words home and answers. -/
  | recallInvalidate (page : Nat)
  /-- HOLDER_RELEASE (R98). A package's release of a page removes it from the holder record. -/
  | holderRelease (pkg page : Nat)
  /-- DOORBELL (R379). A doorbell write carrying a new wp is accepted or ignored; a release of earlier host writes. -/
  | doorbell (q : Nat) (wp : BitVec 64)
  /-- REPLICA_INVALIDATE (R378). An invalidation of a queue-record replica arrives at a die. -/
  | replicaInvalidate (die q : Nat)
  /-- CTLOAD (R375). Writing n to ctload makes every die load context n from its record. -/
  | ctload (n : Nat)
  /-- FWCTL_APPLY (R326). Writing fwctl.apply applies the pending fairness weights at the next slot, or sets bad if they do not sum to 256. -/
  | fwctlApply
  /-- FWCTL_BAD_CLEAR (R326). Writing 1 to fwctl.bad clears it. -/
  | fwctlBadClear
  /-- MCR_ACK (R382). Writing mcr.ack advances to the next machine-check report. -/
  | mcrAck
  /-- IRQ_RP_WRITE (R383). Writing irq.rp marks entries read and drops the interrupt line when rp equals wp. -/
  | irqRpWrite (die : Nat) (v : BitVec 32)
  /-- IRQ_LOST_CLEAR (R383). Writing 0 to irq.lost clears the dropped-entry count. -/
  | irqLostClear (die : Nat)
  /-- REGISTER_WRITE (R373). A write to an MMIO register with no behaviour of its own stores the value under its map's rules. -/
  | registerWrite (off : Nat) (v : BitVec 64)
  /-- DEVICE_RESET (R384). At reset the ROM reads and begins verifying the firmware image from SPI flash, then NVMe. -/
  | deviceReset
  /-- BOOT_IMAGE_VERIFIED (R384). Image verification ends, starting the kernel or leaving the package in recovery. -/
  | bootImageVerified
  /-- RWGO (R386). Writing rwgo in recovery makes the ROM read a recovery image by DMA and verify it. -/
  | rwgo (v : BitVec 64)
  /-- RECOVERY_IMAGE_VERIFIED (R386). Recovery image verification ends, starting the kernel or returning to recovery. -/
  | recoveryImageVerified
  /-- ATGO (R386). Writing atgo starts an attestation report over the host nonce. -/
  | atgo (v : BitVec 64)
  /-- ATTEST_REPORT_READY (R385). The signed attestation report is written and atst shows it ready. -/
  | attestReportReady
  /-- FLIT_RECEIVE (R387). A fabric flit is received and checked, and retried at link level until intact. -/
  | flitReceive (intact : Bool) (pa : Nat) (data : List (BitVec 8))
  /-- PACKAGE_FAILURE (R389). A missed heartbeat or lost link detects a failed package and starts domain recovery. -/
  | packageFailure (pkg : Nat)
  /-- THERMAL_THROTTLE (R390). A cluster at its power or thermal limit inserts idle issue cycles. -/
  | thermalThrottle (cluster : Nat)
  /-- CONTROL_LOOP_RETUNE (R390). Hardware loops retune SerDes equalisation and cluster voltage without stopping traffic. -/
  | controlLoopRetune
  /-- LIFE_RECORD_UPDATE (R391). Every 60 s and at shutdown the control kernel updates the life record on NVMe. -/
  | lifeRecordUpdate
  /-- CONTROL_CORE_ACCESS (R80). A control core's own load or store reaches device memory or a window unit and is performed at the addressed structure. -/
  | controlCoreAccess (write : Bool) (pa w : Nat) (v : BitVec 64)
  /-- QUEUE_SUSPEND_CLEAR (R381). The control kernel clears susp of a suspended queue, and the fetch of its entry is retried. -/
  | queueSuspendClear (q : Nat)
  /-- THROTTLE_END (R390). A cluster that falls back below its power or thermal limit stops inserting idle issue cycles. -/
  | throttleEnd (cluster : Nat)
deriving DecidableEq, Repr

end Sys2Proof
end

