-- ==== Sys2Proof/WellFormed.lean ====
section
/-!
DEFINITION. Which instruction words are legal as words: the checks of R147, R150 and R168 that look at the word alone.

Checks that need the executing team (registers beyond its declaration, R151; convergence registers, R197, R289) or the
run around the word (L without a result, R160; the run's structure, R168) are made when the word executes. A run header
and a trailer decode whatever their fields hold, because R168 detects their faults at the header: `Instr.wf` says which
of them are well formed.
-/

namespace Sys2Proof

/-- A 32-bit source operand code (R150): v0-v111, t0-t7, L, zero, tid. -/
def src32 (c : BitVec 7) : Bool := decide (c.toNat ≤ 122)

/-- A 32-bit destination operand code (R150): the source codes but tid. -/
def dst32 (c : BitVec 7) : Bool := decide (c.toNat ≤ 121)

/-- The even code of a v pair, v0-v110 (R150, R195). -/
def vPair (c : BitVec 7) : Bool := decide (c.toNat ≤ 110) && c.toNat % 2 == 0

/-- The even code of a t pair (R150). -/
def tPair (c : BitVec 7) : Bool := decide (112 ≤ c.toNat) && decide (c.toNat ≤ 118) && c.toNat % 2 == 0

/-- A 64-bit destination operand code (R150): a pair, or zero. -/
def dst64 (c : BitVec 7) : Bool := vPair c || tPair c || c == 121

/-- A 64-bit source operand code (R150): a pair, zero, or tid. -/
def src64 (c : BitVec 7) : Bool := dst64 c || c == 122

/-- A quad named by its register (R150): a multiple of 4 in v0-v108. -/
def quadReg (c : BitVec 7) : Bool := decide (c.toNat ≤ 108) && c.toNat % 4 == 0

/-- A 16-byte operand code (R150): a quad, or zero. -/
def quad (c : BitVec 7) : Bool := quadReg c || c == 121

/-- A predicate field that names a written predicate (R163): p0-p6. -/
def wpred (p : BitVec 3) : Bool := p != 7

/-- The short operand codes of R147. -/
def shortCode (c : BitVec 5) : Bool := decide (c.toNat ≤ 25)

/-- LDS and XLD data by width code (R224, R271): a register but L and tid, a pair, or a quad. -/
def loadData (w : BitVec 2) (d : BitVec 7) : Bool :=
  if w.toNat ≤ 1 then dst32 d && d != 120 else if w == 2 then dst64 d else quad d

/-- STS data by width code (R224): L and tid only at 2 and 4 bytes. -/
def storeData (w : BitVec 2) (d : BitVec 7) : Bool :=
  if w.toNat ≤ 1 then src32 d else if w == 2 then dst64 d else quad d

/-- XST data by width code (R150, R271): a source of its width, tid among the pairs. -/
def xstData (w : BitVec 2) (d : BitVec 7) : Bool :=
  if w.toNat ≤ 1 then src32 d else if w == 2 then src64 d else quad d

/-- Size, operation and data code of a lane atomic (R163, R225, R227). -/
def atomOk (z : BitVec 2) (o : BitVec 5) (d : BitVec 7) : Bool :=
  decide (z.toNat ≤ 1) && decide (o.toNat ≤ 11) &&
  (if o == 10 then z == 0 && dst32 d
   else if o == 11 then (if z == 0 then vPair d || tPair d else quadReg d)
   else if z == 0 then dst32 d else dst64 d)

/-- The destination type of a conversion is 64 bits wide (R164). -/
def cvtDst64 (t : BitVec 4) : Bool := t == 7 || t == 14

/-- The source type of a conversion is 64 bits wide (R164). -/
def cvtSrc64 (r : BitVec 3) : Bool := r == 5

/-- The pairings of R164: floating types that differ as written, a floating type with an integer type either way, and
an integer source with a saturating narrow destination or i64. -/
def cvtLegal (t : BitVec 4) (r : BitVec 3) : Bool :=
  let dstFloat := decide (t.toNat ≤ 7)
  let srcFloat := decide (r.toNat ≤ 5)
  let same := (t == 0 && r == 0) || (t == 1 && r == 1) || (t == 2 && r == 2) || (t == 3 && r == 3) ||
    (t == 5 && r == 4) || (t == 7 && r == 5)
  t != 15 &&
  (if dstFloat && srcFloat then !same
   else if dstFloat || srcFloat then true
   else decide (10 ≤ t.toNat))

/-- The system-register numbers of R372. -/
def srNum (r : BitVec 15) : Bool := decide (r.toNat ≤ 9) || (decide (0x10 ≤ r.toNat) && decide (r.toNat ≤ 0x2F))

/-- The field rules of a run trailer (R154). -/
def trailerOk (cnt : BitVec 4) (c0 c1 c2 : BitVec 7) : Bool :=
  decide (cnt.toNat ≤ 3) && decide (c0.toNat ≤ 111) && decide (c1.toNat ≤ 111) && decide (c2.toNat ≤ 111) &&
  (decide (1 ≤ cnt.toNat) || c0 == 0) && (decide (2 ≤ cnt.toNat) || c1 == 0) && (decide (3 ≤ cnt.toNat) || c2 == 0)

/-- The word of `i` is legal taken alone (R168). An event has no word and nothing to check. -/
def Instr.wf : Instr → Bool
  | .runh len _ _ _ _ => decide (1 ≤ len.toNat) && decide (len.toNat ≤ 24)
  | .runt c0 c1 c2 cnt => trailerOk cnt c0 c1 c2
  | .bra cond _ _ => decide (cond.toNat ≤ 11)
  | .call v _ => vPair v
  | .ret v => vPair v
  | .jmpk _ => true
  | .exit => true
  | .pwaitS _ _ v => src32 v
  | .pwaitG _ _ v => src32 v
  | .pwaitCnt _ _ _ => true
  | .pwaitFence _ v => src32 v
  | .pwaitLock _ v => src32 v
  | .sign _ _ => true
  | .cvset _ _ i => decide (1 ≤ i.toNat) && decide (i.toNat ≤ 1024)
  | .elect _ p => wpred p
  | .trap _ _ => true
  | .bkpt _ _ => true
  | .yield _ => true
  | .eret _ => true
  | .eretSkip _ => true
  | .kadd _ _ _ _ => true
  | .ksub _ _ _ _ => true
  | .kmul _ _ _ _ => true
  | .kand _ _ _ _ => true
  | .kor _ _ _ _ => true
  | .kxor _ _ _ _ => true
  | .kshl _ _ _ _ => true
  | .kshr _ _ _ _ => true
  | .ksar _ _ _ _ => true
  | .kmin _ _ _ _ => true
  | .kmax _ _ _ _ => true
  | .kminn _ _ _ _ => true
  | .kmaxn _ _ _ _ => true
  | .kcmp _ _ _ => true
  | .kaddi _ _ _ _ => true
  | .kldi _ _ _ _ => true
  | .kld _ _ _ _ _ h => h != 3
  | .kst _ _ _ _ _ h => h == 0 || h == 2
  | .krd _ _ e => decide (e.toNat ≤ 10)
  | .kwr _ _ e => decide (e.toNat ≤ 1)
  | .kmovv _ _ v => src32 v
  | .movk _ _ v => dst32 v
  | .iadd _ _ d a b => dst32 d && src32 a && src32 b
  | .isub _ _ d a b => dst32 d && src32 a && src32 b
  | .imul _ _ d a b => dst32 d && src32 a && src32 b
  | .imad _ _ d a b => dst32 d && src32 a && src32 b
  | .imin _ _ d a b => dst32 d && src32 a && src32 b
  | .imax _ _ d a b => dst32 d && src32 a && src32 b
  | .addmin _ _ d a b => dst32 d && src32 a && src32 b
  | .addmax _ _ d a b => dst32 d && src32 a && src32 b
  | .and _ d a b => dst32 d && src32 a && src32 b
  | .or _ d a b => dst32 d && src32 a && src32 b
  | .xor _ d a b => dst32 d && src32 a && src32 b
  | .andn _ d a b => dst32 d && src32 a && src32 b
  | .shl _ d a b => dst32 d && src32 a && src32 b
  | .shr _ d a b => dst32 d && src32 a && src32 b
  | .sar _ d a b => dst32 d && src32 a && src32 b
  | .rol _ d a b => dst32 d && src32 a && src32 b
  | .popc _ d a => dst32 d && src32 a
  | .clz _ d a => dst32 d && src32 a
  | .ctz _ d a => dst32 d && src32 a
  | .brev _ d a => dst32 d && src32 a
  | .not _ d a => dst32 d && src32 a
  | .abs _ d a => dst32 d && src32 a
  | .neg _ d a => dst32 d && src32 a
  | .bfx _ d a b => dst32 d && src32 a && src32 b
  | .bfxS _ d a b => dst32 d && src32 a && src32 b
  | .bfi _ d a b => dst32 d && src32 a && src32 b
  | .icmp _ m p c a b => wpred p && decide (c.toNat ≤ 9) && m != 3 && src32 a && src32 b
  | .fcmp _ m p c a b => wpred p && decide (c.toNat ≤ 7) && m != 3 && src32 a && src32 b
  | .sel _ _ d a b => dst32 d && src32 a && src32 b
  | .plog _ d _ _ _ => wpred d
  | .fadd _ _ d a b => dst32 d && src32 a && src32 b
  | .fmul _ _ d a b => dst32 d && src32 a && src32 b
  | .ffma _ _ d a b => dst32 d && src32 a && src32 b
  | .fmin _ d a b => dst32 d && src32 a && src32 b
  | .fmax _ d a b => dst32 d && src32 a && src32 b
  | .fminNum _ d a b => dst32 d && src32 a && src32 b
  | .fmaxNum _ d a b => dst32 d && src32 a && src32 b
  | .hadd _ d a b => dst32 d && src32 a && src32 b
  | .hmul _ d a b => dst32 d && src32 a && src32 b
  | .hfma _ d a b => dst32 d && src32 a && src32 b
  | .hfmaBf16x2 _ d a b => dst32 d && src32 a && src32 b
  | .dadd _ d a b => dst64 d && src64 a && src64 b
  | .dmul _ d a b => dst64 d && src64 a && src64 b
  | .dfma _ d a b => dst64 d && src64 a && src64 b
  | .fneg _ d a => dst32 d && src32 a
  | .fabs _ d a => dst32 d && src32 a
  | .frcp _ _ d a => dst32 d && src32 a
  | .fsqrt _ _ d a => dst32 d && src32 a
  | .frsq _ d a => dst32 d && src32 a
  | .fexp2 _ d a => dst32 d && src32 a
  | .flog2 _ d a => dst32 d && src32 a
  | .fsin _ d a => dst32 d && src32 a
  | .fcos _ d a => dst32 d && src32 a
  | .dneg _ d a => dst64 d && src64 a
  | .dabs _ d a => dst64 d && src64 a
  | .drcp _ _ d a => dst64 d && src64 a
  | .dsqrt _ _ d a => dst64 d && src64 a
  | .cvt _ _ d a t r => cvtLegal t r && (if cvtDst64 t then dst64 d else dst32 d) && (if cvtSrc64 r then src64 a else src32 a)
  | .iaddi _ d a _ => dst32 d && src32 a
  | .andi _ d a _ => dst32 d && src32 a
  | .ori _ d a _ => dst32 d && src32 a
  | .xori _ d a _ => dst32 d && src32 a
  | .shli _ d a _ => dst32 d && src32 a
  | .shri _ d a _ => dst32 d && src32 a
  | .sari _ d a _ => dst32 d && src32 a
  | .roli _ d a _ => dst32 d && src32 a
  | .movi _ d _ => dst32 d
  | .shfl _ _ d a b => dst32 d && src32 a && src32 b
  | .voteAny _ d _ => dst32 d
  | .voteAll _ d _ => dst32 d
  | .voteBallot _ d _ => dst32 d
  | .credAdd _ t d a => dst32 d && src32 a && t != 3
  | .credMin _ t d a => dst32 d && src32 a && t != 3
  | .credMax _ t d a => dst32 d && src32 a && t != 3
  | .cscanIncl _ t d a => dst32 d && src32 a && t != 3
  | .cscanExcl _ t d a => dst32 d && src32 a && t != 3
  | .compress _ d a _ => dst32 d && d != 120 && src32 a
  | .expand _ d a _ => dst32 d && d != 120 && src32 a
  | .matchAny _ d a => dst32 d && src32 a
  | .lds _ w d a _ => loadData w d && src32 a
  | .sts _ w d a _ => storeData w d && src32 a
  | .atoms _ _ d a o z => atomOk z o d && src32 a
  | .atomg _ _ d a o z => atomOk z o d && src64 a
  | .fget _ d a p => wpred p && dst64 d && src64 a
  | .fput _ d a p => wpred p && src64 d && src64 a
  | .qlock _ d a p => wpred p && dst32 d && src64 a
  | .qunlock _ a => src64 a
  | .cpy _ _ _ b => decide (b.toNat ≤ 59)
  | .cpyredArr _ _ _ b => decide (b.toNat ≤ 59)
  | .cpyredOrd _ _ _ b => decide (b.toNat ≤ 59)
  | .icpy _ _ _ b => decide (b.toNat ≤ 60)
  | .isct _ _ _ b => decide (b.toNat ≤ 60)
  | .sread _ d _ b => decide (b.toNat ≤ 62) && decide (d.toNat ≤ 62)
  | .pref _ _ _ b => decide (b.toNat ≤ 59)
  | .cflush _ _ _ _ => true
  | .cinv _ _ _ _ => true
  | .tclass _ _ _ => true
  | .fence _ c d _ => c != 0 && decide (d.toNat ≤ 119)
  | .binit _ _ _ _ _ => true
  | .barrive _ _ _ _ => true
  | .bexpect _ _ _ _ _ => true
  | .hins _ _ q => quadReg q
  | .hprobe _ _ q => quadReg q
  | .hdel _ _ q => quadReg q
  | .hacc _ u _ q => quadReg q && decide (u.toNat ≤ 4)
  | .hdrain _ _ q => quadReg q
  | .hstat _ _ q => quadReg q
  | .hclaim _ k q => quadReg q && decide (k.toNat ≤ 61)
  | .hrel _ _ q => quadReg q
  | .xbegin _ _ _ v => decide (v.toNat ≤ 111)
  | .xend _ _ v => vPair v || v == 121
  | .xabort _ _ => true
  | .xrd _ _ v => vPair v
  | .xld _ w d a _ => loadData w d && src64 a
  | .xst _ w d a _ => xstData w d && src64 a
  | .sclaim _ _ _ => true
  | .srel _ _ _ => true
  | .sclass _ _ _ => true
  | .mma _ _ _ _ _ _ _ _ => true
  | .mmasp _ _ _ _ _ _ _ _ => true
  | .mmag _ _ _ _ _ _ _ _ => true
  | .azero _ _ => true
  | .ald _ k d => dst32 d && d != 120 && decide (k.toNat ≤ 62)
  | .ast _ k d => dst32 d && d != 120 && decide (k.toNat ≤ 62)
  | .awin _ _ => true
  | .ard _ _ d _ _ => dst32 d && d != 120
  | .awr _ _ d _ _ => decide (d.toNat ≤ 121)
  | .apromo _ n => decide (1 ≤ n.toNat) && decide (n.toNat ≤ 64)
  | .scommit _ _ _ b => decide (b.toNat ≤ 62)
  | .sraise _ d _ b => decide (b.toNat ≤ 62) && decide (d.toNat ≤ 62)
  | .squery _ d _ _ => decide (d.toNat ≤ 61)
  | .sstart _ _ _ => true
  | .sstop _ _ _ => true
  | .glaunch _ _ _ b p => wpred p && decide (b.toNat ≤ 60)
  | .qput _ _ _ _ p => wpred p
  | .srd _ _ r => srNum r
  | .swr _ _ r => srNum r
  | .tlbi _ _ => true
  | .mov d s => shortCode d && shortCode s
  | .iadd16 d s => shortCode d && shortCode s
  | .isub16 d s => shortCode d && shortCode s
  | .imul16 d s => shortCode d && shortCode s
  | .fadd16 d s => shortCode d && shortCode s
  | .fmul16 d s => shortCode d && shortCode s
  | .fmin16 d s => shortCode d && shortCode s
  | .fmax16 d s => shortCode d && shortCode s
  | .imin16 d s => shortCode d && shortCode s
  | .imax16 d s => shortCode d && shortCode s
  | .and16 d s => shortCode d && shortCode s
  | .or16 d s => shortCode d && shortCode s
  | .xor16 d s => shortCode d && shortCode s
  | .shl16 d s => shortCode d && shortCode s
  | .shr16 d s => shortCode d && shortCode s
  | .sar16 d s => shortCode d && shortCode s
  | .nop => true
  | .stall n => n != 0
  | .resultWriteback _ _ => true
  | .fenceComplete _ _ => true
  | .scratchPageRefill _ _ => true
  | .engineBytesLand _ => true
  | .engineComplete _ => true
  | .engineRetire _ _ => true
  | .cpyredSetInstall _ _ => true
  | .slotRelease _ => true
  | .faultUnitPark _ => true
  | .faultReplay _ => true
  | .faultDeclareUnserviceable _ => true
  | .waiterReevaluate _ => true
  | .teamPlace _ => true
  | .teamActivate _ => true
  | .teamPark _ => true
  | .rotation _ => true
  | .teamRetire _ => true
  | .preemptionRequest _ => true
  | .discardRequeue _ => true
  | .teamSave _ => true
  | .preemptionComplete _ => true
  | .prqLateClear _ => true
  | .lineReadRequest _ _ => true
  | .exclusiveRequest _ _ => true
  | .invalidation _ _ => true
  | .invalidationAck _ _ => true
  | .evictionNotice _ _ => true
  | .exclusiveGrant _ _ => true
  | .lineWriteback _ _ => true
  | .holderReadRequest _ _ => true
  | .holderWriteRequest _ _ => true
  | .recallDowngrade _ => true
  | .recallInvalidate _ => true
  | .recallAnswer _ _ => true
  | .holderRelease _ _ => true
  | .holderGrant _ _ => true
  | .tlbShootdownAck _ _ => true
  | .granuleRequest _ => true
  | .narrowing _ => true
  | .seal _ _ => true
  | .commitApply _ _ => true
  | .raiseAbsorb _ => true
  | .dispatchSlot _ => true
  | .quiescenceRecord _ => true
  | .sstopComplete _ => true
  | .doorbell _ _ => true
  | .replicaInvalidate _ _ => true
  | .queueFetch _ => true
  | .launch _ => true
  | .startSet _ => true
  | .stopSet _ => true
  | .raise _ => true
  | .copy _ => true
  | .signal _ => true
  | .wait _ => true
  | .commandComplete _ => true
  | .ctload _ => true
  | .fwctlApply => true
  | .fwctlBadClear => true
  | .mcrAck => true
  | .irqRpWrite _ _ => true
  | .irqLostClear _ => true
  | .registerWrite _ _ => true
  | .deviceReset => true
  | .bootImageVerified => true
  | .rwgo _ => true
  | .recoveryImageVerified => true
  | .atgo _ => true
  | .attestReportReady => true
  | .flitReceive _ _ _ => true
  | .packageFailure _ => true
  | .thermalThrottle _ => true
  | .controlLoopRetune => true
  | .lifeRecordUpdate => true
  | .hostWrite _ _ => true
  | .controlCoreAccess _ _ _ _ => true
  | .queueSuspendClear _ => true
  | .throttleEnd _ => true

/-- A well-formed instruction. -/
abbrev WellFormed (i : Instr) : Prop := i.wf = true

end Sys2Proof
end

