-- ==== Sys2Proof/Decode.lean ====
section
/-!
DEFINITION. The decoder and the encoder of the instruction words (R143-R168), both written from the opcode map of R162
and R163 and the formats of R146-R149.

`decode32` and `decode16` read one word; a word that R168 makes illegal as a word is rejected by name and never read as
a neighbour. Run headers and trailers decode whatever their fields hold (R168 detects their faults at the header).
-/

namespace Sys2Proof

/-- Why a word is no instruction. -/
inductive DecodeError where
  /-- fewer bytes than the word needs -/
  | truncated
  /-- a major opcode of R162 that is reserved -/
  | reservedMajor
  /-- a reserved selector value, or a nonzero bit where the format requires zero (R168) -/
  | reservedSelector
  /-- an operand code, predicate or field value that R168 makes illegal -/
  | illegalOperand
deriving DecidableEq, Repr

/-- Bits [lo+n-1:lo] of a 32-bit word. -/
def fld (w : BitVec 32) (lo n : Nat) : BitVec n := w.extractLsb' lo n

/-- Bits [lo+n-1:lo] of a 16-bit word. -/
def fld16 (w : BitVec 16) (lo n : Nat) : BitVec n := w.extractLsb' lo n

/-- The instruction of one row of R162's selectors, by major opcode, before its operand codes are checked. -/
def raw32 (w : BitVec 32) : Except DecodeError Instr :=
  match (fld w 1 6).toNat with
  | 0x00 =>
    if fld w 18 14 = 0x0#14 then .ok (.runh (fld w 7 5) (fld w 12 1) (fld w 13 3) (fld w 16 1) (fld w 17 1)) else
    .error .reservedSelector
  | 0x01 =>
    .ok (.runt (fld w 7 7) (fld w 14 7) (fld w 21 7) (fld w 28 4))
  | 0x02 =>
    .ok (.bra (fld w 7 4) (fld w 11 1) (fld w 12 20))
  | 0x03 =>
    if fld w 7 2 = 0x0#2 then .ok (.call (fld w 9 7) (fld w 16 16)) else
    if fld w 7 2 = 0x1#2 ∧ fld w 16 16 = 0x0#16 then .ok (.ret (fld w 9 7)) else
    if fld w 7 2 = 0x2#2 ∧ fld w 15 17 = 0x0#17 then .ok (.jmpk (fld w 9 6)) else
    if fld w 7 25 = 0x3#25 then .ok (.exit) else
    .error .reservedSelector
  | 0x04 =>
    if fld w 9 3 = 0x0#3 ∧ fld w 25 7 = 0x0#7 then .ok (.pwaitS (fld w 7 2) (fld w 12 6) (fld w 18 7)) else
    if fld w 9 3 = 0x1#3 ∧ fld w 25 7 = 0x0#7 then .ok (.pwaitG (fld w 7 2) (fld w 12 6) (fld w 18 7)) else
    if fld w 9 3 = 0x2#3 ∧ fld w 14 11 = 0x790#11 then .ok (.pwaitCnt (fld w 7 2) (fld w 12 2) (fld w 25 7)) else
    if fld w 9 9 = 0x3#9 ∧ fld w 25 7 = 0x0#7 then .ok (.pwaitFence (fld w 7 2) (fld w 18 7)) else
    if fld w 9 9 = 0x4#9 ∧ fld w 25 7 = 0x0#7 then .ok (.pwaitLock (fld w 7 2) (fld w 18 7)) else
    .error .reservedSelector
  | 0x05 =>
    if fld w 9 2 = 0x0#2 ∧ fld w 14 18 = 0x0#18 then .ok (.sign (fld w 7 2) (fld w 11 3)) else
    if fld w 9 2 = 0x1#2 ∧ fld w 25 7 = 0x0#7 then .ok (.cvset (fld w 7 2) (fld w 11 3) (fld w 14 11)) else
    if fld w 9 2 = 0x2#2 ∧ fld w 14 18 = 0x0#18 then .ok (.elect (fld w 7 2) (fld w 11 3)) else
    .error .reservedSelector
  | 0x06 =>
    if fld w 9 2 = 0x0#2 then .ok (.trap (fld w 7 2) (fld w 11 21)) else
    if fld w 9 2 = 0x1#2 then .ok (.bkpt (fld w 7 2) (fld w 11 21)) else
    if fld w 9 23 = 0x2#23 then .ok (.yield (fld w 7 2)) else
    if fld w 9 23 = 0x3#23 then .ok (.eret (fld w 7 2)) else
    if fld w 9 23 = 0x7#23 then .ok (.eretSkip (fld w 7 2)) else
    .error .reservedSelector
  | 0x07 =>
    if fld w 27 5 = 0x0#5 then .ok (.kadd (fld w 7 2) (fld w 9 6) (fld w 15 6) (fld w 21 6)) else
    if fld w 27 5 = 0x1#5 then .ok (.ksub (fld w 7 2) (fld w 9 6) (fld w 15 6) (fld w 21 6)) else
    if fld w 27 5 = 0x2#5 then .ok (.kmul (fld w 7 2) (fld w 9 6) (fld w 15 6) (fld w 21 6)) else
    if fld w 27 5 = 0x3#5 then .ok (.kand (fld w 7 2) (fld w 9 6) (fld w 15 6) (fld w 21 6)) else
    if fld w 27 5 = 0x4#5 then .ok (.kor (fld w 7 2) (fld w 9 6) (fld w 15 6) (fld w 21 6)) else
    if fld w 27 5 = 0x5#5 then .ok (.kxor (fld w 7 2) (fld w 9 6) (fld w 15 6) (fld w 21 6)) else
    if fld w 27 5 = 0x6#5 then .ok (.kshl (fld w 7 2) (fld w 9 6) (fld w 15 6) (fld w 21 6)) else
    if fld w 27 5 = 0x7#5 then .ok (.kshr (fld w 7 2) (fld w 9 6) (fld w 15 6) (fld w 21 6)) else
    if fld w 27 5 = 0x8#5 then .ok (.ksar (fld w 7 2) (fld w 9 6) (fld w 15 6) (fld w 21 6)) else
    if fld w 27 5 = 0x9#5 then .ok (.kmin (fld w 7 2) (fld w 9 6) (fld w 15 6) (fld w 21 6)) else
    if fld w 27 5 = 0xa#5 then .ok (.kmax (fld w 7 2) (fld w 9 6) (fld w 15 6) (fld w 21 6)) else
    if fld w 27 5 = 0xb#5 then .ok (.kminn (fld w 7 2) (fld w 9 6) (fld w 15 6) (fld w 21 6)) else
    if fld w 27 5 = 0xc#5 then .ok (.kmaxn (fld w 7 2) (fld w 9 6) (fld w 15 6) (fld w 21 6)) else
    if fld w 9 6 = 0x0#6 ∧ fld w 27 5 = 0xd#5 then .ok (.kcmp (fld w 7 2) (fld w 15 6) (fld w 21 6)) else
    .error .reservedSelector
  | 0x08 =>
    .ok (.kaddi (fld w 7 2) (fld w 9 6) (fld w 15 6) (fld w 21 11))
  | 0x09 =>
    .ok (.kldi (fld w 7 6) (fld w 13 2) (fld w 15 1) (fld w 16 16))
  | 0x0a =>
    if fld w 27 1 = 0x0#1 then .ok (.kld (fld w 7 2) (fld w 9 6) (fld w 15 6) (fld w 21 6) (fld w 28 2) (fld w 30 2)) else
    if fld w 27 1 = 0x1#1 then .ok (.kst (fld w 7 2) (fld w 9 6) (fld w 15 6) (fld w 21 6) (fld w 28 2) (fld w 30 2)) else
    .error .reservedSelector
  | 0x0b =>
    if fld w 9 2 = 0x0#2 ∧ fld w 17 7 = 0x0#7 then .ok (.krd (fld w 7 2) (fld w 11 6) (fld w 24 8)) else
    if fld w 9 2 = 0x1#2 ∧ fld w 17 7 = 0x0#7 then .ok (.kwr (fld w 7 2) (fld w 11 6) (fld w 24 8)) else
    if fld w 9 2 = 0x2#2 ∧ fld w 24 8 = 0x0#8 then .ok (.kmovv (fld w 7 2) (fld w 11 6) (fld w 17 7)) else
    if fld w 9 2 = 0x3#2 ∧ fld w 24 8 = 0x0#8 then .ok (.movk (fld w 7 2) (fld w 11 6) (fld w 17 7)) else
    .error .reservedSelector
  | 0x0c =>
    .ok (.iadd (fld w 7 2) (fld w 9 2) (fld w 11 7) (fld w 18 7) (fld w 25 7))
  | 0x0d =>
    .ok (.isub (fld w 7 2) (fld w 9 2) (fld w 11 7) (fld w 18 7) (fld w 25 7))
  | 0x0e =>
    .ok (.imul (fld w 7 2) (fld w 9 2) (fld w 11 7) (fld w 18 7) (fld w 25 7))
  | 0x0f =>
    if fld w 10 1 = 0x0#1 then .ok (.imad (fld w 7 2) (fld w 9 1) (fld w 11 7) (fld w 18 7) (fld w 25 7)) else
    .error .reservedSelector
  | 0x10 =>
    .ok (.imin (fld w 7 2) (fld w 9 2) (fld w 11 7) (fld w 18 7) (fld w 25 7))
  | 0x11 =>
    .ok (.imax (fld w 7 2) (fld w 9 2) (fld w 11 7) (fld w 18 7) (fld w 25 7))
  | 0x12 =>
    .ok (.addmin (fld w 7 2) (fld w 9 2) (fld w 11 7) (fld w 18 7) (fld w 25 7))
  | 0x13 =>
    .ok (.addmax (fld w 7 2) (fld w 9 2) (fld w 11 7) (fld w 18 7) (fld w 25 7))
  | 0x14 =>
    if fld w 9 2 = 0x0#2 then .ok (.and (fld w 7 2) (fld w 11 7) (fld w 18 7) (fld w 25 7)) else
    if fld w 9 2 = 0x1#2 then .ok (.or (fld w 7 2) (fld w 11 7) (fld w 18 7) (fld w 25 7)) else
    if fld w 9 2 = 0x2#2 then .ok (.xor (fld w 7 2) (fld w 11 7) (fld w 18 7) (fld w 25 7)) else
    if fld w 9 2 = 0x3#2 then .ok (.andn (fld w 7 2) (fld w 11 7) (fld w 18 7) (fld w 25 7)) else
    .error .reservedSelector
  | 0x15 =>
    if fld w 9 2 = 0x0#2 then .ok (.shl (fld w 7 2) (fld w 11 7) (fld w 18 7) (fld w 25 7)) else
    if fld w 9 2 = 0x1#2 then .ok (.shr (fld w 7 2) (fld w 11 7) (fld w 18 7) (fld w 25 7)) else
    if fld w 9 2 = 0x2#2 then .ok (.sar (fld w 7 2) (fld w 11 7) (fld w 18 7) (fld w 25 7)) else
    if fld w 9 2 = 0x3#2 then .ok (.rol (fld w 7 2) (fld w 11 7) (fld w 18 7) (fld w 25 7)) else
    .error .reservedSelector
  | 0x16 =>
    if fld w 9 2 = 0x0#2 ∧ fld w 25 7 = 0x0#7 then .ok (.popc (fld w 7 2) (fld w 11 7) (fld w 18 7)) else
    if fld w 9 2 = 0x0#2 ∧ fld w 25 7 = 0x1#7 then .ok (.clz (fld w 7 2) (fld w 11 7) (fld w 18 7)) else
    if fld w 9 2 = 0x0#2 ∧ fld w 25 7 = 0x2#7 then .ok (.ctz (fld w 7 2) (fld w 11 7) (fld w 18 7)) else
    if fld w 9 2 = 0x0#2 ∧ fld w 25 7 = 0x3#7 then .ok (.brev (fld w 7 2) (fld w 11 7) (fld w 18 7)) else
    if fld w 9 2 = 0x0#2 ∧ fld w 25 7 = 0x4#7 then .ok (.not (fld w 7 2) (fld w 11 7) (fld w 18 7)) else
    if fld w 9 2 = 0x0#2 ∧ fld w 25 7 = 0x5#7 then .ok (.abs (fld w 7 2) (fld w 11 7) (fld w 18 7)) else
    if fld w 9 2 = 0x0#2 ∧ fld w 25 7 = 0x6#7 then .ok (.neg (fld w 7 2) (fld w 11 7) (fld w 18 7)) else
    .error .reservedSelector
  | 0x17 =>
    if fld w 9 2 = 0x0#2 then .ok (.bfx (fld w 7 2) (fld w 11 7) (fld w 18 7) (fld w 25 7)) else
    if fld w 9 2 = 0x1#2 then .ok (.bfxS (fld w 7 2) (fld w 11 7) (fld w 18 7) (fld w 25 7)) else
    if fld w 9 2 = 0x2#2 then .ok (.bfi (fld w 7 2) (fld w 11 7) (fld w 18 7) (fld w 25 7)) else
    .error .reservedSelector
  | 0x18 =>
    .ok (.icmp (fld w 7 2) (fld w 9 2) (fld w 11 3) (fld w 14 4) (fld w 18 7) (fld w 25 7))
  | 0x19 =>
    .ok (.fcmp (fld w 7 2) (fld w 9 2) (fld w 11 3) (fld w 14 4) (fld w 18 7) (fld w 25 7))
  | 0x1a =>
    .ok (.sel (fld w 7 2) (fld w 9 2) (fld w 11 7) (fld w 18 7) (fld w 25 7))
  | 0x1b =>
    if fld w 9 2 = 0x0#2 ∧ fld w 21 4 = 0x0#4 ∧ fld w 28 4 = 0x0#4 then .ok (.plog (fld w 7 2) (fld w 11 3) (fld w 14 4) (fld w 18 3) (fld w 25 3)) else
    .error .reservedSelector
  | 0x1c =>
    .ok (.fadd (fld w 7 2) (fld w 9 2) (fld w 11 7) (fld w 18 7) (fld w 25 7))
  | 0x1d =>
    .ok (.fmul (fld w 7 2) (fld w 9 2) (fld w 11 7) (fld w 18 7) (fld w 25 7))
  | 0x1e =>
    .ok (.ffma (fld w 7 2) (fld w 9 2) (fld w 11 7) (fld w 18 7) (fld w 25 7))
  | 0x1f =>
    if fld w 9 2 = 0x0#2 then .ok (.fmin (fld w 7 2) (fld w 11 7) (fld w 18 7) (fld w 25 7)) else
    if fld w 9 2 = 0x1#2 then .ok (.fmax (fld w 7 2) (fld w 11 7) (fld w 18 7) (fld w 25 7)) else
    if fld w 9 2 = 0x2#2 then .ok (.fminNum (fld w 7 2) (fld w 11 7) (fld w 18 7) (fld w 25 7)) else
    if fld w 9 2 = 0x3#2 then .ok (.fmaxNum (fld w 7 2) (fld w 11 7) (fld w 18 7) (fld w 25 7)) else
    .error .reservedSelector
  | 0x20 =>
    if fld w 9 2 = 0x0#2 then .ok (.hadd (fld w 7 2) (fld w 11 7) (fld w 18 7) (fld w 25 7)) else
    if fld w 9 2 = 0x1#2 then .ok (.hmul (fld w 7 2) (fld w 11 7) (fld w 18 7) (fld w 25 7)) else
    if fld w 9 2 = 0x2#2 then .ok (.hfma (fld w 7 2) (fld w 11 7) (fld w 18 7) (fld w 25 7)) else
    if fld w 9 2 = 0x3#2 then .ok (.hfmaBf16x2 (fld w 7 2) (fld w 11 7) (fld w 18 7) (fld w 25 7)) else
    .error .reservedSelector
  | 0x21 =>
    if fld w 9 2 = 0x0#2 then .ok (.dadd (fld w 7 2) (fld w 11 7) (fld w 18 7) (fld w 25 7)) else
    if fld w 9 2 = 0x1#2 then .ok (.dmul (fld w 7 2) (fld w 11 7) (fld w 18 7) (fld w 25 7)) else
    if fld w 9 2 = 0x2#2 then .ok (.dfma (fld w 7 2) (fld w 11 7) (fld w 18 7) (fld w 25 7)) else
    .error .reservedSelector
  | 0x22 =>
    if fld w 9 2 = 0x0#2 ∧ fld w 25 7 = 0x0#7 then .ok (.fneg (fld w 7 2) (fld w 11 7) (fld w 18 7)) else
    if fld w 9 2 = 0x0#2 ∧ fld w 25 7 = 0x1#7 then .ok (.fabs (fld w 7 2) (fld w 11 7) (fld w 18 7)) else
    if fld w 25 7 = 0x2#7 then .ok (.frcp (fld w 7 2) (fld w 9 2) (fld w 11 7) (fld w 18 7)) else
    if fld w 25 7 = 0x3#7 then .ok (.fsqrt (fld w 7 2) (fld w 9 2) (fld w 11 7) (fld w 18 7)) else
    if fld w 9 2 = 0x0#2 ∧ fld w 25 7 = 0x4#7 then .ok (.frsq (fld w 7 2) (fld w 11 7) (fld w 18 7)) else
    if fld w 9 2 = 0x0#2 ∧ fld w 25 7 = 0x5#7 then .ok (.fexp2 (fld w 7 2) (fld w 11 7) (fld w 18 7)) else
    if fld w 9 2 = 0x0#2 ∧ fld w 25 7 = 0x6#7 then .ok (.flog2 (fld w 7 2) (fld w 11 7) (fld w 18 7)) else
    if fld w 9 2 = 0x0#2 ∧ fld w 25 7 = 0x7#7 then .ok (.fsin (fld w 7 2) (fld w 11 7) (fld w 18 7)) else
    if fld w 9 2 = 0x0#2 ∧ fld w 25 7 = 0x8#7 then .ok (.fcos (fld w 7 2) (fld w 11 7) (fld w 18 7)) else
    if fld w 9 2 = 0x0#2 ∧ fld w 25 7 = 0x9#7 then .ok (.dneg (fld w 7 2) (fld w 11 7) (fld w 18 7)) else
    if fld w 9 2 = 0x0#2 ∧ fld w 25 7 = 0xa#7 then .ok (.dabs (fld w 7 2) (fld w 11 7) (fld w 18 7)) else
    if fld w 25 7 = 0xb#7 then .ok (.drcp (fld w 7 2) (fld w 9 2) (fld w 11 7) (fld w 18 7)) else
    if fld w 25 7 = 0xc#7 then .ok (.dsqrt (fld w 7 2) (fld w 9 2) (fld w 11 7) (fld w 18 7)) else
    .error .reservedSelector
  | 0x23 =>
    .ok (.cvt (fld w 7 2) (fld w 9 2) (fld w 11 7) (fld w 18 7) (fld w 25 4) (fld w 29 3))
  | 0x24 =>
    .ok (.iaddi (fld w 7 2) (fld w 9 7) (fld w 16 7) (fld w 23 9))
  | 0x25 =>
    if fld w 30 2 = 0x0#2 then .ok (.andi (fld w 7 2) (fld w 9 7) (fld w 16 7) (fld w 23 7)) else
    if fld w 30 2 = 0x1#2 then .ok (.ori (fld w 7 2) (fld w 9 7) (fld w 16 7) (fld w 23 7)) else
    if fld w 30 2 = 0x2#2 then .ok (.xori (fld w 7 2) (fld w 9 7) (fld w 16 7) (fld w 23 7)) else
    .error .reservedSelector
  | 0x26 =>
    if fld w 28 4 = 0x0#4 then .ok (.shli (fld w 7 2) (fld w 9 7) (fld w 16 7) (fld w 23 5)) else
    if fld w 28 4 = 0x4#4 then .ok (.shri (fld w 7 2) (fld w 9 7) (fld w 16 7) (fld w 23 5)) else
    if fld w 28 4 = 0x8#4 then .ok (.sari (fld w 7 2) (fld w 9 7) (fld w 16 7) (fld w 23 5)) else
    if fld w 28 4 = 0xc#4 then .ok (.roli (fld w 7 2) (fld w 9 7) (fld w 16 7) (fld w 23 5)) else
    .error .reservedSelector
  | 0x27 =>
    .ok (.movi (fld w 7 2) (fld w 9 7) (fld w 16 16))
  | 0x28 =>
    .ok (.shfl (fld w 7 2) (fld w 9 2) (fld w 11 7) (fld w 18 7) (fld w 25 7))
  | 0x29 =>
    if fld w 9 2 = 0x0#2 ∧ fld w 18 7 = 0x0#7 ∧ fld w 28 4 = 0x0#4 then .ok (.voteAny (fld w 7 2) (fld w 11 7) (fld w 25 3)) else
    if fld w 9 2 = 0x0#2 ∧ fld w 18 7 = 0x0#7 ∧ fld w 28 4 = 0x1#4 then .ok (.voteAll (fld w 7 2) (fld w 11 7) (fld w 25 3)) else
    if fld w 9 2 = 0x0#2 ∧ fld w 18 7 = 0x0#7 ∧ fld w 28 4 = 0x2#4 then .ok (.voteBallot (fld w 7 2) (fld w 11 7) (fld w 25 3)) else
    if fld w 25 7 = 0x1f#7 then .ok (.credAdd (fld w 7 2) (fld w 9 2) (fld w 11 7) (fld w 18 7)) else
    if fld w 25 7 = 0x27#7 then .ok (.credMin (fld w 7 2) (fld w 9 2) (fld w 11 7) (fld w 18 7)) else
    if fld w 25 7 = 0x2f#7 then .ok (.credMax (fld w 7 2) (fld w 9 2) (fld w 11 7) (fld w 18 7)) else
    if fld w 25 7 = 0x37#7 then .ok (.cscanIncl (fld w 7 2) (fld w 9 2) (fld w 11 7) (fld w 18 7)) else
    if fld w 25 7 = 0x3f#7 then .ok (.cscanExcl (fld w 7 2) (fld w 9 2) (fld w 11 7) (fld w 18 7)) else
    if fld w 9 2 = 0x0#2 ∧ fld w 28 4 = 0x8#4 then .ok (.compress (fld w 7 2) (fld w 11 7) (fld w 18 7) (fld w 25 3)) else
    if fld w 9 2 = 0x0#2 ∧ fld w 28 4 = 0x9#4 then .ok (.expand (fld w 7 2) (fld w 11 7) (fld w 18 7) (fld w 25 3)) else
    if fld w 9 2 = 0x0#2 ∧ fld w 25 7 = 0x57#7 then .ok (.matchAny (fld w 7 2) (fld w 11 7) (fld w 18 7)) else
    .error .reservedSelector
  | 0x2a =>
    .ok (.lds (fld w 7 2) (fld w 9 2) (fld w 11 7) (fld w 18 7) (fld w 25 7))
  | 0x2b =>
    .ok (.sts (fld w 7 2) (fld w 9 2) (fld w 11 7) (fld w 18 7) (fld w 25 7))
  | 0x2c =>
    .ok (.atoms (fld w 7 2) (fld w 9 2) (fld w 11 7) (fld w 18 7) (fld w 25 5) (fld w 30 2))
  | 0x2d =>
    .ok (.atomg (fld w 7 2) (fld w 9 2) (fld w 11 7) (fld w 18 7) (fld w 25 5) (fld w 30 2))
  | 0x2e =>
    if fld w 9 2 = 0x0#2 ∧ fld w 28 4 = 0x0#4 then .ok (.fget (fld w 7 2) (fld w 11 7) (fld w 18 7) (fld w 25 3)) else
    if fld w 9 2 = 0x1#2 ∧ fld w 28 4 = 0x0#4 then .ok (.fput (fld w 7 2) (fld w 11 7) (fld w 18 7) (fld w 25 3)) else
    if fld w 9 2 = 0x2#2 ∧ fld w 28 4 = 0x0#4 then .ok (.qlock (fld w 7 2) (fld w 11 7) (fld w 18 7) (fld w 25 3)) else
    if fld w 9 9 = 0x3#9 ∧ fld w 25 7 = 0x0#7 then .ok (.qunlock (fld w 7 2) (fld w 18 7)) else
    .error .reservedSelector
  | 0x2f =>
    if fld w 27 5 = 0x0#5 then .ok (.cpy (fld w 7 2) (fld w 9 6) (fld w 15 6) (fld w 21 6)) else
    if fld w 27 5 = 0x2#5 then .ok (.cpyredArr (fld w 7 2) (fld w 9 6) (fld w 15 6) (fld w 21 6)) else
    if fld w 27 5 = 0x3#5 then .ok (.cpyredOrd (fld w 7 2) (fld w 9 6) (fld w 15 6) (fld w 21 6)) else
    .error .reservedSelector
  | 0x30 =>
    if fld w 27 5 = 0x0#5 then .ok (.icpy (fld w 7 2) (fld w 9 6) (fld w 15 6) (fld w 21 6)) else
    if fld w 27 5 = 0x1#5 then .ok (.isct (fld w 7 2) (fld w 9 6) (fld w 15 6) (fld w 21 6)) else
    if fld w 27 5 = 0x2#5 then .ok (.sread (fld w 7 2) (fld w 9 6) (fld w 15 6) (fld w 21 6)) else
    if fld w 27 5 = 0x3#5 then .ok (.pref (fld w 7 2) (fld w 9 6) (fld w 15 6) (fld w 21 6)) else
    if fld w 27 5 = 0x4#5 then .ok (.cflush (fld w 7 2) (fld w 9 6) (fld w 15 6) (fld w 21 6)) else
    if fld w 27 5 = 0x5#5 then .ok (.cinv (fld w 7 2) (fld w 9 6) (fld w 15 6) (fld w 21 6)) else
    if fld w 21 11 = 0x180#11 then .ok (.tclass (fld w 7 2) (fld w 9 6) (fld w 15 6)) else
    .error .reservedSelector
  | 0x31 =>
    if fld w 20 12 = 0x0#12 then .ok (.fence (fld w 7 2) (fld w 9 2) (fld w 11 7) (fld w 18 2)) else
    .error .reservedSelector
  | 0x32 =>
    if fld w 27 3 = 0x0#3 ∧ fld w 31 1 = 0x0#1 then .ok (.binit (fld w 7 2) (fld w 9 6) (fld w 15 6) (fld w 21 6) (fld w 30 1)) else
    if fld w 21 9 = 0x40#9 ∧ fld w 31 1 = 0x0#1 then .ok (.barrive (fld w 7 2) (fld w 9 6) (fld w 15 6) (fld w 30 1)) else
    if fld w 27 3 = 0x2#3 ∧ fld w 31 1 = 0x0#1 then .ok (.bexpect (fld w 7 2) (fld w 9 6) (fld w 15 6) (fld w 21 6) (fld w 30 1)) else
    .error .reservedSelector
  | 0x33 =>
    if fld w 9 6 = 0x0#6 ∧ fld w 28 4 = 0x0#4 then .ok (.hins (fld w 7 2) (fld w 15 6) (fld w 21 7)) else
    if fld w 9 6 = 0x1#6 ∧ fld w 28 4 = 0x0#4 then .ok (.hprobe (fld w 7 2) (fld w 15 6) (fld w 21 7)) else
    if fld w 9 6 = 0x2#6 ∧ fld w 28 4 = 0x0#4 then .ok (.hdel (fld w 7 2) (fld w 15 6) (fld w 21 7)) else
    if fld w 9 3 = 0x3#3 ∧ fld w 28 4 = 0x0#4 then .ok (.hacc (fld w 7 2) (fld w 12 3) (fld w 15 6) (fld w 21 7)) else
    if fld w 9 6 = 0x4#6 ∧ fld w 28 4 = 0x0#4 then .ok (.hdrain (fld w 7 2) (fld w 15 6) (fld w 21 7)) else
    if fld w 9 6 = 0x5#6 ∧ fld w 28 4 = 0x0#4 then .ok (.hstat (fld w 7 2) (fld w 15 6) (fld w 21 7)) else
    if fld w 9 6 = 0x6#6 ∧ fld w 28 4 = 0x0#4 then .ok (.hclaim (fld w 7 2) (fld w 15 6) (fld w 21 7)) else
    if fld w 9 6 = 0x7#6 ∧ fld w 28 4 = 0x0#4 then .ok (.hrel (fld w 7 2) (fld w 15 6) (fld w 21 7)) else
    .error .reservedSelector
  | 0x34 =>
    if fld w 9 2 = 0x0#2 ∧ fld w 25 7 = 0x0#7 then .ok (.xbegin (fld w 7 2) (fld w 11 1) (fld w 12 6) (fld w 18 7)) else
    if fld w 9 3 = 0x1#3 ∧ fld w 25 7 = 0x0#7 then .ok (.xend (fld w 7 2) (fld w 12 6) (fld w 18 7)) else
    if fld w 9 16 = 0x2#16 then .ok (.xabort (fld w 7 2) (fld w 25 7)) else
    if fld w 9 2 = 0x3#2 ∧ fld w 12 6 = 0x0#6 ∧ fld w 25 7 = 0x0#7 then .ok (.xrd (fld w 7 2) (fld w 11 1) (fld w 18 7)) else
    .error .reservedSelector
  | 0x35 =>
    if fld w 31 1 = 0x0#1 then .ok (.xld (fld w 7 2) (fld w 9 2) (fld w 11 7) (fld w 18 7) (fld w 25 6)) else
    if fld w 31 1 = 0x1#1 then .ok (.xst (fld w 7 2) (fld w 9 2) (fld w 11 7) (fld w 18 7) (fld w 25 6)) else
    .error .reservedSelector
  | 0x36 =>
    if fld w 21 11 = 0x0#11 then .ok (.sclaim (fld w 7 2) (fld w 9 6) (fld w 15 6)) else
    if fld w 21 11 = 0x40#11 then .ok (.srel (fld w 7 2) (fld w 9 6) (fld w 15 6)) else
    if fld w 21 11 = 0x80#11 then .ok (.sclass (fld w 7 2) (fld w 9 6) (fld w 15 6)) else
    .error .reservedSelector
  | 0x37 =>
    if fld w 24 2 = 0x0#2 ∧ fld w 29 3 = 0x0#3 then .ok (.mma (fld w 7 2) (fld w 9 3) (fld w 12 4) (fld w 16 4) (fld w 20 4) (fld w 26 1) (fld w 27 1) (fld w 28 1)) else
    .error .reservedSelector
  | 0x38 =>
    if fld w 24 2 = 0x0#2 then .ok (.mmasp (fld w 7 2) (fld w 9 3) (fld w 12 4) (fld w 16 4) (fld w 20 4) (fld w 26 1) (fld w 27 1) (fld w 28 4)) else
    if fld w 24 2 = 0x1#2 ∧ fld w 29 3 = 0x0#3 then .ok (.mmag (fld w 7 2) (fld w 9 3) (fld w 12 4) (fld w 16 4) (fld w 20 4) (fld w 26 1) (fld w 27 1) (fld w 28 1)) else
    .error .reservedSelector
  | 0x39 =>
    if fld w 9 3 = 0x0#3 ∧ fld w 18 14 = 0x0#14 then .ok (.azero (fld w 7 2) (fld w 12 6)) else
    if fld w 9 3 = 0x1#3 ∧ fld w 25 7 = 0x0#7 then .ok (.ald (fld w 7 2) (fld w 12 6) (fld w 18 7)) else
    if fld w 9 3 = 0x2#3 ∧ fld w 25 7 = 0x0#7 then .ok (.ast (fld w 7 2) (fld w 12 6) (fld w 18 7)) else
    if fld w 9 3 = 0x3#3 ∧ fld w 18 14 = 0x0#14 then .ok (.awin (fld w 7 2) (fld w 12 6)) else
    if fld w 9 3 = 0x4#3 then .ok (.ard (fld w 7 2) (fld w 12 6) (fld w 18 7) (fld w 25 6) (fld w 31 1)) else
    if fld w 9 3 = 0x5#3 then .ok (.awr (fld w 7 2) (fld w 12 6) (fld w 18 7) (fld w 25 6) (fld w 31 1)) else
    if fld w 9 16 = 0x6#16 then .ok (.apromo (fld w 7 2) (fld w 25 7)) else
    .error .reservedSelector
  | 0x3a =>
    if fld w 27 5 = 0x0#5 then .ok (.scommit (fld w 7 2) (fld w 9 6) (fld w 15 6) (fld w 21 6)) else
    if fld w 27 5 = 0x1#5 then .ok (.sraise (fld w 7 2) (fld w 9 6) (fld w 15 6) (fld w 21 6)) else
    if fld w 27 5 = 0x2#5 then .ok (.squery (fld w 7 2) (fld w 9 6) (fld w 15 6) (fld w 21 6)) else
    if fld w 21 11 = 0xc0#11 then .ok (.sstart (fld w 7 2) (fld w 9 6) (fld w 15 6)) else
    if fld w 21 11 = 0x100#11 then .ok (.sstop (fld w 7 2) (fld w 9 6) (fld w 15 6)) else
    .error .reservedSelector
  | 0x3b =>
    if fld w 27 1 = 0x0#1 ∧ fld w 31 1 = 0x0#1 then .ok (.glaunch (fld w 7 2) (fld w 9 6) (fld w 15 6) (fld w 21 6) (fld w 28 3)) else
    if fld w 27 1 = 0x1#1 ∧ fld w 31 1 = 0x0#1 then .ok (.qput (fld w 7 2) (fld w 9 6) (fld w 15 6) (fld w 21 6) (fld w 28 3)) else
    .error .reservedSelector
  | 0x3c =>
    if fld w 9 2 = 0x0#2 then .ok (.srd (fld w 7 2) (fld w 11 6) (fld w 17 15)) else
    if fld w 9 2 = 0x1#2 then .ok (.swr (fld w 7 2) (fld w 11 6) (fld w 17 15)) else
    if fld w 9 2 = 0x2#2 ∧ fld w 17 15 = 0x0#15 then .ok (.tlbi (fld w 7 2) (fld w 11 6)) else
    .error .reservedSelector
  | _ => .error .reservedMajor

/-- The rule of R168 that a word is legal as a word; a header or trailer is left to the header's own checks. -/
def legalWord (i : Instr) : Bool :=
  match i with
  | .runh _ _ _ _ _ => true
  | .runt _ _ _ _ => true
  | j => j.wf

/-- One 32-bit word (R149). -/
def decode32 (w : BitVec 32) : Except DecodeError Instr :=
  match raw32 w with
  | .ok i => if legalWord i then .ok i else .error .illegalOperand
  | .error e => .error e

/-- The 16-bit forms of R146 and R148, before the short codes are checked. -/
def raw16 (w : BitVec 16) : Except DecodeError Instr :=
  if fld16 w 1 4 = 0x0#4 ∧ fld16 w 15 1 = 0x0#1 then .ok (.mov (fld16 w 5 5) (fld16 w 10 5)) else
  if fld16 w 1 4 = 0x1#4 ∧ fld16 w 15 1 = 0x0#1 then .ok (.iadd16 (fld16 w 5 5) (fld16 w 10 5)) else
  if fld16 w 1 4 = 0x2#4 ∧ fld16 w 15 1 = 0x0#1 then .ok (.isub16 (fld16 w 5 5) (fld16 w 10 5)) else
  if fld16 w 1 4 = 0x3#4 ∧ fld16 w 15 1 = 0x0#1 then .ok (.imul16 (fld16 w 5 5) (fld16 w 10 5)) else
  if fld16 w 1 4 = 0x4#4 ∧ fld16 w 15 1 = 0x0#1 then .ok (.fadd16 (fld16 w 5 5) (fld16 w 10 5)) else
  if fld16 w 1 4 = 0x5#4 ∧ fld16 w 15 1 = 0x0#1 then .ok (.fmul16 (fld16 w 5 5) (fld16 w 10 5)) else
  if fld16 w 1 4 = 0x6#4 ∧ fld16 w 15 1 = 0x0#1 then .ok (.fmin16 (fld16 w 5 5) (fld16 w 10 5)) else
  if fld16 w 1 4 = 0x7#4 ∧ fld16 w 15 1 = 0x0#1 then .ok (.fmax16 (fld16 w 5 5) (fld16 w 10 5)) else
  if fld16 w 1 4 = 0x8#4 ∧ fld16 w 15 1 = 0x0#1 then .ok (.imin16 (fld16 w 5 5) (fld16 w 10 5)) else
  if fld16 w 1 4 = 0x9#4 ∧ fld16 w 15 1 = 0x0#1 then .ok (.imax16 (fld16 w 5 5) (fld16 w 10 5)) else
  if fld16 w 1 4 = 0xa#4 ∧ fld16 w 15 1 = 0x0#1 then .ok (.and16 (fld16 w 5 5) (fld16 w 10 5)) else
  if fld16 w 1 4 = 0xb#4 ∧ fld16 w 15 1 = 0x0#1 then .ok (.or16 (fld16 w 5 5) (fld16 w 10 5)) else
  if fld16 w 1 4 = 0xc#4 ∧ fld16 w 15 1 = 0x0#1 then .ok (.xor16 (fld16 w 5 5) (fld16 w 10 5)) else
  if fld16 w 1 4 = 0xd#4 ∧ fld16 w 15 1 = 0x0#1 then .ok (.shl16 (fld16 w 5 5) (fld16 w 10 5)) else
  if fld16 w 1 4 = 0xe#4 ∧ fld16 w 15 1 = 0x0#1 then .ok (.shr16 (fld16 w 5 5) (fld16 w 10 5)) else
  if fld16 w 1 4 = 0xf#4 ∧ fld16 w 15 1 = 0x0#1 then .ok (.sar16 (fld16 w 5 5) (fld16 w 10 5)) else
  if fld16 w 1 15 = 0x4000#15 then .ok (.nop) else
  if fld16 w 1 4 = 0x1#4 ∧ fld16 w 10 6 = 0x20#6 then .ok (.stall (fld16 w 5 5)) else
  .error .reservedSelector

/-- One 16-bit word (R146-R148). -/
def decode16 (w : BitVec 16) : Except DecodeError Instr :=
  match raw16 w with
  | .ok i => if i.wf then .ok i else .error .illegalOperand
  | .error e => .error e

/-- Two bytes as a halfword, low byte first (R3). -/
def half (b0 b1 : Byte) : BitVec 16 := b1 ++ b0

/-- One instruction off a list of bytes: bit 0 of the first halfword gives the length (R143). -/
def decode (bs : List Byte) : Except DecodeError (Instr × List Byte) :=
  match bs with
  | b0 :: b1 :: rest =>
    if b0.getLsbD 0 then
      match rest with
      | b2 :: b3 :: more =>
        match decode32 (half b2 b3 ++ half b0 b1) with
        | .ok i => .ok (i, more)
        | .error e => .error e
      | _ => .error .truncated
    else
      match decode16 (half b0 b1) with
      | .ok i => .ok (i, rest)
      | .error e => .error e
  | _ => .error .truncated

/-- The low `n` bytes of `w`, first byte first (R3). -/
def leBytes (n w : Nat) : List Byte :=
  match n with
  | 0 => []
  | k + 1 => BitVec.ofNat 8 w :: leBytes k (w >>> 8)

/-- The bytes of an instruction whose bits the opcode table numbers: `nbits` bits of `w`, then zeros up to 32 bits. -/
def tableBytes (nbits w : Nat) : List Byte := leBytes 4 (w % 2 ^ nbits)

/-- The instruction the decoder reads from a table word (bits above `nbits` zero). -/
def decodeTableWord (nbits w : Nat) : Option Instr :=
  match decode (tableBytes nbits w) with
  | .ok (i, _) => some i
  | .error _ => none

/-- The word of an instruction. -/
inductive InstrWord where
  | w16 (w : BitVec 16)
  | w32 (w : BitVec 32)
deriving DecidableEq, Repr

/-- The bytes of a word in memory order (R3, R143). -/
def InstrWord.bytes : InstrWord → List Byte
  | .w16 w => leBytes 2 w.toNat
  | .w32 w => leBytes 4 w.toNat

/-- The word of an instruction, from the formats of R146-R149; an event has none. -/
def encode : Instr → Option InstrWord
  | .runh len trl pred sense chk => some (.w32 (0x0#14 ++ chk ++ sense ++ pred ++ trl ++ len ++ 0x1#7))
  | .runt c0 c1 c2 cnt => some (.w32 (cnt ++ c2 ++ c1 ++ c0 ++ 0x3#7))
  | .bra cond sense off => some (.w32 (off ++ sense ++ cond ++ 0x5#7))
  | .call v imm => some (.w32 (imm ++ v ++ 0x7#9))
  | .ret v => some (.w32 (0x0#16 ++ v ++ 0x87#9))
  | .jmpk k => some (.w32 (0x0#17 ++ k ++ 0x107#9))
  | .exit => some (.w32 (0x187#32))
  | .pwaitS st k v => some (.w32 (0x0#7 ++ v ++ k ++ 0x0#3 ++ st ++ 0x9#7))
  | .pwaitG st k v => some (.w32 (0x0#7 ++ v ++ k ++ 0x1#3 ++ st ++ 0x9#7))
  | .pwaitCnt st cnt thr => some (.w32 (thr ++ 0x790#11 ++ cnt ++ 0x2#3 ++ st ++ 0x9#7))
  | .pwaitFence st v => some (.w32 (0x0#7 ++ v ++ 0x3#9 ++ st ++ 0x9#7))
  | .pwaitLock st v => some (.w32 (0x0#7 ++ v ++ 0x4#9 ++ st ++ 0x9#7))
  | .sign st n => some (.w32 (0x0#18 ++ n ++ 0x0#2 ++ st ++ 0xb#7))
  | .cvset st n i => some (.w32 (0x0#7 ++ i ++ n ++ 0x1#2 ++ st ++ 0xb#7))
  | .elect st p => some (.w32 (0x0#18 ++ p ++ 0x2#2 ++ st ++ 0xb#7))
  | .trap st n => some (.w32 (n ++ 0x0#2 ++ st ++ 0xd#7))
  | .bkpt st n => some (.w32 (n ++ 0x1#2 ++ st ++ 0xd#7))
  | .yield st => some (.w32 (0x2#23 ++ st ++ 0xd#7))
  | .eret st => some (.w32 (0x3#23 ++ st ++ 0xd#7))
  | .eretSkip st => some (.w32 (0x7#23 ++ st ++ 0xd#7))
  | .kadd st d a b => some (.w32 (0x0#5 ++ b ++ a ++ d ++ st ++ 0xf#7))
  | .ksub st d a b => some (.w32 (0x1#5 ++ b ++ a ++ d ++ st ++ 0xf#7))
  | .kmul st d a b => some (.w32 (0x2#5 ++ b ++ a ++ d ++ st ++ 0xf#7))
  | .kand st d a b => some (.w32 (0x3#5 ++ b ++ a ++ d ++ st ++ 0xf#7))
  | .kor st d a b => some (.w32 (0x4#5 ++ b ++ a ++ d ++ st ++ 0xf#7))
  | .kxor st d a b => some (.w32 (0x5#5 ++ b ++ a ++ d ++ st ++ 0xf#7))
  | .kshl st d a b => some (.w32 (0x6#5 ++ b ++ a ++ d ++ st ++ 0xf#7))
  | .kshr st d a b => some (.w32 (0x7#5 ++ b ++ a ++ d ++ st ++ 0xf#7))
  | .ksar st d a b => some (.w32 (0x8#5 ++ b ++ a ++ d ++ st ++ 0xf#7))
  | .kmin st d a b => some (.w32 (0x9#5 ++ b ++ a ++ d ++ st ++ 0xf#7))
  | .kmax st d a b => some (.w32 (0xa#5 ++ b ++ a ++ d ++ st ++ 0xf#7))
  | .kminn st d a b => some (.w32 (0xb#5 ++ b ++ a ++ d ++ st ++ 0xf#7))
  | .kmaxn st d a b => some (.w32 (0xc#5 ++ b ++ a ++ d ++ st ++ 0xf#7))
  | .kcmp st a b => some (.w32 (0xd#5 ++ b ++ a ++ 0x0#6 ++ st ++ 0xf#7))
  | .kaddi st d a i => some (.w32 (i ++ a ++ d ++ st ++ 0x11#7))
  | .kldi d h k i => some (.w32 (i ++ k ++ h ++ d ++ 0x13#7))
  | .kld st d a o w h => some (.w32 (h ++ w ++ 0x0#1 ++ o ++ a ++ d ++ st ++ 0x15#7))
  | .kst st d a o w h => some (.w32 (h ++ w ++ 0x1#1 ++ o ++ a ++ d ++ st ++ 0x15#7))
  | .krd st k e => some (.w32 (e ++ 0x0#7 ++ k ++ 0x0#2 ++ st ++ 0x17#7))
  | .kwr st k e => some (.w32 (e ++ 0x0#7 ++ k ++ 0x1#2 ++ st ++ 0x17#7))
  | .kmovv st k v => some (.w32 (0x0#8 ++ v ++ k ++ 0x2#2 ++ st ++ 0x17#7))
  | .movk st k v => some (.w32 (0x0#8 ++ v ++ k ++ 0x3#2 ++ st ++ 0x17#7))
  | .iadd st m d a b => some (.w32 (b ++ a ++ d ++ m ++ st ++ 0x19#7))
  | .isub st m d a b => some (.w32 (b ++ a ++ d ++ m ++ st ++ 0x1b#7))
  | .imul st m d a b => some (.w32 (b ++ a ++ d ++ m ++ st ++ 0x1d#7))
  | .imad st m d a b => some (.w32 (b ++ a ++ d ++ 0x0#1 ++ m ++ st ++ 0x1f#7))
  | .imin st m d a b => some (.w32 (b ++ a ++ d ++ m ++ st ++ 0x21#7))
  | .imax st m d a b => some (.w32 (b ++ a ++ d ++ m ++ st ++ 0x23#7))
  | .addmin st m d a b => some (.w32 (b ++ a ++ d ++ m ++ st ++ 0x25#7))
  | .addmax st m d a b => some (.w32 (b ++ a ++ d ++ m ++ st ++ 0x27#7))
  | .and st d a b => some (.w32 (b ++ a ++ d ++ 0x0#2 ++ st ++ 0x29#7))
  | .or st d a b => some (.w32 (b ++ a ++ d ++ 0x1#2 ++ st ++ 0x29#7))
  | .xor st d a b => some (.w32 (b ++ a ++ d ++ 0x2#2 ++ st ++ 0x29#7))
  | .andn st d a b => some (.w32 (b ++ a ++ d ++ 0x3#2 ++ st ++ 0x29#7))
  | .shl st d a b => some (.w32 (b ++ a ++ d ++ 0x0#2 ++ st ++ 0x2b#7))
  | .shr st d a b => some (.w32 (b ++ a ++ d ++ 0x1#2 ++ st ++ 0x2b#7))
  | .sar st d a b => some (.w32 (b ++ a ++ d ++ 0x2#2 ++ st ++ 0x2b#7))
  | .rol st d a b => some (.w32 (b ++ a ++ d ++ 0x3#2 ++ st ++ 0x2b#7))
  | .popc st d a => some (.w32 (0x0#7 ++ a ++ d ++ 0x0#2 ++ st ++ 0x2d#7))
  | .clz st d a => some (.w32 (0x1#7 ++ a ++ d ++ 0x0#2 ++ st ++ 0x2d#7))
  | .ctz st d a => some (.w32 (0x2#7 ++ a ++ d ++ 0x0#2 ++ st ++ 0x2d#7))
  | .brev st d a => some (.w32 (0x3#7 ++ a ++ d ++ 0x0#2 ++ st ++ 0x2d#7))
  | .not st d a => some (.w32 (0x4#7 ++ a ++ d ++ 0x0#2 ++ st ++ 0x2d#7))
  | .abs st d a => some (.w32 (0x5#7 ++ a ++ d ++ 0x0#2 ++ st ++ 0x2d#7))
  | .neg st d a => some (.w32 (0x6#7 ++ a ++ d ++ 0x0#2 ++ st ++ 0x2d#7))
  | .bfx st d a b => some (.w32 (b ++ a ++ d ++ 0x0#2 ++ st ++ 0x2f#7))
  | .bfxS st d a b => some (.w32 (b ++ a ++ d ++ 0x1#2 ++ st ++ 0x2f#7))
  | .bfi st d a b => some (.w32 (b ++ a ++ d ++ 0x2#2 ++ st ++ 0x2f#7))
  | .icmp st m p c a b => some (.w32 (b ++ a ++ c ++ p ++ m ++ st ++ 0x31#7))
  | .fcmp st m p c a b => some (.w32 (b ++ a ++ c ++ p ++ m ++ st ++ 0x33#7))
  | .sel st p d a b => some (.w32 (b ++ a ++ d ++ p ++ st ++ 0x35#7))
  | .plog st d c a b => some (.w32 (0x0#4 ++ b ++ 0x0#4 ++ a ++ c ++ d ++ 0x0#2 ++ st ++ 0x37#7))
  | .fadd st m d a b => some (.w32 (b ++ a ++ d ++ m ++ st ++ 0x39#7))
  | .fmul st m d a b => some (.w32 (b ++ a ++ d ++ m ++ st ++ 0x3b#7))
  | .ffma st m d a b => some (.w32 (b ++ a ++ d ++ m ++ st ++ 0x3d#7))
  | .fmin st d a b => some (.w32 (b ++ a ++ d ++ 0x0#2 ++ st ++ 0x3f#7))
  | .fmax st d a b => some (.w32 (b ++ a ++ d ++ 0x1#2 ++ st ++ 0x3f#7))
  | .fminNum st d a b => some (.w32 (b ++ a ++ d ++ 0x2#2 ++ st ++ 0x3f#7))
  | .fmaxNum st d a b => some (.w32 (b ++ a ++ d ++ 0x3#2 ++ st ++ 0x3f#7))
  | .hadd st d a b => some (.w32 (b ++ a ++ d ++ 0x0#2 ++ st ++ 0x41#7))
  | .hmul st d a b => some (.w32 (b ++ a ++ d ++ 0x1#2 ++ st ++ 0x41#7))
  | .hfma st d a b => some (.w32 (b ++ a ++ d ++ 0x2#2 ++ st ++ 0x41#7))
  | .hfmaBf16x2 st d a b => some (.w32 (b ++ a ++ d ++ 0x3#2 ++ st ++ 0x41#7))
  | .dadd st d a b => some (.w32 (b ++ a ++ d ++ 0x0#2 ++ st ++ 0x43#7))
  | .dmul st d a b => some (.w32 (b ++ a ++ d ++ 0x1#2 ++ st ++ 0x43#7))
  | .dfma st d a b => some (.w32 (b ++ a ++ d ++ 0x2#2 ++ st ++ 0x43#7))
  | .fneg st d a => some (.w32 (0x0#7 ++ a ++ d ++ 0x0#2 ++ st ++ 0x45#7))
  | .fabs st d a => some (.w32 (0x1#7 ++ a ++ d ++ 0x0#2 ++ st ++ 0x45#7))
  | .frcp st m d a => some (.w32 (0x2#7 ++ a ++ d ++ m ++ st ++ 0x45#7))
  | .fsqrt st m d a => some (.w32 (0x3#7 ++ a ++ d ++ m ++ st ++ 0x45#7))
  | .frsq st d a => some (.w32 (0x4#7 ++ a ++ d ++ 0x0#2 ++ st ++ 0x45#7))
  | .fexp2 st d a => some (.w32 (0x5#7 ++ a ++ d ++ 0x0#2 ++ st ++ 0x45#7))
  | .flog2 st d a => some (.w32 (0x6#7 ++ a ++ d ++ 0x0#2 ++ st ++ 0x45#7))
  | .fsin st d a => some (.w32 (0x7#7 ++ a ++ d ++ 0x0#2 ++ st ++ 0x45#7))
  | .fcos st d a => some (.w32 (0x8#7 ++ a ++ d ++ 0x0#2 ++ st ++ 0x45#7))
  | .dneg st d a => some (.w32 (0x9#7 ++ a ++ d ++ 0x0#2 ++ st ++ 0x45#7))
  | .dabs st d a => some (.w32 (0xa#7 ++ a ++ d ++ 0x0#2 ++ st ++ 0x45#7))
  | .drcp st m d a => some (.w32 (0xb#7 ++ a ++ d ++ m ++ st ++ 0x45#7))
  | .dsqrt st m d a => some (.w32 (0xc#7 ++ a ++ d ++ m ++ st ++ 0x45#7))
  | .cvt st m d a t r => some (.w32 (r ++ t ++ a ++ d ++ m ++ st ++ 0x47#7))
  | .iaddi st d a i => some (.w32 (i ++ a ++ d ++ st ++ 0x49#7))
  | .andi st d a i => some (.w32 (0x0#2 ++ i ++ a ++ d ++ st ++ 0x4b#7))
  | .ori st d a i => some (.w32 (0x1#2 ++ i ++ a ++ d ++ st ++ 0x4b#7))
  | .xori st d a i => some (.w32 (0x2#2 ++ i ++ a ++ d ++ st ++ 0x4b#7))
  | .shli st d a n => some (.w32 (0x0#4 ++ n ++ a ++ d ++ st ++ 0x4d#7))
  | .shri st d a n => some (.w32 (0x4#4 ++ n ++ a ++ d ++ st ++ 0x4d#7))
  | .sari st d a n => some (.w32 (0x8#4 ++ n ++ a ++ d ++ st ++ 0x4d#7))
  | .roli st d a n => some (.w32 (0xc#4 ++ n ++ a ++ d ++ st ++ 0x4d#7))
  | .movi st d i => some (.w32 (i ++ d ++ st ++ 0x4f#7))
  | .shfl st m d a b => some (.w32 (b ++ a ++ d ++ m ++ st ++ 0x51#7))
  | .voteAny st d p => some (.w32 (0x0#4 ++ p ++ 0x0#7 ++ d ++ 0x0#2 ++ st ++ 0x53#7))
  | .voteAll st d p => some (.w32 (0x1#4 ++ p ++ 0x0#7 ++ d ++ 0x0#2 ++ st ++ 0x53#7))
  | .voteBallot st d p => some (.w32 (0x2#4 ++ p ++ 0x0#7 ++ d ++ 0x0#2 ++ st ++ 0x53#7))
  | .credAdd st t d a => some (.w32 (0x1f#7 ++ a ++ d ++ t ++ st ++ 0x53#7))
  | .credMin st t d a => some (.w32 (0x27#7 ++ a ++ d ++ t ++ st ++ 0x53#7))
  | .credMax st t d a => some (.w32 (0x2f#7 ++ a ++ d ++ t ++ st ++ 0x53#7))
  | .cscanIncl st t d a => some (.w32 (0x37#7 ++ a ++ d ++ t ++ st ++ 0x53#7))
  | .cscanExcl st t d a => some (.w32 (0x3f#7 ++ a ++ d ++ t ++ st ++ 0x53#7))
  | .compress st d a p => some (.w32 (0x8#4 ++ p ++ a ++ d ++ 0x0#2 ++ st ++ 0x53#7))
  | .expand st d a p => some (.w32 (0x9#4 ++ p ++ a ++ d ++ 0x0#2 ++ st ++ 0x53#7))
  | .matchAny st d a => some (.w32 (0x57#7 ++ a ++ d ++ 0x0#2 ++ st ++ 0x53#7))
  | .lds st w d a o => some (.w32 (o ++ a ++ d ++ w ++ st ++ 0x55#7))
  | .sts st w d a o => some (.w32 (o ++ a ++ d ++ w ++ st ++ 0x57#7))
  | .atoms st r d a o z => some (.w32 (z ++ o ++ a ++ d ++ r ++ st ++ 0x59#7))
  | .atomg st r d a o z => some (.w32 (z ++ o ++ a ++ d ++ r ++ st ++ 0x5b#7))
  | .fget st d a p => some (.w32 (0x0#4 ++ p ++ a ++ d ++ 0x0#2 ++ st ++ 0x5d#7))
  | .fput st d a p => some (.w32 (0x0#4 ++ p ++ a ++ d ++ 0x1#2 ++ st ++ 0x5d#7))
  | .qlock st d a p => some (.w32 (0x0#4 ++ p ++ a ++ d ++ 0x2#2 ++ st ++ 0x5d#7))
  | .qunlock st a => some (.w32 (0x0#7 ++ a ++ 0x3#9 ++ st ++ 0x5d#7))
  | .cpy st d a b => some (.w32 (0x0#5 ++ b ++ a ++ d ++ st ++ 0x5f#7))
  | .cpyredArr st d a b => some (.w32 (0x2#5 ++ b ++ a ++ d ++ st ++ 0x5f#7))
  | .cpyredOrd st d a b => some (.w32 (0x3#5 ++ b ++ a ++ d ++ st ++ 0x5f#7))
  | .icpy st d a b => some (.w32 (0x0#5 ++ b ++ a ++ d ++ st ++ 0x61#7))
  | .isct st d a b => some (.w32 (0x1#5 ++ b ++ a ++ d ++ st ++ 0x61#7))
  | .sread st d a b => some (.w32 (0x2#5 ++ b ++ a ++ d ++ st ++ 0x61#7))
  | .pref st d a b => some (.w32 (0x3#5 ++ b ++ a ++ d ++ st ++ 0x61#7))
  | .cflush st d a b => some (.w32 (0x4#5 ++ b ++ a ++ d ++ st ++ 0x61#7))
  | .cinv st d a b => some (.w32 (0x5#5 ++ b ++ a ++ d ++ st ++ 0x61#7))
  | .tclass st d a => some (.w32 (0x180#11 ++ a ++ d ++ st ++ 0x61#7))
  | .fence st c d e => some (.w32 (0x0#12 ++ e ++ d ++ c ++ st ++ 0x63#7))
  | .binit st d a b g => some (.w32 (0x0#1 ++ g ++ 0x0#3 ++ b ++ a ++ d ++ st ++ 0x65#7))
  | .barrive st d a g => some (.w32 (0x0#1 ++ g ++ 0x40#9 ++ a ++ d ++ st ++ 0x65#7))
  | .bexpect st d a b g => some (.w32 (0x0#1 ++ g ++ 0x2#3 ++ b ++ a ++ d ++ st ++ 0x65#7))
  | .hins st k q => some (.w32 (0x0#4 ++ q ++ k ++ 0x0#6 ++ st ++ 0x67#7))
  | .hprobe st k q => some (.w32 (0x0#4 ++ q ++ k ++ 0x1#6 ++ st ++ 0x67#7))
  | .hdel st k q => some (.w32 (0x0#4 ++ q ++ k ++ 0x2#6 ++ st ++ 0x67#7))
  | .hacc st u k q => some (.w32 (0x0#4 ++ q ++ k ++ u ++ 0x3#3 ++ st ++ 0x67#7))
  | .hdrain st k q => some (.w32 (0x0#4 ++ q ++ k ++ 0x4#6 ++ st ++ 0x67#7))
  | .hstat st k q => some (.w32 (0x0#4 ++ q ++ k ++ 0x5#6 ++ st ++ 0x67#7))
  | .hclaim st k q => some (.w32 (0x0#4 ++ q ++ k ++ 0x6#6 ++ st ++ 0x67#7))
  | .hrel st k q => some (.w32 (0x0#4 ++ q ++ k ++ 0x7#6 ++ st ++ 0x67#7))
  | .xbegin st e k v => some (.w32 (0x0#7 ++ v ++ k ++ e ++ 0x0#2 ++ st ++ 0x69#7))
  | .xend st k v => some (.w32 (0x0#7 ++ v ++ k ++ 0x1#3 ++ st ++ 0x69#7))
  | .xabort st n => some (.w32 (n ++ 0x2#16 ++ st ++ 0x69#7))
  | .xrd st e v => some (.w32 (0x0#7 ++ v ++ 0x0#6 ++ e ++ 0x3#2 ++ st ++ 0x69#7))
  | .xld st w d a o => some (.w32 (0x0#1 ++ o ++ a ++ d ++ w ++ st ++ 0x6b#7))
  | .xst st w d a o => some (.w32 (0x1#1 ++ o ++ a ++ d ++ w ++ st ++ 0x6b#7))
  | .sclaim st d a => some (.w32 (0x0#11 ++ a ++ d ++ st ++ 0x6d#7))
  | .srel st d a => some (.w32 (0x40#11 ++ a ++ d ++ st ++ 0x6d#7))
  | .sclass st d a => some (.w32 (0x80#11 ++ a ++ d ++ st ++ 0x6d#7))
  | .mma st c a b u f z n => some (.w32 (0x0#3 ++ n ++ z ++ f ++ 0x0#2 ++ u ++ b ++ a ++ c ++ st ++ 0x6f#7))
  | .mmasp st c a b u f z m => some (.w32 (m ++ z ++ f ++ 0x0#2 ++ u ++ b ++ a ++ c ++ st ++ 0x71#7))
  | .mmag st c a q u f z n => some (.w32 (0x0#3 ++ n ++ z ++ f ++ 0x1#2 ++ u ++ q ++ a ++ c ++ st ++ 0x71#7))
  | .azero st k => some (.w32 (0x0#14 ++ k ++ 0x0#3 ++ st ++ 0x73#7))
  | .ald st k d => some (.w32 (0x0#7 ++ d ++ k ++ 0x1#3 ++ st ++ 0x73#7))
  | .ast st k d => some (.w32 (0x0#7 ++ d ++ k ++ 0x2#3 ++ st ++ 0x73#7))
  | .awin st k => some (.w32 (0x0#14 ++ k ++ 0x3#3 ++ st ++ 0x73#7))
  | .ard st k d n h => some (.w32 (h ++ n ++ d ++ k ++ 0x4#3 ++ st ++ 0x73#7))
  | .awr st k d n h => some (.w32 (h ++ n ++ d ++ k ++ 0x5#3 ++ st ++ 0x73#7))
  | .apromo st n => some (.w32 (n ++ 0x6#16 ++ st ++ 0x73#7))
  | .scommit st d a b => some (.w32 (0x0#5 ++ b ++ a ++ d ++ st ++ 0x75#7))
  | .sraise st d a b => some (.w32 (0x1#5 ++ b ++ a ++ d ++ st ++ 0x75#7))
  | .squery st d a b => some (.w32 (0x2#5 ++ b ++ a ++ d ++ st ++ 0x75#7))
  | .sstart st d a => some (.w32 (0xc0#11 ++ a ++ d ++ st ++ 0x75#7))
  | .sstop st d a => some (.w32 (0x100#11 ++ a ++ d ++ st ++ 0x75#7))
  | .glaunch st d a b p => some (.w32 (0x0#1 ++ p ++ 0x0#1 ++ b ++ a ++ d ++ st ++ 0x77#7))
  | .qput st d a b p => some (.w32 (0x0#1 ++ p ++ 0x1#1 ++ b ++ a ++ d ++ st ++ 0x77#7))
  | .srd st k r => some (.w32 (r ++ k ++ 0x0#2 ++ st ++ 0x79#7))
  | .swr st k r => some (.w32 (r ++ k ++ 0x1#2 ++ st ++ 0x79#7))
  | .tlbi st k => some (.w32 (0x0#15 ++ k ++ 0x2#2 ++ st ++ 0x79#7))
  | .mov d s => some (.w16 (0x0#1 ++ s ++ d ++ 0x0#5))
  | .iadd16 d s => some (.w16 (0x0#1 ++ s ++ d ++ 0x2#5))
  | .isub16 d s => some (.w16 (0x0#1 ++ s ++ d ++ 0x4#5))
  | .imul16 d s => some (.w16 (0x0#1 ++ s ++ d ++ 0x6#5))
  | .fadd16 d s => some (.w16 (0x0#1 ++ s ++ d ++ 0x8#5))
  | .fmul16 d s => some (.w16 (0x0#1 ++ s ++ d ++ 0xa#5))
  | .fmin16 d s => some (.w16 (0x0#1 ++ s ++ d ++ 0xc#5))
  | .fmax16 d s => some (.w16 (0x0#1 ++ s ++ d ++ 0xe#5))
  | .imin16 d s => some (.w16 (0x0#1 ++ s ++ d ++ 0x10#5))
  | .imax16 d s => some (.w16 (0x0#1 ++ s ++ d ++ 0x12#5))
  | .and16 d s => some (.w16 (0x0#1 ++ s ++ d ++ 0x14#5))
  | .or16 d s => some (.w16 (0x0#1 ++ s ++ d ++ 0x16#5))
  | .xor16 d s => some (.w16 (0x0#1 ++ s ++ d ++ 0x18#5))
  | .shl16 d s => some (.w16 (0x0#1 ++ s ++ d ++ 0x1a#5))
  | .shr16 d s => some (.w16 (0x0#1 ++ s ++ d ++ 0x1c#5))
  | .sar16 d s => some (.w16 (0x0#1 ++ s ++ d ++ 0x1e#5))
  | .nop => some (.w16 (0x8000#16))
  | .stall n => some (.w16 (0x20#6 ++ n ++ 0x2#5))
  | .resultWriteback _ _ => none
  | .fenceComplete _ _ => none
  | .scratchPageRefill _ _ => none
  | .engineBytesLand _ => none
  | .engineComplete _ => none
  | .engineRetire _ _ => none
  | .cpyredSetInstall _ _ => none
  | .slotRelease _ => none
  | .faultUnitPark _ => none
  | .faultReplay _ => none
  | .faultDeclareUnserviceable _ => none
  | .waiterReevaluate _ => none
  | .teamPlace _ => none
  | .teamActivate _ => none
  | .teamPark _ => none
  | .rotation _ => none
  | .teamRetire _ => none
  | .preemptionRequest _ => none
  | .discardRequeue _ => none
  | .teamSave _ => none
  | .preemptionComplete _ => none
  | .prqLateClear _ => none
  | .lineReadRequest _ _ => none
  | .exclusiveRequest _ _ => none
  | .invalidation _ _ => none
  | .invalidationAck _ _ => none
  | .evictionNotice _ _ => none
  | .exclusiveGrant _ _ => none
  | .lineWriteback _ _ => none
  | .holderReadRequest _ _ => none
  | .holderWriteRequest _ _ => none
  | .recallDowngrade _ => none
  | .recallInvalidate _ => none
  | .recallAnswer _ _ => none
  | .holderRelease _ _ => none
  | .holderGrant _ _ => none
  | .tlbShootdownAck _ _ => none
  | .granuleRequest _ => none
  | .narrowing _ => none
  | .seal _ _ => none
  | .commitApply _ _ => none
  | .raiseAbsorb _ => none
  | .dispatchSlot _ => none
  | .quiescenceRecord _ => none
  | .sstopComplete _ => none
  | .doorbell _ _ => none
  | .replicaInvalidate _ _ => none
  | .queueFetch _ => none
  | .launch _ => none
  | .startSet _ => none
  | .stopSet _ => none
  | .raise _ => none
  | .copy _ => none
  | .signal _ => none
  | .wait _ => none
  | .commandComplete _ => none
  | .ctload _ => none
  | .fwctlApply => none
  | .fwctlBadClear => none
  | .mcrAck => none
  | .irqRpWrite _ _ => none
  | .irqLostClear _ => none
  | .registerWrite _ _ => none
  | .deviceReset => none
  | .bootImageVerified => none
  | .rwgo _ => none
  | .recoveryImageVerified => none
  | .atgo _ => none
  | .attestReportReady => none
  | .flitReceive _ _ _ => none
  | .packageFailure _ => none
  | .thermalThrottle _ => none
  | .controlLoopRetune => none
  | .lifeRecordUpdate => none
  | .hostWrite _ _ => none
  | .controlCoreAccess _ _ _ _ => none
  | .queueSuspendClear _ => none
  | .throttleEnd _ => none

/-- The bytes of an instruction's word. -/
def encodeBytes (i : Instr) : Option (List Byte) := (encode i).map InstrWord.bytes

end Sys2Proof
end

