-- ==== Sys2Proof/Machine/FMap.lean ====
section
/-!
DEFINITION. Sparse tables (FMap), bit fields, byte order and list helpers that the machine uses.
-/

namespace Sys2Proof

/-- The value listed for a key. -/
def FMap.get? {α : Type} : FMap α → Nat → Option α
  | [], _ => none
  | (k, a) :: m, n => if n < k then none else if n = k then some a else FMap.get? m n

/-- The value listed for a key, or a default. -/
def FMap.getD {α : Type} (m : FMap α) (n : Nat) (d : α) : α := (m.get? n).getD d

/-- The table with a key set; the keys stay rising. -/
def FMap.set {α : Type} : FMap α → Nat → α → FMap α
  | [], n, a => [(n, a)]
  | (k, b) :: m, n, a =>
    if n < k then (n, a) :: (k, b) :: m else if n = k then (n, a) :: m else (k, b) :: FMap.set m n a

/-- The table with a key removed. -/
def FMap.erase {α : Type} : FMap α → Nat → FMap α
  | [], _ => []
  | (k, b) :: m, n => if n < k then (k, b) :: m else if n = k then m else (k, b) :: FMap.erase m n

/-- The table with a listed key's value changed; an unlisted key stays unlisted. -/
def FMap.upd {α : Type} (m : FMap α) (n : Nat) (f : α → α) : FMap α :=
  match m.get? n with
  | some a => m.set n (f a)
  | none => m

/-- The keys are strictly rising. -/
def FMap.rising {α : Type} : FMap α → Bool
  | [] => true
  | [_] => true
  | (k, _) :: (k', a) :: m => decide (k < k') && FMap.rising ((k', a) :: m)

/-- Bits [h:l] of a number. -/
def bits (x h l : Nat) : Nat := (x >>> l) % 2 ^ (h + 1 - l)

/-- Bit i of a number. -/
def bit (x i : Nat) : Bool := (x >>> i) % 2 == 1

/-- A Bool as a bit. -/
def b2n (b : Bool) : Nat := if b then 1 else 0

/-- The number with the n bits from l replaced by v. -/
def setBits (x l n v : Nat) : Nat :=
  let old := (x >>> l) % 2 ^ n
  x - old * 2 ^ l + (v % 2 ^ n) * 2 ^ l

/-- An n-bit number read as two's complement. -/
def sext (n x : Nat) : Int :=
  let y := x % 2 ^ n
  if y < 2 ^ (n - 1) then (y : Int) else (y : Int) - 2 ^ n

/-- An integer modulo 2^n. -/
def wrap (n : Nat) (x : Int) : Nat := (x % 2 ^ n).toNat

/-- Bytes, lowest address first, read as a little-endian number (R3). -/
def leNat : List Byte → Nat
  | [] => 0
  | b :: bs => b.toNat + 256 * leNat bs

/-- The n little-endian bytes of a number (R3). -/
def natLe : Nat → Nat → List Byte
  | 0, _ => []
  | n + 1, x => BitVec.ofNat 8 x :: natLe n (x / 256)

/-- The element of a list at an index, changed. -/
def updAt {α : Type} : List α → Nat → (α → α) → List α
  | [], _, _ => []
  | a :: l, 0, f => f a :: l
  | a :: l, n + 1, f => a :: updAt l n f

/-- A list without repeats, first occurrences kept. -/
def dedup (l : List Nat) : List Nat := l.foldl (fun acc x => if acc.contains x then acc else acc ++ [x]) []

/-- Insertion into a rising list. -/
def insertSorted (x : Nat) : List Nat → List Nat
  | [] => [x]
  | y :: l => if x ≤ y then x :: y :: l else y :: insertSorted x l

/-- A list in rising order. -/
def sortNat (l : List Nat) : List Nat := l.foldr insertSorted []

/-- The element with the greatest key, the first one on ties. -/
def argMax {α : Type} (key : α → Nat) : List α → Option α
  | [] => none
  | a :: l =>
    match argMax key l with
    | none => some a
    | some b => if key b ≤ key a then some a else some b

/-- The element with the smallest key, the first one on ties. -/
def argMin {α : Type} (key : α → Nat) : List α → Option α
  | [] => none
  | a :: l =>
    match argMin key l with
    | none => some a
    | some b => if key a ≤ key b then some a else some b

/-- Ceiling division. -/
def ceilDiv (a b : Nat) : Nat := (a + b - 1) / b

end Sys2Proof
end

