-- ==== Sys2Proof/Machine/State.lean ====
section
/-!
DEFINITION. The state of one FV7-B768 package as plain data, the machine right after reset, and the reasons a step can
stop. INVENTORY.md lists the fields with the rules that name them. Fields marked MODEL are the model's own.
-/

namespace Sys2Proof.Machine

/-- Memory by physical address: address and byte pairs, the addresses strictly rising and no byte 0 (log 1). -/
abbrev Memory := List Host.Cell

/-- The canonical form: addresses rise and no listed byte is what an unlisted address reads as. -/
def Memory.wf (m : Memory) : Bool := FMap.rising m && m.all (fun c => c.2 != 0)

/-- A register of a thread or a team. `t 8` is L. -/
inductive Reg where
  | v (n : Nat)
  | t (n : Nat)
  | p (n : Nat)
  | k (n : Nat)
  | kf
  deriving DecidableEq, Repr

/-- The system registers of one context (R54, R70, R86, R95, R159, R238, R362, R365). -/
structure SysRegs where
  tvec : BitVec 64 := 0
  tdel : BitVec 32 := 0
  fmode : BitVec 32 := 0
  check : BitVec 32 := 0
  promote : BitVec 32 := 16
  cpymode : BitVec 32 := 0
  shadow : BitVec 64 := 0
  crumb : BitVec 64 := 0
  crumbc : BitVec 64 := 4
  ncb : FMap DWord := []
  ncl : FMap DWord := []
  deriving DecidableEq, Repr

/-- A context as the dies have loaded it (R375), and its translation generation (R100). -/
structure Ctx where
  v : Bool := false
  priv : Bool := false
  root : BitVec 64 := 0
  sr : SysRegs := {}
  gen : Nat := 0
  deriving DecidableEq, Repr

/-- The part of a team record that shapes a team (R180). -/
structure TeamRec where
  entry : DWord := 0
  yieldPc : DWord := 0
  resumePc : DWord := 0
  threads : Nat := 1
  regs : Nat := 8
  scratch : Nat := 0
  claim : Nat := 0
  copyq : Nat := 1
  cv : Nat := 0
  acc : Nat := 0
  rst : Bool := false
  discard : Nat := 0
  deriving DecidableEq, Repr

/-- A mid-run record: header address, next body index, t0-t7 and L (R360). -/
structure Mid where
  hdr : DWord
  off : Nat
  t : List Word
  l : Word
  deriving DecidableEq, Repr

/-- An open elastic region of a thread (R268, R270, R275). `stage`: 0 open, 1 sealing, 2 applying its
position; `xe` names the results that its XEND owes. `gen` is the translation generation of its oldest kept byte (R100); `late` says
that the release of its XEND waits for earlier accesses (R138, R393). -/
structure Region where
  strict : Bool
  handler : DWord
  creg : Nat
  reads : List Nat := []
  writes : FMap Byte := []
  writeSet : List Nat := []
  stage : Nat := 0
  toSeal : List Nat := []
  sealed : List Nat := []
  lo : Nat := 0
  hi : Nat := 2 ^ 63 - 1
  ptes : FMap Nat := []
  xe : Option (Nat × Nat) := none
  gen : Option Nat := none
  late : Bool := false
  deriving DecidableEq, Repr

/-- One arrival of a thread at a cross-thread instruction (R193): active with its inputs, or skipped. `left` says that the thread has left the
instruction by a trap or an abort since, so that the execution gives it no result (log 63). -/
structure Arrival where
  addr : DWord
  active : Bool
  left : Bool := false
  a : Word := 0
  b : Word := 0
  p : Bool := false
  deriving DecidableEq, Repr

/-- What one cross-thread execution gives a thread. -/
structure XRes where
  d : Option Word := none
  l : Option Word := none
  p : Option Bool := none
  fl : BitVec 5 := 0
  deriving DecidableEq, Repr

/-- A FENCE whose completion is outstanding (R127, R249): sequence number, class, semantics, the operations it covers, the
results its thread was owed, and the lines of non-coherent ranges, by core, that hold stores of the thread (R103). -/
structure Fence where
  seq : Nat
  cls : Nat
  sem : Nat
  ops : List Nat := []
  owed : List Nat := []
  done : Bool := false
  ncs : List (Nat × Nat) := []
  deriving DecidableEq, Repr

/-- One thread of a team (R14, R33). `v` lists written registers, 0 unlisted; `t` lists t0-t7 and L (key 8) as written
in this run, unlisted ones are free under `stamp`. `due` is the first clock at which it may form a group (R21, R155); `ncs` lists the
lines of non-coherent ranges, by core, with stores of the thread that have not reached their home (R103); `bad` lists its v registers that
hold a data error (R364). `mwait` is the wait of its matrix instruction at issue: arrival number, cv register, mask of the slots named (R286,
R288). `mcheck` lists the machine checks of its engine operations that it has still to take, each structure, VA and physical address (R364).
`crossAt` is the run header at which it last waited for an execution that it had already reached, and the run's cross-thread instructions (R193).
MODEL: `part` says that the thread has
done its part of an instruction at which its group still waits; `lver` counts the writes of L, so that an owed L that a later
instruction has overwritten is known (R158). -/
structure Thread where
  pc : DWord := 0
  exited : Bool := false
  v : FMap Word := []
  t : FMap Word := []
  stamp : Nat := 0
  p : BitVec 7 := 0
  xlo : DWord := 0
  xhi : DWord := 0
  epc : DWord := 0
  ecause : BitVec 32 := 0
  eva : DWord := 0
  hm : Bool := false
  rr : Bool := false
  ran : Bool := false
  mid : Option Mid := none
  nmid : Option Mid := none
  trMid : Option Mid := none
  rcause : BitVec 32 := 0
  region : Option Region := none
  age : Nat := 0
  held : Bool := false
  npc : DWord := 0
  soft : List (Reg × List DWord) := []
  arrivals : List Arrival := []
  xres : Option XRes := none
  fseq : Nat := 0
  fences : List Fence := []
  armed : Bool := false
  part : Bool := false
  mcheck : List (Nat × DWord × Nat) := []
  sent : Bool := false
  yielded : Bool := false
  pwait : Bool := false
  lver : Nat := 0
  bad : List Nat := []
  due : Nat := 0
  ncs : List (Nat × Nat) := []
  mwait : Option (Nat × Nat × Nat) := none
  crossAt : Option (DWord × List DWord) := none
  deriving DecidableEq, Repr

/-- One fixed-latency write of a run (R156, R157): register, distance at issue, latency, old values by thread. -/
structure LogE where
  reg : Reg
  dist : Nat
  lat : Nat
  old : FMap DWord
  deriving DecidableEq, Repr

/-- An issue group inside a run (R17, R20). `hdr` is the run header's address, `next` that of the word after the run. -/
structure Group where
  tids : List Nat
  hdr : DWord
  next : DWord
  body : List (BitVec 32)
  trl : Option (BitVec 32)
  chk : Bool
  idx : Nat := 0
  dist : Nat := 0
  due : Nat := 0
  log : List LogE := []
  held : Bool := false
  deriving DecidableEq, Repr

/-- A variable-latency result owed to a register (R156, R158). `tid` is none for a k register; `stamp` names the run of its owner, `ver` the
write of L that it is. `fl` are flags set when it is written (R226); `obs` says that writing it is an acquire (R120); `also` names the further
threads of the group that executed a uniform instruction (R192, R359). -/
structure Wb where
  id : Nat
  tid : Option Nat
  owner : Nat
  reg : Reg
  val : Option DWord
  acq : Bool := false
  stamp : Nat := 0
  ver : Nat := 0
  fl : BitVec 5 := 0
  obs : Bool := false
  also : List Nat := []
  deriving DecidableEq, Repr

/-- A reference to a phase object (R232): none, in scratch by address, in global memory by VA. -/
inductive PhRef where
  | none
  | scratch (a : Nat)
  | glob (va : DWord)
  deriving DecidableEq, Repr

/-- The life of a team between placement and retirement. -/
inductive TeamLife where
  | live | faulted | discarding | saving | saved
  deriving DecidableEq, Repr

/-- A translation held by a die's TLB (R99, R100): context, first 4 KiB page number, the entry of that page, the number of
pages of the run, and the generation of the context under which it was translated. -/
structure TlbE where
  ctx : Nat
  vpn : Nat
  pte : Nat
  g : Bool
  n : Nat := 1
  gen : Nat := 0
  deriving DecidableEq, Repr

/-- A memory access that has issued and is held until the acquires before it have taken effect (R393): the instruction, its threads, k and kf with
their shortfalls as they were, the group's place, and the translations it issued under (R100). `id` is its place in program order among owed results
and engine operations, and the name of its own results. `gen` and `die` are the
translation generation of its context and the die at its issue (R100). MODEL: it is executed from these when nothing holds it any more; `ctr` is the stamp of its
free values (log 23). -/
structure Later where
  id : Nat
  instr : Instr
  threads : List (Nat × Thread)
  k : FMap DWord
  kf : BitVec 4
  soft : List (Reg × List DWord)
  group : Group
  ctr : Nat
  tlb : List TlbE
  gen : Nat := 0
  die : Nat := 0
  deriving DecidableEq, Repr

/-- A team (R14-R38). `stored`: 0 the state is the core's, 1 in the save area as parked, 2 as saved (R367). `k63out`: the area holds
k63 (R368, R369). `accBase` is its first accumulator unit of 64 rows. `soft` are the run-end shortfalls of its k registers and kf (R157); `fresh`
lists flags of lane instructions with the clock at which their result is complete (R72). `scrBad` lists the half-lines of its scratch
that hold a data error (R364). `laters` are its held accesses, in the order of their issue (R393). `proceeds` says that its save has gone past the yield handler: the threads blocked in PWAIT then are exempt
(R368). -/
structure Team where
  ctx : Nat
  core : Nat
  slot : Nat
  active : Bool := true
  life : TeamLife := .live
  launch : Option Nat := none
  cell : Option (Nat × Nat) := none
  committed : Bool := false
  grid : Nat × Nat × Nat := (0, 0, 0)
  prio : Nat := 0
  tr : TeamRec := {}
  threads : List Thread := []
  groups : FMap Group := []
  nextGroup : Nat := 0
  k : FMap DWord := []
  kf : BitVec 4 := 0
  kexc : BitVec 5 := 0
  cv : FMap (Nat × Nat) := []
  aw : FMap (Nat × Nat) := []
  ival : Nat := 16
  cnt : FMap Nat := []
  eff : Ctx := {}
  wbs : List Wb := []
  scr : FMap Byte := []
  pinned : FMap Nat := []
  refill : List Nat := []
  accBase : Nat := 0
  regBase : Nat := 0
  area : Nat := 0
  waiter : Option PhRef := none
  reeval : Nat := 0
  ret : Nat := 0
  placedAt : Nat := 0
  activeAt : Nat := 0
  rotated : Bool := false
  readySince : Option Nat := none
  k63out : Bool := false
  stored : Nat := 0
  xends : FMap (List Nat × Option Nat) := []
  soft : List (Reg × List DWord) := []
  fresh : List (Nat × BitVec 5) := []
  scrBad : List Nat := []
  proceeds : Bool := false
  laters : List Later := []
  deriving DecidableEq, Repr

/-- An operand slot of a core (R281-R284). `rel` marks a release pending on the fill. -/
structure OSlot where
  state : Nat := 0
  team : Nat := 0
  fmt : Nat := 0
  tr : Bool := false
  cls : Nat := 0
  f : Bool := false
  cval : Nat := 0
  rel : Bool := false
  data : FMap Byte := []
  deriving DecidableEq, Repr

/-- A line of a uniform data cache (R91-R96): bytes by offset, each with its dirty mark; `va` is the line's VA over 128 and `ctx` the
context of its last access; `whose` lists, for a line of a non-coherent range, context and translation generation of the stores among its dirty
bytes (R100). -/
structure CLine where
  cells : FMap (Byte × Bool) := []
  nc : Bool := false
  coh : Nat := 0
  excl : Bool := false
  pte : Nat := 0
  va : Nat := 0
  ctx : Nat := 0
  whose : List (Nat × Nat) := []
  deriving DecidableEq, Repr

/-- A core's own storage and registers (R11, R22, R66, R281, R345, R390). `acc` holds accumulator elements, `part` the f26
partials, `cnt` the counts by unit. `rest` holds bytes written through the window to register file and frames that no team holds (R79),
by unit x 2^26 + offset; `full` says that it has held 48 parked teams and no team has left it since (R28); `slotBad` and `accBad` list half-lines of slots (128 x slot + offset / 64) and of rows (4 x row + element / 16) that
hold a data error (R364). `dstores` are the D stores on their way: line, physical address, page entry, context, bytes (R92). -/
structure CoreSt where
  lines : FMap CLine := []
  slots : FMap OSlot := []
  acc : FMap Word := []
  part : FMap (BitVec 26) := []
  cnt : FMap Nat := []
  share : BitVec 32 := 0x1010
  held : Bool := false
  dstores : List (Nat × Nat × Nat × Nat × List Byte) := []
  dreads : List Nat := []
  invs : List Nat := []
  rest : FMap Byte := []
  slotBad : List Nat := []
  accBad : List Nat := []
  full : Bool := false
  deriving DecidableEq, Repr

/-- A D-line directory entry (R93) with the writer being served, and acknowledgements on their way. -/
structure DEnt where
  st : Nat := 0
  crs : Bool := false
  ptrs : List Nat := []
  grp : List Nat := []
  pend : Nat := 0
  writer : Option Nat := none
  acks : Nat := 0
  deriving DecidableEq, Repr

/-- Where one side of a piece of an engine operation lies: scratch by owning team and offset, accumulators by row of the core; `nib` is the low
nibble of the byte at a VA (R233); `join a n b` is n bytes at a, then b. -/
inductive Loc where
  | glob (va : DWord)
  | scr (u off : Nat)
  | slot (n off : Nat)
  | acc (row : Nat) (off : Nat)
  | zero
  | skip
  | imm (bytes : List Byte)
  | nib (va : DWord)
  | join (a : Loc) (n : Nat) (b : Loc)
  deriving DecidableEq, Repr

/-- What landing one piece does: move bytes; move a low nibble; add f32 or i32 elements; prefetch; only read; keep bytes for an
ordered set; and three markers: read the record of the operation (R233), start the tile of a fill (R285), plan the data of a cb4
fill (R52, R86). -/
inductive How where
  | move | nibble | addF | addI | pref | look | keep | record | tile | blocks
  deriving DecidableEq, Repr

/-- One piece of an engine operation, inside one page on either side unless a unit that lands whole crosses one (R111, R240). `nom` is how many nominal bytes it settles. -/
structure Chunk where
  src : Loc
  dst : Loc
  n : Nat
  nom : Nat
  how : How := .move
  deriving DecidableEq, Repr

/-- The instructions whose operation starts from a record: the engine copies (R233, R241-R243), and those of a standing set, a
launch or a queue (R330, R354). -/
inductive Eng where
  | cpy | arr | ord | icpy | isct | sread | pref | scommit | sraise | squery | sstart | sstop | glaunch | qput
  deriving DecidableEq, Repr

/-- What an engine operation is. -/
inductive OpKind where
  | record (e : Eng) (args : List DWord)
  | copy
  | prefetch
  | tclass (va : DWord) (fmt : Nat)
  | fill (slot : Nat) (va : DWord) (fmt : Nat)
  | sread (sid cell buf : Nat) (ver res maxres : Word)
  | reduceOrd (start : DWord) (i n : Nat) (f : Bool)
  | mma (unit ival : Nat) (zi fin nel : Bool) (a : OSlot) (b : List OSlot) (meta? : Option OSlot)
  | azero (first n : Nat)
  | ald
  | ast (first n : Nat) (va : Option DWord)
  deriving DecidableEq, Repr

/-- An engine operation in flight (R34-R37, R231-R245, R284-R300). `team` is none for a host command's. `phase` names a scratch
object by team x 2^20 + offset. `tile` is the element size class for whole-tile writes (R304); `ptes` the entries of pages written; `gen` is the
translation generation under which it was issued (R100), `bytes` what the estimator of R349 counts while the record is not read,
`raised` the lines whose write has raised watches (R317). `tdir` names the tensor side of a tiled operation, 1 source, 2 destination, 0 for a byte
path (R84); `shadow` is the sr.shadow in force for its team when it issued (R86, R372); `badPa` is the physical address of its data error (R382);
`pas` places the bytes kept for an ordered set (R240); `dead` lists the pages whose device writes are dropped (R394). `debt` are parked bytes
that its phase object still has to take back (R237); `after` are the threads whose earlier accesses its release still waits for (R119, R393); `prev`
is the operation of its group that goes before it (R330, R354). -/
structure Op where
  team : Option Nat
  ctx : Nat
  tid : Nat
  hdr : DWord
  core : Nat
  priv : Bool
  cls : Nat
  kind : OpKind
  wbs : List Nat := []
  chunks : List Chunk := []
  failed : List Chunk := []
  parked : Nat := 0
  status : Nat := 0
  fault : Bool := false
  bounds : Bool := false
  bad : Option (Nat × DWord) := none
  moved : Nat := 0
  faults : Nat := 0
  phase : PhRef := .none
  nominal : Nat := 0
  counted : Nat := 0
  info : Nat := 0
  fmt : Nat := 0
  done : Bool := false
  copyq : Bool := false
  flags : BitVec 5 := 0
  got : FMap Byte := []
  ptes : FMap Nat := []
  whole : List (Nat × Nat) := []
  gen : Nat := 0
  bytes : Nat := 0
  raised : List Nat := []
  tdir : Nat := 0
  shadow : DWord := 0
  badPa : Nat := 0
  pas : FMap Nat := []
  dead : List Nat := []
  debt : Nat := 0
  after : List Nat := []
  prev : Option Nat := none
  deriving DecidableEq, Repr

/-- What waits for a parked fault unit (R236, R394). -/
inductive Agent where
  | engine | command | set | launch
  deriving DecidableEq, Repr

/-- A fault unit in a fault queue (R236, R394). `team` is none for accesses without one; `op`
is the operation, queue, set or launch that waits. `held` are its bytes in the phase object's fault bytes (R237). -/
structure FaultUnit where
  team : Option Nat
  ctx : Nat
  agent : Agent
  op : Nat
  va : DWord
  chunks : List Chunk := []
  held : Nat := 0
  deriving DecidableEq, Repr

/-- A shootdown under way (R100, R372): group that waits, context, all flag, page, dies still to answer, the generation it raised
the context to. -/
structure Shoot where
  id : Nat
  team : Nat
  grp : Nat
  ctx : Nat
  all : Bool
  vpn : Nat
  dies : List Nat
  gen : Nat := 0
  deriving DecidableEq, Repr

/-- What an L2 slice keeps of a granule (R272, R275). Regions are numbered 1,024 x team + thread; `recs` holds the bounds of every open region
recorded there, `wrote` those of them that write it (R274). -/
structure Gran where
  wpos : Nat := 0
  rpos : Nat := 0
  writer : Option Nat := none
  readers : List Nat := []
  recs : FMap (Nat × Nat) := []
  wrote : List Nat := []
  sealed : Option Nat := none
  deriving DecidableEq, Repr

/-- A region request on its way to a granule's slice (R271, R273). -/
structure GReq where
  id : Nat
  region : Nat
  gran : Nat
  write : Bool
  pa : Nat
  n : Nat
  va : DWord
  pte : Nat := 0
  lo : Nat
  hi : Nat
  own : FMap Byte := []
  wbs : List Nat := []
  deriving DecidableEq, Repr

/-- A narrowing message on its way to a region (R272): raise xlo or lower xhi to a value. -/
structure NMsg where
  id : Nat
  region : Nat
  isLo : Bool
  val : Int
  deriving DecidableEq, Repr

/-- A cell of a started set (R311) with the tags read when it became queued (R313). -/
structure Cell where
  res : Word := 0
  inacc : Word := 0
  ver : Word := 0
  bufa : Nat := 0
  bufb : Nat := 0
  cur : Bool := false
  state : Nat := 0
  pina : Nat := 0
  pinb : Nat := 0
  age : Nat := 0
  lastc : Nat := 0
  lastv : Bool := false
  tags : List Nat := []
  disp : Word := 0
  deriving DecidableEq, Repr

/-- A raise in flight (R315). -/
structure Raise where
  seq : Nat
  cell : Nat
  amt : Word
  deriving DecidableEq, Repr

/-- A started standing set (R310-R336). `front` lists the first L candidates of its dies (R321), `toRead` the cells that
have entered them and whose prefetch regions are still to be read. `out` is the record being written: the writes still to be made before its signals
(R329, R394). -/
structure SSet where
  va : DWord
  pa : Nat
  ctx : Nat
  priv : Bool := false
  die : Nat
  tr : TeamRec
  n : Nat
  thr : Word
  add : Bool
  cls : Nat
  look : Nat
  vector : Nat
  vsize : Nat
  table : DWord
  vbase : DWord
  adj : DWord
  tags : DWord
  pref : DWord
  qrec : DWord
  phase : DWord
  watch : List (Nat × Nat × Word)
  cmask : BitVec 192
  rseq : Nat
  rgen : Nat := 0
  cells : FMap Cell := []
  raises : List Raise := []
  ncommit : Nat := 0
  due : Bool := false
  dead : List Nat := []
  stopping : Bool := false
  stopWb : Option (Nat × Nat) := none
  stopCmd : Option Nat := none
  sumRet : Nat := 0
  sumClk : Nat := 0
  retired : Nat := 0
  front : List Nat := []
  toRead : List Nat := []
  out : Option (List (DWord × List Byte)) := none
  deriving DecidableEq, Repr

/-- A grid launch (R338-R343, R355, R380). `order` lists (x, y) along the curve, `next` is the curve index of the next unplaced
team, `homes` the cluster of each placed cohort, `left` the teams not yet retired. -/
structure Launch where
  ctx : Nat
  die : Nat
  prio : Nat
  tr : TeamRec
  ext : Nat × Nat × Nat
  order : List (Nat × Nat)
  cohort : Nat
  next : Nat := 0
  total : Nat
  requeue : List Nat := []
  homes : FMap Nat := []
  cluster : Nat := 0
  num : Nat := 0
  left : Nat
  tfaults : Nat := 0
  block : DWord := 0
  cmd : Option Nat := none
  dead : List Nat := []
  sumRet : Nat := 0
  sumClk : Nat := 0
  retired : Nat := 0
  deriving DecidableEq, Repr

/-- A command of a queue being executed (R380). `stage`: 1 fetched, 2 begun, 3 completing; `entry` is its ring entry, `op` the copy
it makes; `seen` says that a WAIT has read its phase object. -/
structure Cmd where
  bytes : List Byte
  entry : DWord
  stage : Nat := 1
  status : Nat := 0
  count : Nat := 0
  op : Option Nat := none
  dead : List Nat := []
  seen : Bool := false
  deriving DecidableEq, Repr

/-- What a die holds of pre-emption (R348, R382) and its interrupt ring registers (R383), save-area pool (R367), slots of
fairness (R323), the weights in force and those applied for its next slot (R326). -/
structure DieSt where
  prqCtx : BitVec 11 := 0
  prqMask : BitVec 192 := 0
  prqDl : BitVec 32 := 0
  busy : Bool := false
  late : Bool := false
  goAt : Nat := 0
  reqCtx : Nat := 0
  reqDl : Nat := 0
  pend : List Nat := []
  nlaunch : Nat := 0
  irqBase : DWord := 0
  irqLog : Nat := 4
  irqWp : BitVec 32 := 0
  irqRp : BitVec 32 := 0
  irqLost : BitVec 32 := 0
  svpa : DWord := 0
  svva : DWord := 0
  svpaSet : Bool := false
  svvaSet : Bool := false
  areas : List Nat := []
  w : FMap Nat := [(0, 256)]
  wNext : Option (FMap Nat) := none
  credit : FMap Int := []
  nslots : FMap Nat := []
  lastSet : FMap Nat := []
  tlb : List TlbE := []
  replicas : FMap (List Byte) := []
  deriving DecidableEq, Repr

/-- The boot and identity page (R384-R386). -/
structure Boot where
  state : Nat := 0
  source : Nat := 0
  reason : Nat := 0
  rollback : BitVec 32 := 0
  digest : BitVec 512 := 0
  rwaddr : DWord := 0
  rwlen : DWord := 0
  nonce : BitVec 256 := 0
  busy : Bool := false
  ready : Bool := false
  report : BitVec 1808 := 0
  deriving DecidableEq, Repr

/-- The package's MMIO registers with no home elsewhere (R326, R373, R382). -/
structure Mmio where
  qtbase : DWord := 0
  ctbase : DWord := 0
  tdbase : DWord := 0
  fw : FMap Nat := [(0, 256)]
  bad : Bool := false
  mcr : List (Nat × Nat × Nat) := []
  mcrLost : Nat := 0
  deriving DecidableEq, Repr

/-- A page of another package that this package holds or asks for (R97, R98), and the holder record of a page homed here. -/
structure Holder where
  st : Nat := 0
  crs : Bool := false
  ptrs : List Nat := []
  grp : List Nat := []
  reqs : List (Nat × Bool) := []
  recalls : List Nat := []
  deriving DecidableEq, Repr

/-- A pending SREL (R286): core, team, slots, the held instructions it waits for (slot + 16 x (thread + 1,024 x arrival number)), token. -/
structure SRel where
  core : Nat
  team : Nat
  mask : Nat
  waits : List Nat := []
  wb : Nat
  deriving DecidableEq, Repr

/-- A crumb record on its way to its home (R100, R365): where it was translated, under which entry and generation, and what it writes. -/
structure Crumb where
  die : Nat
  ctx : Nat
  gen : Nat
  va : DWord
  pte : Nat
  bytes : List Byte
  deriving DecidableEq, Repr

/-- The home-slice units that hold no bytes of memory (R93, R94, R229, R230, R248, R272). `late` holds writes of the host and of
control cores that wait at their slice (R98, R275); `scan` the whole-tile writes and scans under way: tile, operation, whether another
store has come between (R304); `crumbs` the crumb records that wait at their slice. -/
structure Units where
  defer : List (Nat × List (Nat × Nat)) := []
  locks : FMap (List (Nat × Nat × Nat)) := []
  heldArr : FMap Nat := []
  owner : FMap Nat := []
  dir : FMap DEnt := []
  gran : FMap Gran := []
  greqs : List GReq := []
  nmsgs : List NMsg := []
  late : List (Nat × List Byte) := []
  tdcache : FMap (List (Nat × Nat)) := []
  scan : List (Nat × Nat × Bool) := []
  crumbs : List Crumb := []
  deriving DecidableEq, Repr

/-- Links to other packages and the outside (R75, R97, R98, R124, R364, R387-R391). `failed` lists the ids whose route is gone and which no
spare has taken yet; `spare` says that this package is a spare (R389); `asked` lists the
recalls that wait for a sealed granule: page, whether it is to be invalidated (R98, R275). -/
structure Links where
  pkg : Nat := 0
  routes : List Nat := []
  held : FMap Bool := []
  wants : FMap Bool := []
  holders : FMap Holder := []
  pool : List (Nat × Nat) := []
  poison : FMap Nat := []
  throttled : List Nat := []
  lifeRecords : Nat := 0
  retunes : Nat := 0
  retries : Nat := 0
  failed : List Nat := []
  spare : Bool := false
  asked : List (Nat × Bool) := []
  deriving DecidableEq, Repr

/-- The FV7-B768. -/
structure State where
  /-- MODEL: inputs and internal events still to happen, oldest first (log 3). -/
  agenda : List Instr := []
  /-- Device time in clocks (R5). -/
  clock : Nat := 0
  /-- MODEL: the issue position within the clock, 2 x core + issue. -/
  cursor : Nat := 0
  /-- MODEL: the team and group that issue now. -/
  cur : Option (Nat × Nat) := none
  /-- MODEL: stamp of the next free value. -/
  freeCtr : Nat := 0
  /-- MODEL: the next name for a team, launch, operation, fault unit or owed result. -/
  nextId : Nat := 1
  mem : Memory := []
  ctxs : FMap Ctx := []
  teams : FMap Team := []
  cores : FMap CoreSt := []
  dies : FMap DieSt := []
  ops : FMap Op := []
  faults : FMap FaultUnit := []
  sets : FMap SSet := []
  launches : FMap Launch := []
  rels : FMap SRel := []
  shoots : List Shoot := []
  units : Units := {}
  links : Links := {}
  boot : Boot := {}
  mmio : Mmio := {}
  cmds : FMap Cmd := []
  /-- The order clock (R269). -/
  ordClock : Nat := 0
  deriving DecidableEq, Repr

/-- The machine right after reset: memory lists nothing, no team is placed, every context is as R375 leaves one that was
never loaded, every register is at its reset value. -/
def State.reset : State := {}

/-- Why the machine stops. No rule of the spec stops the machine: every trap and engine fault is a next state. -/
inductive Fault where
  /-- Raised by no definition of the model. It is safe: no state ends in it. -/
  | halted
  deriving DecidableEq, Repr

/-- Why an instruction has no meaning. -/
inductive Refusal where
  /-- Raised only by an arm of `exec` whose instruction has no meaning yet. Safe: the run stops. -/
  | notModelled (mnemonic : String)
  deriving DecidableEq, Repr

end Sys2Proof.Machine
end

