-- ==== Sys2Proof/Machine/Memory.lean ====
section
/-!
DEFINITION. Memory as bytes by physical address, and translation from virtual addresses (R74-R76, R81-R83, R99).
-/

namespace Sys2Proof.Machine

/-- The byte at an address; an unlisted address reads 0 (log 1). -/
def Memory.byte (m : Memory) (a : Nat) : Byte := FMap.getD m a 0

/-- Memory with one byte stored, in canonical form. -/
def Memory.store (m : Memory) (a : Nat) (b : Byte) : Memory := if b = 0 then FMap.erase m a else FMap.set m a b

/-- The n bytes from an address. -/
def Memory.bytes (m : Memory) (a : Nat) : Nat → List Byte
  | 0 => []
  | n + 1 => m.byte a :: Memory.bytes m (a + 1) n

/-- Memory with bytes stored from an address on. -/
def Memory.storeBytes (m : Memory) (a : Nat) : List Byte → Memory
  | [] => m
  | b :: bs => Memory.storeBytes (m.store a b) (a + 1) bs

/-- An n-byte little-endian number in memory (R3). -/
def Memory.num (m : Memory) (a n : Nat) : Nat := leNat (m.bytes a n)

/-- Memory with the n low bytes of a number stored. -/
def Memory.storeNum (m : Memory) (a n x : Nat) : Memory := m.storeBytes a (natLe n x)

/-- First byte of the on-chip window region, of MMIO, and the end of MMIO in a package (R76). -/
def windowBase : Nat := 0x10000000000
def mmioBase : Nat := 0x20000000000
def mmioEnd : Nat := 0x20100000000

/-- The package-local part and the package id of a physical address (R75). -/
def paLocal (pa : Nat) : Nat := pa % 2 ^ 44
def paPkg (pa : Nat) : Nat := pa / 2 ^ 44

/-- A physical address is plain memory: HBM of a package, not a window or MMIO (R76). -/
def isMem (pa : Nat) : Bool := decide (paLocal pa < windowBase)

/-- A physical page is reserved, or its package id is (R75, R76). -/
def paReserved (pa : Nat) : Bool := decide (3072 ≤ paPkg pa) || decide (mmioEnd ≤ paLocal pa)

/-- A virtual address is canonical (R74). -/
def canonical (va : DWord) : Bool :=
  let top := va.toNat / 2 ^ 56
  top == 0 || top == 255

/-- Fields of a page-table entry (R82). A reserved format or geometry code has the effect of 0 (R7, R84). -/
def pteV (e : Nat) : Bool := bit e 0
def pteR (e : Nat) : Bool := bit e 1
def pteW (e : Nat) : Bool := bit e 2
def pteX (e : Nat) : Bool := bit e 3
def pteU (e : Nat) : Bool := bit e 4
def pteG (e : Nat) : Bool := bit e 5
def pteCtg (e : Nat) : Bool := bit e 6
def pteWatch (e : Nat) : Bool := bit e 7
def pteFut (e : Nat) : Bool := bit e 8
def pteTde (e : Nat) : Bool := bit e 9
def pteCoh (e : Nat) : Nat := bits e 11 10
def pteFmt (e : Nat) : Nat := if bits e 15 12 ≤ 9 then bits e 15 12 else 0
def pteGeo (e : Nat) : Nat := if bits e 18 16 ≤ 3 then bits e 18 16 else 0
def ptePpn (e : Nat) : Nat := bits e 63 20

/-- An entry points to the next table (R81). -/
def ptePointer (e : Nat) : Bool := pteV e && !pteR e && !pteW e && !pteX e

/-- The sixteen fourth-level leaves around a ctg leaf match (R81); the reserved bit 19 takes no part, and reserved format and geometry codes
count as 0 (R7, R82, R84). -/
def ctgOk (m : Memory) (table idx : Nat) : Bool :=
  let g := idx / 16 * 16
  let e0 := m.num (table + 8 * g) 8
  (ptePpn e0) % 16 == 0 &&
  (List.range 16).all (fun i =>
    let e := m.num (table + 8 * (g + i)) 8
    e % 2 ^ 12 == e0 % 2 ^ 12 && pteFmt e == pteFmt e0 && pteGeo e == pteGeo e0 && ptePpn e == ptePpn e0 + i && pteV e && pteCtg e && (pteR e || pteW e || pteX e))

/-- A leaf that maps 2^k pages is valid (R76, R83); the answer is the entry of the 4 KiB page that holds va. R82 gives ctg a meaning at the
fourth level only, and R83 calls a ctg leaf outside a group invalid: a 1 GiB or 2 MiB leaf with ctg = 1 is taken as valid, its ctg bit ignored
(log 19). -/
def leafAt (m : Memory) (table idx e k va : Nat) : Option Nat :=
  if pteCoh e == 3 || (pteW e && !pteR e) || ptePpn e % 2 ^ k != 0 then none
  else if k == 0 && pteCtg e && !ctgOk m table idx then none
  else
    let ppn := ptePpn e + (va / 4096) % 2 ^ k
    if paReserved (ppn * 4096) then none else some (e % 2 ^ 20 + ppn * 2 ^ 20)

/-- The walk of R81: from the root table to the entry of the 4 KiB page that holds va and the log2 of the pages its leaf maps, none when it
fails. -/
def walkLeaf (m : Memory) (root va : Nat) : Option (Nat × Nat) :=
  let i1 := bits va 56 39
  let e1 := m.num (root + 8 * i1) 8
  if !ptePointer e1 then none else
  let t2 := ptePpn e1 * 4096
  let i2 := bits va 38 30
  let e2 := m.num (t2 + 8 * i2) 8
  if !pteV e2 then none
  else if !ptePointer e2 then (leafAt m t2 i2 e2 18 va).map (·, 18)
  else
    let t3 := ptePpn e2 * 4096
    let i3 := bits va 29 21
    let e3 := m.num (t3 + 8 * i3) 8
    if !pteV e3 then none
    else if !ptePointer e3 then (leafAt m t3 i3 e3 9 va).map (·, 9)
    else
      let t4 := ptePpn e3 * 4096
      let i4 := bits va 20 12
      let e4 := m.num (t4 + 8 * i4) 8
      if !pteV e4 || ptePointer e4 then none else (leafAt m t4 i4 e4 0 va).map (·, if pteCtg e4 then 4 else 0)

/-- The entry that the walk finds. -/
def walk (m : Memory) (root va : Nat) : Option Nat := (walkLeaf m root va).map Prod.fst

/-- Who translates: context number, root and privilege as in force for it, and the die. -/
structure Xlat where
  die : Nat
  ctx : Nat
  root : Nat
  priv : Bool
  deriving DecidableEq, Repr

/-- A die's state. -/
def State.die (s : State) (d : Nat) : DieSt := FMap.getD s.dies d {}

/-- A TLB entry covers a page of a context (R82, R99). -/
def TlbE.covers (e : TlbE) (ctx vpn : Nat) : Bool := decide (e.vpn ≤ vpn) && decide (vpn < e.vpn + e.n) && (e.g || e.ctx == ctx)

/-- The entry of the page that holds va: as the die's TLB holds it, else by the walk (R81, R99). -/
def State.pte? (s : State) (x : Xlat) (va : DWord) : Option Nat :=
  if !canonical va then none
  else
    let vpn := va.toNat % 2 ^ 57 / 4096
    match (s.die x.die).tlb.find? (fun e => e.covers x.ctx vpn) with
    | some e => some (e.pte + (vpn - e.vpn) * 2 ^ 20)
    | none => walk s.mem x.root va.toNat

/-- The physical address of va under its page's entry. -/
def paOf (e : Nat) (va : DWord) : Nat := ptePpn e * 4096 + va.toNat % 4096

/-- The kinds of access a translation is asked for. -/
inductive Access where
  | read | write | rmw | fetch
  deriving DecidableEq, Repr

/-- A page's entry admits an access (R82, R83). A window or MMIO address is reached only through an entry with u = 0 (R80, R373): through
one with u = 1 the access is forbidden, and instruction fetch does not reach them (log 54). -/
def pteAllows (e : Nat) (priv : Bool) (k : Access) : Bool :=
  (if pteU e then isMem (ptePpn e * 4096) else priv) &&
  match k with
  | .read => pteR e
  | .write => pteW e
  | .rmw => pteR e && pteW e
  | .fetch => pteX e && isMem (ptePpn e * 4096)

/-- Physical address lies in the CXL pool (R236, R376). -/
def State.inPool (s : State) (pa : Nat) : Bool :=
  s.links.pool.any (fun r => decide (r.1 ≤ pa) && decide (pa < r.1 + r.2))

/-- Translation of one access: the entry, or whether the failure is one of permission (R83, R359). A lane access to pool
memory fails (R376). -/
def State.xlate (s : State) (x : Xlat) (lane : Bool) (va : DWord) (k : Access) : Except Bool Nat :=
  match s.pte? x va with
  | none => .error false
  | some e =>
    if !pteAllows e x.priv k then .error true
    else if lane && s.inPool (paOf e va) then .error true
    else .ok e

/-- Entries of a die's TLB, and the pages that one entry can cover (R99). -/
def tlbSize : Nat := 12288
def tlbRun : Nat := 8192

/-- The entry that a fill makes for a page (R99): its run is the pages of the leaf that maps it, at most the aligned 32 MiB around it
(log 55). -/
def State.tlbEntry (s : State) (x : Xlat) (vpn e : Nat) : TlbE :=
  let k := ((walkLeaf s.mem x.root (vpn * 4096)).map Prod.snd).getD 0
  let n := min (2 ^ k) tlbRun
  let o := vpn % n
  ⟨x.ctx, vpn - o, e - o * 2 ^ 20, pteG e, n, (FMap.getD s.ctxs x.ctx {}).gen⟩

/-- The translation generation of an access to va (R100): that of the TLB entry it goes through, else the context's present one. -/
def State.genAt (s : State) (x : Xlat) (va : DWord) : Nat :=
  match (s.die x.die).tlb.find? (fun e => e.covers x.ctx (va.toNat % 2 ^ 57 / 4096)) with
  | some e => e.gen
  | none => (FMap.getD s.ctxs x.ctx {}).gen

/-- The die's TLB keeps the translation an access used (R99); in a full one the oldest entry makes room (log 55). -/
def State.fillTlb (s : State) (x : Xlat) (va : DWord) (e : Nat) : State :=
  let vpn := va.toNat % 2 ^ 57 / 4096
  let d := s.die x.die
  if d.tlb.any (fun t => t.covers x.ctx vpn) then s
  else { s with dies := FMap.set s.dies x.die { d with tlb := (s.tlbEntry x vpn e :: d.tlb).take tlbSize } }

/-- The page of va is non-coherent under the range registers in force (R95). -/
def isNc (sr : SysRegs) (va : DWord) : Bool :=
  let page := va.toNat / 4096
  (List.range 16).any (fun n =>
    let b := (FMap.getD sr.ncb n 0).toNat
    let l := (FMap.getD sr.ncl n 0).toNat
    bit b 0 && decide (b / 4096 ≤ page) && decide (page ≤ l / 4096))

/-- The home slice of a line within its package: die and slice (R77). -/
def homeDie (pa : Nat) : Nat := bits pa 39 37 / 2
def homeSlice (pa : Nat) : Nat := (bits pa 11 7) ^^^ (bits pa 16 12) ^^^ (bits pa 21 17) ^^^ (bits pa 26 22)

/-- The die whose stacks hold a physical address, with its slice, as one number. -/
def sliceOf (pa : Nat) : Nat := homeDie pa * 32 + homeSlice pa

-- Pages of other packages.

/-- The page is homed on another package (R75, R97). -/
def State.foreign (s : State) (pa : Nat) : Bool := decide (paPkg pa ≠ s.links.pkg)

/-- A package id has a route (R387). -/
def State.routed (s : State) (pa : Nat) : Bool := s.links.routes.contains (paPkg pa)

/-- An access of this package still needs a grant (R98): of a page homed elsewhere that it does not hold, or of its own page that
another package holds. U pages are served at their home (R97). -/
def State.needsGrant (s : State) (pte : Option Nat) (pa : Nat) (write : Bool) : Bool :=
  (pte.map pteCoh) ≠ some 2 &&
  if s.foreign pa then s.routed pa && (match FMap.get? s.links.held (pa / 4096) with
    | none => true
    | some excl => write && !excl)
  else match FMap.get? s.links.holders (pa / 4096) with
    | none => false
    | some h => h.st == 2 || (write && h.st == 1)

/-- The request for a grant goes out, or joins the requests at the page's holder record (R98). -/
def State.askGrant (s : State) (pa : Nat) (write : Bool) : State :=
  let page := pa / 4096
  if s.foreign pa then
    let old := FMap.getD s.links.wants page false
    { s with links := { s.links with wants := FMap.set s.links.wants page (old || write) } }
  else
    let h := FMap.getD s.links.holders page {}
    if h.reqs.any (fun r => r.1 == s.links.pkg && (r.2 || !write)) then s
    else { s with links := { s.links with holders := FMap.set s.links.holders page { h with reqs := h.reqs ++ [(s.links.pkg, write)] } } }

end Sys2Proof.Machine
end

