-- ==== Sys2Proof/Machine/Ops.lean ====
section
/-!
DEFINITION. The named operations over registers, groups and threads: reading and writing registers under the stall
counts and the scoreboard (R155-R160), advancing a group, ending a run, taking a precise trap (R359-R361), returning from
one (R363), and aborting a region (R277).
-/

namespace Sys2Proof.Machine

-- Accessors.

/-- A team by its name. -/
def State.team? (s : State) (t : Nat) : Option Team := FMap.get? s.teams t

/-- The state with a team changed. -/
def State.updTeam (s : State) (t : Nat) (f : Team → Team) : State := { s with teams := FMap.upd s.teams t f }

/-- A core's own state. -/
def State.core (s : State) (c : Nat) : CoreSt := FMap.getD s.cores c {}

/-- The state with a core's own state changed. -/
def State.updCore (s : State) (c : Nat) (f : CoreSt → CoreSt) : State := { s with cores := FMap.set s.cores c (f (s.core c)) }

/-- The state with a die's state changed. -/
def State.updDie (s : State) (d : Nat) (f : DieSt → DieSt) : State := { s with dies := FMap.set s.dies d (f (s.die d)) }

/-- A context as the dies hold it. -/
def State.ctx (s : State) (n : Nat) : Ctx := FMap.getD s.ctxs n {}

/-- A thread of a team. -/
def Team.thread (tm : Team) (tid : Nat) : Thread := (tm.threads[tid]?).getD {}

/-- A team with one thread changed. -/
def Team.updThread (tm : Team) (tid : Nat) (f : Thread → Thread) : Team := { tm with threads := updAt tm.threads tid f }

/-- A team with one group changed. -/
def Team.updGroup (tm : Team) (g : Nat) (f : Group → Group) : Team := { tm with groups := FMap.upd tm.groups g f }

/-- The state with one thread changed. -/
def State.updThread (s : State) (t tid : Nat) (f : Thread → Thread) : State := s.updTeam t (fun tm => tm.updThread tid f)

/-- The state with one group changed. -/
def State.updGroup (s : State) (t g : Nat) (f : Group → Group) : State := s.updTeam t (fun tm => tm.updGroup g f)

/-- A k register (R192). -/
def Team.kreg (tm : Team) (n : Nat) : DWord := FMap.getD tm.k n 0

/-- The die a team is on (R12). -/
def Team.dieOf (tm : Team) : Nat := tm.core / 192

/-- How a team's own accesses translate. -/
def Team.xlat (tm : Team) : Xlat := ⟨tm.dieOf, tm.ctx, tm.eff.root.toNat, tm.eff.priv⟩

/-- The live threads of a team. -/
def Team.live (tm : Team) : List Nat := (List.range tm.threads.length).filter (fun i => !(tm.thread i).exited)

/-- A fresh name. -/
def State.newId (s : State) : Nat × State := (s.nextId, { s with nextId := s.nextId + 1 })

/-- Device time in nanoseconds (R365): a clock is 0.8 ns (R1). -/
def State.timeNs (s : State) : Nat := s.clock * 4 / 5

-- Registers.

/-- A thread's register as written. -/
def Thread.reg (th : Thread) (tid : Nat) : Reg → DWord
  | .v n => (FMap.getD th.v n 0).setWidth 64
  | .t n => (FMap.getD th.t n (Config.freeT th.stamp tid n)).setWidth 64
  | .p n => if n = 7 then 1 else BitVec.ofNat 64 (b2n (th.p.getLsbD n))
  | .k _ => 0
  | .kf => 0

/-- A thread with a register written. A run-end shortfall of an earlier run (R157), and a data error in the register (R364), end with the
write. -/
def Thread.setReg (th : Thread) (r : Reg) (x : DWord) : Thread :=
  let th := { th with soft := th.soft.filter (fun e => e.1 != r) }
  match r with
  | .v n => { th with v := FMap.set th.v n (x.setWidth 32), bad := th.bad.filter (· != n) }
  | .t n => { th with t := FMap.set th.t n (x.setWidth 32), lver := th.lver + b2n (n == 8) }
  | .p n => if n < 7 then { th with p := BitVec.ofNat 7 (setBits th.p.toNat n 1 (x.toNat % 2)) } else th
  | .k _ => th
  | .kf => th

/-- A team's register as a thread of it reads it. -/
def Team.reg (tm : Team) (tid : Nat) (r : Reg) : DWord :=
  match r with
  | .k n => tm.kreg n
  | .kf => tm.kf.setWidth 64
  | _ => (tm.thread tid).reg tid r

/-- A team with a register of a thread, or of the team, written. -/
def Team.setReg (tm : Team) (tid : Nat) (r : Reg) (x : DWord) : Team :=
  match r with
  | .k n => { tm with k := FMap.set tm.k n x, soft := tm.soft.filter (fun e => e.1 != r) }
  | .kf => { tm with kf := x.setWidth 4, soft := tm.soft.filter (fun e => e.1 != r) }
  | _ => tm.updThread tid (fun th => th.setReg r x)

/-- The key under which the log keeps a register's old value: the thread, or 0 for a team register. -/
def logKey (tid : Nat) : Reg → Nat
  | .k _ => 0
  | .kf => 0
  | _ => tid

/-- A log entry whose latency a reader at distance d falls short of (R157). -/
def LogE.short (e : LogE) (d : Nat) : Bool := decide (d < e.dist + e.lat)

/-- A register is the team's, not a thread's. -/
def Reg.ofTeam : Reg → Bool
  | .k _ => true
  | .kf => true
  | _ => false

/-- The run-end shortfalls that a reader of a register may meet (R157): the team's for k registers and kf, else the thread's. -/
def Team.softOf (tm : Team) (tid : Nat) (r : Reg) : List (Reg × List DWord) := if r.ofTeam then tm.soft else (tm.thread tid).soft

/-- The values that the run-end shortfalls of a register leave to its readers (R157). -/
def Team.softVals (tm : Team) (tid : Nat) (r : Reg) : List DWord := (((tm.softOf tid r).find? (fun e => e.1 == r)).map Prod.snd).getD []

/-- The values R157 allows a read of a register at the group's present distance, the settled value last. Where the group has written it, they begin with
its first write that falls short, which takes the shortfalls of the run before into its log. -/
def candidates (tm : Team) (g : Group) (tid : Nat) (r : Reg) : List DWord :=
  let es := g.log.filter (fun e => e.reg == r && (FMap.get? e.old (logKey tid r)).isSome)
  (if es.isEmpty then tm.softVals tid r
   else (es.dropWhile (fun e => !e.short g.dist)).map (fun e => FMap.getD e.old (logKey tid r) 0)) ++ [tm.reg tid r]

/-- A group that keeps what a register held before a write which is not of its run's own: a reader for which an earlier write of its run falls short
may still get it (R157). -/
def Group.note (g : Group) (tid : Nat) (r : Reg) (old : DWord) : Group :=
  if (r.ofTeam || g.tids.contains tid) && g.log.any (fun l => l.reg == r) then
    { g with log := g.log ++ [⟨r, g.dist, 0, [(logKey tid r, old)]⟩] }
  else g

/-- A number that tells the registers apart. -/
def Reg.num : Reg → Nat
  | .v n => n
  | .t n => 112 + n
  | .p n => 128 + n
  | .k n => 192 + n
  | .kf => 256

/-- A read of a register by a thread of a group: the settled value, or where the stall counts fall short, any value that
R157 allows (log 5). -/
def readReg (s : State) (tm : Team) (g : Group) (tid : Nat) (r : Reg) : DWord :=
  match candidates tm g tid r with
  | [] => tm.reg tid r
  | [x] => x
  | l => (l[Config.freePick s.freeCtr tid r.num % l.length]?).getD (tm.reg tid r)

-- What an instruction uses, and the checks that come before it executes.

/-- The registers an instruction reads and writes, the highest v register it names plus one, and whether it reads L. -/
structure Use where
  rd : List Reg := []
  wr : List Reg := []
  top : Nat := 0
  l : Bool := false
  deriving DecidableEq, Repr

def Use.add (a b : Use) : Use := ⟨a.rd ++ b.rd, a.wr ++ b.wr, max a.top b.top, a.l || b.l⟩

/-- The register a 32-bit operand code names (R150); zero and tid name none. -/
def codeReg (c : Nat) : Option Reg :=
  if c ≤ 111 then some (.v c) else if c ≤ 120 then some (.t (c - 112)) else none

/-- The n registers from a code on. -/
def codeRegs (c n : Nat) : List Reg := (List.range n).filterMap (fun i => if c ≤ 119 then codeReg (c + i) else if i = 0 then codeReg c else none)

/-- Reads of the n registers from a code (R150). -/
def Use.src (c n : Nat) : Use := ⟨codeRegs c n, [], if c ≤ 111 then c + n else 0, c == 120⟩

/-- Writes of the n registers from a code (R150). -/
def Use.dst (c n : Nat) : Use := ⟨[], codeRegs c n, if c ≤ 111 then c + n else 0, false⟩

/-- Reads of n k registers from k on, and writes of them. -/
def Use.ksrc (k n : Nat) : Use := ⟨(List.range n).map (fun i => .k (k + i)), [], 0, false⟩
def Use.kdst (k n : Nat) : Use := ⟨[], (List.range n).map (fun i => .k (k + i)), 0, false⟩

/-- A word of a body: the instruction it decodes to. -/
def wordInstr (w : BitVec 32) : Option Instr :=
  match if w.getLsbD 0 then decode32 w else decode16 (w.setWidth 16) with
  | .ok i => some i
  | .error _ => none

/-- A body word's length in bytes (R143). -/
def wordLen (w : BitVec 32) : Nat := if w.getLsbD 0 then 4 else 2

/-- The instructions that leave L as it stands (R160). -/
def keepsL : Instr → Bool
  | .nop => true
  | .stall _ => true
  | _ => false

/-- The instructions that give L a result (R160), by their words: the 16-bit lane operations; the lane majors 0x0C-0x28 but
ICMP, FCMP and PLOG; MOVK; 0x29 but for predicates; LDS and XLD of 8 bytes or less; ATOMS, ATOMG; ARD. -/
def givesL (w : BitVec 32) : Bool :=
  let x := w.toNat
  if x % 2 = 0 then !bit x 15
  else
    let m := bits x 6 1
    if m = 0x18 || m = 0x19 || m = 0x1B then false
    else if decide (0x0C ≤ m) && decide (m ≤ 0x29) then true
    else if m = 0x0B then bits x 10 9 == 3
    else if m = 0x2A then bits x 10 9 != 3
    else if m = 0x2C || m = 0x2D then true
    else if m = 0x35 then !bit x 31 && bits x 10 9 != 3
    else if m = 0x39 then bits x 11 9 == 4
    else false

/-- L holds a result at body index i (R160). -/
def lValid (body : List (BitVec 32)) : Nat → Bool
  | 0 => false
  | i + 1 =>
    match body[i]? with
    | none => false
    | some w => if (wordInstr w).any keepsL then lValid body i else givesL w

/-- An owed L that its thread's run is past, or that a later instruction has overwritten (R158, R160): nobody waits for it and it is not
written. -/
def Team.dead (tm : Team) (w : Wb) : Bool :=
  let th := tm.thread (w.tid.getD 0)
  w.reg == .t 8 && (th.stamp != w.stamp || th.lver != w.ver)

/-- A register has a result outstanding for a thread (R158). -/
def Team.pending (tm : Team) (tid : Nat) (r : Reg) : Bool :=
  tm.wbs.any (fun w => w.reg == r && (match w.tid with | none => true | some t => t == tid) && !tm.dead w)

/-- A precise trap: cause, info and eva (R359). -/
structure Trap where
  cause : Nat
  info : Nat := 0
  eva : DWord := 0
  deriving DecidableEq, Repr

def Trap.illegal : Trap := { cause := 1 }
/-- Alignment (R359): info bit 0 is ecause[8]. -/
def Trap.align (store : Bool) (eva : DWord) : Trap := { cause := 3, info := b2n store, eva }
def Trap.window : Trap := { cause := 4 }
def Trap.slot (n : Nat) : Trap := { cause := 5, info := n }
def Trap.xlat (store fetch perm : Bool) (eva : DWord) : Trap :=
  { cause := 6, info := b2n store + 2 * b2n fetch + 4 * b2n perm, eva }

/-- The address of the instruction at body index i of a run (R145). -/
def bodyAddr (hdr : DWord) (body : List (BitVec 32)) (i : Nat) : DWord :=
  hdr + 4 + BitVec.ofNat 64 ((body.take i).foldl (fun n w => n + wordLen w) 0)

def Group.addr (g : Group) : DWord := bodyAddr g.hdr g.body g.idx

-- Threads leaving groups.

/-- A team with a thread taken out of the groups; an empty group ends. -/
def Team.leave (tm : Team) (tid : Nat) : Team :=
  let gs := tm.groups.map (fun e => (e.1, { e.2 with tids := e.2.tids.filter (· != tid) }))
  { tm with groups := gs.filter (fun e => !e.2.tids.isEmpty) }

/-- The group that holds a thread. -/
def Team.groupOf (tm : Team) (tid : Nat) : Option (Nat × Group) := tm.groups.find? (fun e => e.2.tids.contains tid)

/-- A thread put at an address as by a branch: t0-t7 and L go, nothing of a run is left (R21, R160), nor its wait at a matrix instruction (R286,
R288), nor that it has signed or issued there: one that a resume entry brings back signs or issues again (R287, log 67). An arrival at a cross-thread instruction stands, but gives the thread no result any more (R193; log 63). -/
def Thread.goto (th : Thread) (pc : DWord) : Thread :=
  { th with pc, npc := pc, t := [], mid := none, held := false, pwait := false, part := false, xres := none, mwait := none,
            arrivals := th.arrivals.map (fun r => { r with left := true }) }

/-- A thread at the end of its run goes on at its next address, not before the clock of the run end; `soft` are the shortfalls the run
leaves it (R20, R21, R157). -/
def Thread.goOn (th : Thread) (due : Nat) (soft : List (Reg × List DWord)) : Thread :=
  if th.exited then th
  else
    let th' := th.goto th.npc
    { th' with soft := soft ++ th.soft, mid := th.nmid, nmid := none, due }

/-- A thread that takes a precise trap: its record, and the handler's address (R359, R360). -/
def Thread.trapped (th : Thread) (va epc : DWord) (ecause : BitVec 32) (eva : DWord) (mid : Option Mid) : Thread :=
  let th' := th.goto va
  { th' with epc, ecause, eva, trMid := mid, hm := true, soft := [] }

/-- A thread that has executed an instruction. -/
def Thread.worked (th : Thread) : Thread := { th with ran := true, age := 0 }

-- Owed results.

/-- An owed result for t0-t7 or L that has gone with its run, or an L that has been overwritten (R158, R160). -/
def Team.stale (tm : Team) (w : Wb) : Bool :=
  tm.dead w || (match w.reg with
    | .t _ => (tm.thread (w.tid.getD 0)).stamp != w.stamp
    | _ => false)

/-- Flags set in a team's kexc, of a result that is complete at a clock: until then a KWR does not clear them (R71, R72). -/
def Team.flag (tm : Team) (now lat : Nat) (fl : BitVec 5) : Team :=
  { tm with kexc := tm.kexc ||| fl,
            fresh := if fl = 0 then tm.fresh else tm.fresh.filter (fun x => decide (now ≤ x.1)) ++ [(now + lat, fl)] }

/-- A team without the run-end shortfalls of a register of a thread, or of the team (R157). -/
def Team.firm (tm : Team) (tid : Nat) (r : Reg) : Team :=
  if r.ofTeam then { tm with soft := tm.soft.filter (fun e => e.1 != r) }
  else tm.updThread tid (fun th => { th with soft := th.soft.filter (fun e => e.1 != r) })

/-- A register written by an owed result: a reader for which an earlier fixed-latency write of the run falls short, or one in a later run after the
run end has fallen short since the result's instruction issued, may still get what the register held before (R157, R158). -/
def Team.setOwed (tm : Team) (tid : Nat) (r : Reg) (x : DWord) : Team :=
  let old := tm.reg tid r
  let keep := ((tm.softOf tid r).filter (fun e => e.1 == r)).map (fun e => (e.1, e.2 ++ [old]))
  let tm := { tm with groups := tm.groups.map (fun (e : Nat × Group) => (e.1, e.2.note tid r old)) }
  let tm := tm.setReg tid r x
  if keep.isEmpty then tm
  else if r.ofTeam then { tm with soft := keep ++ tm.soft }
  else tm.updThread tid (fun th => { th with soft := keep ++ th.soft })

/-- A team with an owed result written at a clock (R158), and the flags that come with it (R72, R226). -/
def Team.writeWb (tm : Team) (now : Nat) (w : Wb) : Team :=
  match w.val with
  | none => tm
  | some x =>
    let tm := { tm with wbs := tm.wbs.filter (fun o => o.id != w.id || o.reg != w.reg) }.flag now 0 w.fl
    if tm.stale w then tm else tm.setOwed (w.tid.getD 0) w.reg x

/-- An owed result stands behind an earlier one of another thread to the same register. -/
def Team.blocked (tm : Team) (w : Wb) : Bool :=
  (tm.wbs.takeWhile (fun o => o.id != w.id || o.reg != w.reg)).any (fun o => o.reg == w.reg && o.tid == w.tid && o.owner != w.owner)

/-- An owed result is one of a thread's instructions: its own, or a uniform one that its group executed (R192, R359). -/
def Wb.isOf (w : Wb) (tid : Nat) : Bool := w.owner == tid || w.also.contains tid

/-- The thread owes a result that cannot be written yet: its value is not there, or it is behind another thread's; or its region is between
XEND and its end (R275, R359). -/
def Team.owes (tm : Team) (tid : Nat) : Bool :=
  tm.wbs.any (fun w => w.isOf tid && (w.val.isNone || tm.blocked w)) || (tm.thread tid).region.any (fun r => r.stage != 0)

/-- An owed result is behind an earlier one to the same register (R158). -/
def Team.behind (tm : Team) (w : Wb) : Bool :=
  (tm.wbs.takeWhile (fun o => o.id != w.id || o.reg != w.reg)).any (fun o => o.reg == w.reg && o.tid == w.tid)

/-- Every result a thread owes, written in program order (R359); a token behind another thread's stays owed. -/
def Team.flush (tm : Team) (now tid : Nat) : Team :=
  (tm.wbs.filter (fun w => w.isOf tid)).foldl (fun (tm : Team) w => if tm.behind w then tm else tm.writeWb now w) tm

/-- Among the results a thread owes is the token of an engine operation, whose write is an acquire (R105, R120). -/
def Team.observes (tm : Team) (tid : Nat) : Bool := tm.wbs.any (fun w => w.isOf tid && w.obs && w.val.isSome)

/-- The value of an owed result arrives (R158): every register of that name gets its part. -/
def Team.answer (tm : Team) (id : Nat) (f : Nat → DWord) : Team :=
  { tm with wbs := (tm.wbs.foldl (fun (acc : List Wb × Nat) w =>
    if w.id = id && w.val.isNone then (acc.1 ++ [{ w with val := some (f acc.2) }], acc.2 + 1)
    else (acc.1 ++ [w], acc.2)) ([], 0)).1 }

/-- An owed result that will never come is no longer owed. -/
def Team.unowe (tm : Team) (id : Nat) : Team := { tm with wbs := tm.wbs.filter (fun w => w.id != id || w.val.isSome) }

/-- What an XEND owes, settled for one thread by its position, or by an abort (R270): the pair, and when the last thread of
the group is settled, the k register with the largest position. -/
def Team.settle (tm : Team) (tid : Nat) (p : Option Nat) : Team :=
  match (tm.thread tid).region.bind (fun r => r.xe) with
  | none => tm
  | some (a, b) =>
    let tm := match p with
      | none => tm.unowe a
      | some x => tm.answer a (fun i => BitVec.ofNat 64 (x / 2 ^ (32 * i) % 2 ^ 32))
    let (rest, mx) := FMap.getD tm.xends b ([], none)
    let rest := rest.filter (· != tid)
    let mx := match p, mx with
      | some x, some y => some (max x y)
      | some x, none => some x
      | none, m => m
    if rest.isEmpty then
      let tm := { tm with xends := FMap.erase tm.xends b }
      match mx with
      | none => tm.unowe b
      | some x => tm.answer b (fun _ => BitVec.ofNat 64 x)
    else { tm with xends := FMap.set tm.xends b (rest, mx) }

-- Fetching.

/-- Why a fetch gives no code: its translation fails, for want of permission or not, or a grant of its page is missing (R98). -/
inductive FetchErr where
  | bad (perm : Bool)
  | wait (pa : Nat)
  deriving DecidableEq, Repr

/-- The halfword of code at an address (R142, R145), as its home holds it now: of code written after the placement R142 allows any mix of old
and new words, and the model takes the present ones (log 56). A page without a route reads zeros (R387). A data error in the code, or in the page
tables, raises nothing here (log 68). -/
def State.fetchHalf (s : State) (x : Xlat) (va : DWord) : Except FetchErr (BitVec 16) :=
  match s.xlate x true va .fetch with
  | .error e => .error (.bad e)
  | .ok e =>
    let pa := paOf e va
    if s.needsGrant (some e) pa false then .error (.wait pa)
    else .ok (if s.foreign pa && !s.routed pa then 0 else BitVec.ofNat 16 (s.mem.num pa 2))

/-- The code word at an address, 16 bits when its bit 0 is 0 (R143); a failure names the address. -/
def State.fetchWord (s : State) (x : Xlat) (va : DWord) : Except (FetchErr × DWord) (BitVec 32) :=
  match s.fetchHalf x va with
  | .error e => .error (e, va)
  | .ok h =>
    if !h.getLsbD 0 then .ok (h.setWidth 32)
    else
      match s.fetchHalf x (va + 2) with
      | .error e => .error (e, va + 2)
      | .ok h2 => .ok (h2 ++ h)

/-- A word is a run header's by its length bit and major (R144, R152). -/
def isHeader (w : BitVec 32) : Bool := w.toNat % 128 == 1

/-- A run header stands at an address. -/
def State.headerAt (s : State) (x : Xlat) (va : DWord) : Bool :=
  !va.getLsbD 0 && (match s.fetchWord x va with | .ok w => isHeader w | .error _ => false)

/-- The page of a team's trap handler that a trap entry needs and that is not granted yet (R98, R361). -/
def State.handlerWait (s : State) (tm : Team) : Option Nat :=
  let tvec := tm.eff.sr.tvec
  if !tvec.getLsbD 0 then none
  else match s.fetchWord tm.xlat (tvec &&& ~~~ 1) with
    | .error (.wait pa, _) => some pa
    | _ => none

-- Regions.

/-- The number of a thread's region at the slices. -/
def regionNum (t tid : Nat) : Nat := t * 1024 + tid

/-- A granule's record without a region. -/
def Gran.drop (g : Gran) (r : Nat) : Gran :=
  { g with writer := if g.writer = some r then none else g.writer, readers := g.readers.filter (· != r),
           recs := FMap.erase g.recs r, wrote := g.wrote.filter (· != r), sealed := if g.sealed = some r then none else g.sealed }

/-- The state with a thread's region gone from every slice and on no wire; a load still asked for answers a free value
(log 20). -/
def State.dropRegion (s : State) (t tid : Nat) : State :=
  let r := regionNum t tid
  let gone := (s.units.greqs.filter (fun q => q.region == r)).flatMap (fun q => q.wbs)
  let u := { s.units with
    gran := s.units.gran.map (fun e => (e.1, e.2.drop r)),
    greqs := s.units.greqs.filter (fun q => q.region != r),
    nmsgs := s.units.nmsgs.filter (fun m => m.region != r) }
  let s := { s with units := u }
  s.updTeam t (fun tm =>
    let tm := tm.settle tid none
    { (tm.updThread tid (fun th => { th with region := none })) with
    wbs := tm.wbs.map (fun w => if gone.contains w.id && w.val.isNone then
      { w with val := some ((Config.freeWord s.freeCtr w.id).setWidth 64) } else w) })

/-- Physical address in this package of a package-local one. -/
def State.local (s : State) (p : Nat) : Nat := s.links.pkg * 2 ^ 44 + p

/-- An acquire by a core: cached S words it does not own go, dirty bytes stay (R94). -/
def State.acquire (s : State) (core : Nat) : State :=
  let own (line o : Nat) : Bool := FMap.get? s.units.owner ((line * 128 + o) / 4) == some core
  s.updCore core (fun c => { c with lines := c.lines.map (fun l =>
    if l.2.coh = 0 && !l.2.nc then (l.1, { l.2 with cells := l.2.cells.filter (fun x => x.2.2 || own l.1 x.1) }) else l) })

/-- A die appends an entry to its interrupt ring, or counts it as lost (R383); the data error in the half-line that the entry is merged into, if
there is one, is answered with its physical address (R388). -/
def State.ringEntry (s : State) (d kind vector ctx setid : Nat) : State × Option (Nat × Nat) :=
  let di := s.die d
  if (di.irqWp - di.irqRp).toNat = 2 ^ di.irqLog then
    (s.updDie d (fun di => { di with irqLost := if di.irqLost = 0xFFFFFFFF then di.irqLost else di.irqLost + 1 }), none)
  else
    let a := s.local (di.irqBase.toNat + 16 * (di.irqWp.toNat % 2 ^ di.irqLog))
    let m := (s.mem.storeNum a 8 (kind + vector * 2 ^ 8 + ctx * 2 ^ 16 + setid * 2 ^ 32)).storeNum (a + 8) 8 s.timeNs
    let s' := { s with mem := m, links := { s.links with poison := FMap.erase s.links.poison (a / 64) } }.updDie d (fun di => { di with irqWp := di.irqWp + 1 })
    (s', (FMap.get? s.links.poison (a / 64)).map (fun str => (str, a)))

/-- A machine-check report: up to 64 are held, further ones are counted (R382), up to 65,535 (log 69). -/
def Mmio.report (m : Mmio) (str ctx pa : Nat) : Mmio :=
  if m.mcr.length < 64 then { m with mcr := m.mcr ++ [(str, ctx, pa / 4096 * 4096)] } else { m with mcrLost := min (m.mcrLost + 1) 65535 }

/-- An interrupt entry (R383). A data error under the entry is reported by a further entry, in context 0, for the device writes its rings for no
context (R388; log 10); the ring's half-lines have new codes then. -/
def State.interrupt (s : State) (d kind vector ctx setid : Nat) : State :=
  match s.ringEntry d kind vector ctx setid with
  | (s, none) => s
  | (s, some (str, pa)) => ({ s with mmio := s.mmio.report str 0 pa }.ringEntry d 2 0 0 0).1

/-- A machine check that no thread takes: the report and the interrupt (R364, R382, R383). -/
def State.contextMc (s : State) (d str ctx pa : Nat) : State := { s with mmio := s.mmio.report str ctx pa }.interrupt d 2 0 ctx 0

/-- A data error noted on an operation: the first one is reported (R235). -/
def Op.hit (o : Op) (b : Nat × DWord × Nat) : Op :=
  if o.bad.isSome then o else { o with bad := some (b.1, b.2.1), badPa := b.2.2 }

/-- New codes for the half-lines that a write touches (R388): the old code of one that it writes in part is checked first, and a mismatch is reported: to
the engine operation that writes, which has status data, else to the context, as no instruction reads it (R364). -/
def State.recode (s : State) (ctx pa n : Nat) (op : Nat := 0) : State :=
  (List.range ((pa + n - 1) / 64 + 1 - pa / 64)).foldl (fun (s : State) i =>
    let h := pa / 64 + i
    match FMap.get? s.links.poison h with
    | none => s
    | some str =>
      let whole := decide (pa ≤ h * 64) && decide (h * 64 + 64 ≤ pa + n)
      let s := { s with links := { s.links with poison := FMap.erase s.links.poison h } }
      if whole then s
      else match FMap.get? s.ops op with
        | some o => { s with ops := FMap.set s.ops op (o.hit (str, 0, h * 64)) }
        | none => s.contextMc (homeDie pa) str ctx (h * 64)) s

/-- A line access without a route raises a machine-check interrupt in its context (R387). -/
def State.noRoute (s : State) (die ctx pa : Nat) : State := if s.foreign pa && !s.routed pa then s.contextMc die 0 ctx pa else s

/-- Code fetched from a page without a route raises the machine-check interrupt of its context (R387). -/
def State.routeCode (s : State) (tm : Team) (va : DWord) : State :=
  match s.pte? tm.xlat va with
  | some e => s.noRoute tm.dieOf tm.ctx (paOf e va)
  | none => s

/-- A read that no thread makes: each data error in its half-lines is a machine check of the context (R364, R388). -/
def State.readCheck (s : State) (die ctx pa n : Nat) : State :=
  (s.links.poison.filter (fun e => decide (pa / 64 ≤ e.1) && decide (e.1 * 64 < pa + n))).foldl (fun (s : State) e =>
    s.contextMc die e.2 ctx (e.1 * 64)) s

/-- The save area's physical address (R367). -/
def State.areaPa (s : State) (tm : Team) : Nat := s.local ((s.die tm.dieOf).svpa.toNat + tm.area * 2 ^ 20)
def State.areaVa (s : State) (tm : Team) : DWord := (s.die tm.dieOf).svva + BitVec.ofNat 64 (tm.area * 2 ^ 20)

/-- Words written into a team's save area, by offset, length and value, each half-line with its new code (R367, R388). -/
def State.putArea (s : State) (tm : Team) (l : List (Nat × Nat × Nat)) : State :=
  l.foldl (fun (s : State) w =>
    let a := s.areaPa tm + w.1
    { s with mem := s.mem.storeNum a w.2.1 w.2.2 }.recode tm.ctx a w.2.1) s

/-- A thread's block holds its resume record: it was sent to the yield handler, or it has yet to return by ERET while its team is
parked (R363, R368, R370). -/
def Thread.kept (th : Thread) (kind : Nat) : Bool := th.sent || (th.rr && kind == 0)

/-- What an event has done to the region state of a thread whose team lies in its save area is done there too, so that the team comes back
with it (R272, R275, R279, R370): the bounds and the cause word, and for an abort the cause register, and the place of the thread unless the block
holds its resume record. -/
def State.imageRegion (s : State) (t tid : Nat) (abort : Option Nat) (word : Bool := true) : State :=
  match s.team? t with
  | none => s
  | some tm =>
    if tm.stored = 0 then s
    else
      let th := tm.thread tid
      let b := 0x1000 + 128 * tid
      s.putArea tm ([(b + 0x3C, 4, th.rcause.toNat), (b + 0x40, 8, th.xlo.toNat), (b + 0x48, 8, th.xhi.toNat)] ++
        (match abort with
          | none => []
          | some v =>
            (if word then [(0x21000 + ((tid / 32 * tm.tr.regs + v) * 32 + tid % 32) * 4, 4, (FMap.getD th.v v 0).toNat)] else []) ++
            (if th.kept (tm.stored - 1) then []
              else [(b, 8, th.pc.toNat), (b + 8, 4, setBits (s.mem.num (s.areaPa tm + b + 8) 4) 0 8 0)])))

/-- The acquire that writing a thread's tokens makes (R105, R120): a team whose state is in its area acquires when it is back. -/
def State.observed (s : State) (t tid : Nat) : State :=
  match s.team? t with
  | none => s
  | some tm => if tm.stored = 0 && tm.observes tid then s.acquire tm.core else s

/-- A word written into a v register at once, or, behind results that are owed to it, in their order, as one owed result more (R158). -/
def Team.putWord (tm : Team) (id tid v : Nat) (x : Word) : Team :=
  if tm.pending tid (.v v) then { tm with wbs := tm.wbs ++ [{ id, tid := some tid, owner := tid, reg := .v v, val := some (x.setWidth 64) }] }
  else tm.updThread tid (fun th => th.setReg (.v v) (x.setWidth 64))

/-- An abort of a thread's region (R277): held bytes dropped, slices cleared, the cause word in the cause register after the results still owed to it
(R158), the thread at the handler address. -/
def State.abortRegion (s : State) (t tid cause n : Nat) : State :=
  match (s.team? t).bind (fun tm => (tm.thread tid).region) with
  | none => s
  | some r =>
    let word : BitVec 32 := BitVec.ofNat 32 (cause % 256 + (n % 128) * 256)
    let s := s.dropRegion t tid
    let s := s.observed t tid
    let settled (tm : Team) : Team :=
      if tm.stored = 0 then tm.flush s.clock tid
      else { tm with wbs := tm.wbs.filter (fun w => !(w.tid == some tid && w.reg == .v r.creg && w.val.isSome)) }
    let (id, s) := s.newId
    let s := s.updTeam t (fun tm => ((settled tm |>.leave tid).putWord id tid r.creg word).updThread tid (fun th =>
      ({ th with rcause := word, due := s.clock + 1 }).goto r.handler))
    s.imageRegion t tid (some r.creg) (!(s.team? t).any (fun tm => tm.wbs.any (fun w => w.id == id)))

/-- The regions of a team that are not past choosing their position go (R275, R279). -/
def State.dropRegions (s : State) (t : Nat) : State :=
  match s.team? t with
  | none => s
  | some tm => (List.range tm.threads.length).foldl (fun s tid =>
      if (tm.thread tid).region.any (fun r => r.stage != 2) then s.dropRegion t tid else s) s

/-- A region is doomed (R273); one that has chosen its position is not (R275). -/
def Thread.doomed (th : Thread) : Bool := th.region.any (fun r => r.stage != 2) && decide (th.xhi.toNat < th.xlo.toNat)

-- Traps.

/-- The machine checks that threads have still to take go to the context, as they have no thread to take them any more (R364). -/
def State.orphanChecks (s : State) (t : Nat) (tids : List Nat) : State :=
  match s.team? t with
  | none => s
  | some tm =>
    let s := (tids.flatMap (fun tid => (tm.thread tid).mcheck)).foldl (fun (s : State) m => s.contextMc tm.dieOf m.1 tm.ctx m.2.2) s
    s.updTeam t (fun tm => tids.foldl (fun tm tid => tm.updThread tid (fun th => { th with mcheck := [] })) tm)

/-- An FGET. -/
def Later.isGet (l : Later) : Bool := match l.instr with
  | .fget _ _ _ _ => true
  | _ => false

/-- The FGETs of a team that is discarded, or that is to retire by a fault, go unanswered (R229), so that the operations which it has issued behind
them complete (R141). -/
def State.dropFutures (s : State) (t : Nat) : State :=
  let defer := (s.units.defer.map (fun d => (d.1, d.2.filter (fun e => e.1 != t)))).filter (fun d => !d.2.isEmpty)
  ({ s with units := { s.units with defer } } : State).updTeam t (fun (tm : Team) =>
    let gets := (tm.laters.filter Later.isGet).map (fun l => l.id)
    { tm with laters := tm.laters.filter (fun l => !l.isGet), wbs := tm.wbs.filter (fun w => !(w.acq && w.val.isNone) && !gets.contains w.id) })

/-- A team fault (R361): every thread stops issuing; the team retires under R38. -/
def State.teamFault (s : State) (t : Nat) : State :=
  match s.team? t with
  | none => s
  | some tm =>
    let s := ((s.dropRegions t).orphanChecks t (List.range tm.threads.length)).dropFutures t
    s.updTeam t (fun tm =>
      let ths := tm.threads.map (fun th => { th with exited := true, held := false })
      { tm with life := .faulted, groups := [], threads := ths })

/-- Copies of the trap record's values on entry (R360, R362). -/
def Team.deliver (tm : Team) (tid : Nat) (epc : DWord) (ecause : BitVec 32) (eva : DWord) : Team :=
  let d := tm.eff.sr.tdel.toNat
  let pe := bits d 6 0
  let ce := bits d 14 8
  let ve := bits d 22 16
  let pair (tm : Team) (n : Nat) (x : DWord) : Team :=
    if n + 1 < tm.tr.regs then (tm.setReg tid (.v n) (x &&& 0xFFFFFFFF)).setReg tid (.v (n + 1)) (x >>> 32) else tm
  if !bit d 7 then tm
  else
    let tm := pair tm pe epc
    let tm := if ce < tm.tr.regs then tm.setReg tid (.v ce) (ecause.setWidth 64) else tm
    pair tm ve eva

/-- Taking a precise trap by one thread (R359-R361): the results it owes are written; inside a region the trap is an abort
(R277); with hm set, no handler, or a handler that is not a run header it is a team fault; else the trap record is written,
hm set and the thread sent to sr.tvec.va. The spec does not say whether the age of a thread that traps starts again: it goes on (log 16). A data
error that an instruction other than XLD and XST meets inside a region aborts it with cause data too, R277's code for a trap of cause 10 (log
21). -/
def State.enterTrap (s : State) (t tid : Nat) (tr : Trap) (epc : DWord) (mid : Option Mid) : State :=
  match s.team? t with
  | none => s
  | some tm =>
    let th := tm.thread tid
    if th.region.isSome && tr.cause != 10 then s.abortRegion t tid 4 0
    else
      -- a machine check inside a region aborts it with cause data and is then raised at the handler (R277)
      let inRegion := th.region.isSome
      let handler := (th.region.map (fun r => r.handler)).getD 0
      let s := if inRegion then s.abortRegion t tid 9 0 else s
      let epc := if inRegion then handler else epc
      let mid := if inRegion then none else mid
      let tvec := tm.eff.sr.tvec
      let va := tvec &&& ~~~ 1
      if th.hm || !tvec.getLsbD 0 then s.teamFault t
      else if !s.headerAt tm.xlat va then (s.routeCode tm va).teamFault t
      else
        let ecause : BitVec 32 := BitVec.ofNat 32 (tr.cause + tr.info * 256 + b2n mid.isSome * 2 ^ 31)
        (s.observed t tid).updTeam t (fun tm =>
          ((tm.flush s.clock tid).leave tid |>.updThread tid (fun th => { (th.trapped va epc ecause tr.eva mid) with due := s.clock + 1 })).deliver tid epc ecause tr.eva)

/-- The mid-run record of a thread at a body index (R360): t0-t7 and L as they stand. -/
def midOf (th : Thread) (tid : Nat) (g : Group) (off : Nat) : Mid :=
  ⟨g.hdr, off, (List.range 8).map (fun n => (th.reg tid (.t n)).setWidth 32), (th.reg tid (.t 8)).setWidth 32⟩

/-- A wait: the group does not issue again in this clock (R42). -/
def State.hold (s : State) (t g : Nat) : State := s.updGroup t g (fun g => { g with held := true })

/-- An instruction of a group has issued: it takes one of the clock's two issues (R17) and counts as issued for the team (R349). -/
def State.issued (s : State) (t : Nat) : State :=
  { s with cursor := s.cursor + 1 }.updTeam t (fun tm => { tm with ret := min (tm.ret + 1) (2 ^ 32 - 1) })

/-- The wait of threads of a group that are to trap: while one of them is owed a result, or the handler's page is not granted (R98, R359). -/
def State.trapWait (s : State) (t gid : Nat) (tm : Team) (tids : List Nat) : Option State :=
  if tids.any tm.owes then some (s.hold t gid)
  else (s.handlerWait tm).map (fun pa => (s.askGrant pa false).hold t gid)

/-- The traps of some threads of a group at its present instruction, `skip` 1 when the record names the next one (R196, R360). -/
def State.trapEach (s : State) (t gid : Nat) (skip : Nat) (l : List (Nat × Trap)) : State :=
  match s.team? t with
  | none => s
  | some tm =>
    match FMap.get? tm.groups gid with
    | none => s
    | some g => l.foldl (fun s x =>
        s.enterTrap t x.1 x.2 g.addr (some (midOf ((tm.flush s.clock x.1).thread x.1) x.1 g (g.idx + skip)))) s

/-- Precise traps of some threads of a group at its present instruction, which has issued, once nothing holds them. -/
def State.trapThreads (s : State) (t gid : Nat) (skip : Nat) (l : List (Nat × Trap)) : State :=
  match s.team? t with
  | none => s
  | some tm =>
    match s.trapWait t gid tm (l.map Prod.fst) with
    | some s' => s'
    | none => (s.issued t).trapEach t gid skip l

/-- The same precise trap for every thread of a group (R192). -/
def State.trapAll (s : State) (t gid : Nat) (g : Group) (tr : Trap) : State :=
  s.trapThreads t gid 0 (g.tids.map (fun tid => (tid, tr)))

-- Advancing.

/-- The end of a run (R20, R157, R159): every thread goes on at its next address; a result that falls short and that
`named` does not hold is a stall-check trap in a checked run, else leaves the reader of a later run any value R157 allows. No thread
goes on before the clock of the run end (R21, R155). -/
def State.endRun (s : State) (t gid : Nat) (named : List Reg) : State :=
  match s.team? t with
  | none => s
  | some tm =>
    match FMap.get? tm.groups gid with
    | none => s
    | some g =>
      let short := g.log.filter (fun e => e.short g.dist && !named.contains e.reg)
      let stay := g.tids.filter (fun tid => !(tm.thread tid).exited)
      if g.chk && !short.isEmpty && !stay.isEmpty then
        match s.trapWait t gid tm stay with
        | some s' => s'
        | none =>
          let s := stay.foldl (fun s tid => s.enterTrap t tid { cause := 7 } (bodyAddr g.hdr g.body (g.idx - 1))
            (some (midOf ((tm.flush s.clock tid).thread tid) tid g g.body.length))) s
          s.updTeam t (fun tm => g.tids.foldl Team.leave tm)
      else
        let soft (team : Bool) (tid : Nat) : List (Reg × List DWord) :=
          short.filterMap (fun e => if e.reg.ofTeam == team && (FMap.get? e.old (logKey tid e.reg)).isSome
            then some (e.reg, (candidates tm g tid e.reg).dropLast) else none)
        s.updTeam t (fun tm =>
          { (g.tids.foldl (fun tm tid => tm.updThread tid (fun th => th.goOn g.due (soft false tid))) tm) with
            groups := FMap.erase tm.groups gid, soft := soft true 0 ++ tm.soft.filter (fun e => !g.log.any (fun l => l.reg == e.1)) })

/-- The group moves past its present instruction: the gap adds to the distance (R155), the issue slot is used (R17), the
instruction counts as retired (R349); after the last instruction of a run without a trailer the run ends. -/
def State.advance (s : State) (t gid gap : Nat) : State :=
  let s := { s with cursor := s.cursor + 1, freeCtr := s.freeCtr + 1 }
  match s.team? t with
  | none => s
  | some tm =>
    match FMap.get? tm.groups gid with
    | none => s
    | some g =>
      let g' := { g with idx := g.idx + 1, dist := g.dist + gap, due := s.clock + gap }
      let s := s.updTeam t (fun tm =>
        { (g.tids.foldl (fun tm tid => tm.updThread tid Thread.worked) tm) with
          groups := FMap.set tm.groups gid g', ret := min (tm.ret + 1) (2 ^ 32 - 1) })
      if g'.idx = g.body.length && g.trl.isNone then s.endRun t gid [] else s

/-- The gap of an instruction with a stall field (R155). -/
def gapOf (st : BitVec 2) : Nat := 1 + st.toNat

/-- What the team's other groups may still read of its registers that one of its groups writes (R157): `old` is the team before. A reader of theirs for
which an earlier write of its own run falls short, or a run end has, may get what the register held before. -/
def Team.others (tm : Team) (gid : Nat) (ws : List (Nat × Reg × DWord)) (old : Team) : Team :=
  let rs := (ws.map (fun w => w.2.1)).filter Reg.ofTeam
  { tm with
    soft := (old.soft.filter (fun e => rs.contains e.1)).map (fun e => (e.1, e.2 ++ [old.reg 0 e.1])) ++ tm.soft
    groups := tm.groups.map (fun (e : Nat × Group) => (e.1, if e.1 = gid then e.2 else rs.foldl (fun (g : Group) r => g.note 0 r (old.reg 0 r)) e.2)) }

/-- The state with registers written by the present instruction, each with its latency: old values go to the group's log
so that short readers get what R157 allows, behind what a run end before has left. Writes of L keep no log (R158). -/
def State.writeRegs (s : State) (t gid lat : Nat) (ws : List (Nat × Reg × DWord)) : State :=
  match s.team? t with
  | none => s
  | some tm =>
    match FMap.get? tm.groups gid with
    | none => s
    | some g =>
      let logged := ws.filter (fun w => w.2.1 != .t 8)
      let regs := logged.foldl (fun acc w => if acc.contains w.2.1 then acc else acc ++ [w.2.1]) ([] : List Reg)
      let left := logged.flatMap (fun w => if g.log.any (fun e => e.reg == w.2.1 && (FMap.get? e.old (logKey w.1 w.2.1)).isSome) then [] else
        (tm.softVals w.1 w.2.1).map (fun x => (⟨w.2.1, g.dist, lat, [(logKey w.1 w.2.1, x)]⟩ : LogE)))
      let es := regs.map (fun r => (⟨r, g.dist, lat,
        (logged.filter (fun w => w.2.1 == r)).foldl (fun m w => FMap.set m (logKey w.1 r) (tm.reg w.1 r)) []⟩ : LogE))
      s.updTeam t (fun now =>
        ((ws.foldl (fun tm w => tm.setReg w.1 w.2.1 w.2.2) now).others gid ws tm).updGroup gid (fun g => { g with log := g.log ++ (left ++ es) }))

/-- The instruction that issues: team, group and their names. -/
structure Iss where
  t : Nat
  tm : Team
  gid : Nat
  g : Group
  deriving Repr

/-- The team and group that issue now. -/
def State.iss (s : State) : Option Iss :=
  match s.cur with
  | none => none
  | some (t, gid) =>
    match s.team? t with
    | none => none
    | some tm => (FMap.get? tm.groups gid).map (fun g => ⟨t, tm, gid, g⟩)

/-- Registers beyond the declaration or L without a result: the instruction is illegal (R151, R160). -/
def Iss.illegal (c : Iss) (u : Use) : Bool := decide (c.tm.tr.regs < u.top) || (u.l && !lValid c.g.body c.g.idx)

/-- A checked run's read at a distance shorter than the latency (R159). -/
def Iss.shortRead (c : Iss) (u : Use) : Bool :=
  c.g.chk && u.rd.any (fun r => c.g.log.any (fun e => e.reg == r && e.short c.g.dist))

/-- A register the instruction reads or writes has a result outstanding (R158). -/
def Iss.waits (c : Iss) (u : Use) : Bool :=
  c.g.tids.any (fun tid => u.rd.any (c.tm.pending tid) || u.wr.any (c.tm.pending tid))

/-- A thread has reached a cross-thread instruction and its execution has not taken place. -/
def Thread.arrived (th : Thread) (a : DWord) : Option Arrival := th.arrivals.find? (fun r => r.addr == a)

/-- A thread waits at the instruction at an address: it has arrived there, or holds its result (R193). -/
def Thread.stays (th : Thread) (a : DWord) : Bool := th.xres.isSome || (th.arrived a).any (fun r => !r.left)

/-- The machine check of a thread that reads a v register with a data error (R364). One that waits at a cross-thread instruction has read its
registers, and no trap ends the wait (R193). -/
def Iss.unsound (c : Iss) (u : Use) (tid : Nat) : Option Trap :=
  if (c.tm.thread tid).stays c.g.addr then none
  else if u.rd.any (fun r => match r with
    | .v n => (c.tm.thread tid).bad.contains n
    | _ => false) then some { cause := 10, info := 2 } else none

/-- The lowest thread index of the group. -/
def Iss.low (c : Iss) : Nat := c.g.tids.foldl min (c.g.tids.headD 0)

/-- The threads of a group that trap leave; the others execute in the same issue (R227), which is used even when none is left (R17). -/
def State.splitTraps (s : State) (c : Iss) (f : Nat → Option Trap) (k : State → Iss → State) : State :=
  let bad := c.g.tids.filterMap (fun tid => (f tid).map (fun tr => (tid, tr)))
  if bad.isEmpty then k s c
  else
    match s.trapWait c.t c.gid c.tm (bad.map Prod.fst) with
    | some s' => s'
    | none =>
      let s' := s.trapEach c.t c.gid 0 bad
      match s'.iss with
      | none => s'.issued c.t
      | some c' => k s' c'

/-- Acquires of some threads that have not taken effect, by their owed results (R393). -/
def Team.acquires (tm : Team) (tids : List Nat) : List Nat :=
  (tm.wbs.filter (fun w => w.acq && w.val.isNone && tids.contains w.owner)).map (fun w => w.id)

/-- A held access is one of some threads. -/
def Later.isOf (l : Later) (tids : List Nat) : Bool := l.threads.any (fun x => tids.contains x.1)

/-- Before the place `id` of some threads' program order an acquire has not taken effect, or an access held by one has not been made (R393). -/
def Team.earlier (tm : Team) (tids : List Nat) (id : Nat) : Bool :=
  (tm.acquires tids).any (fun w => decide (w < id)) || tm.laters.any (fun l => l.isOf tids && decide (l.id < id))

/-- An earlier acquire of a thread has not taken effect, or an access that it holds has not been made (R393). -/
def Team.acquiring (tm : Team) (tids : List Nat) : Bool := !(tm.acquires tids).isEmpty || tm.laters.any (fun l => l.isOf tids)

/-- The same of the threads of the group. -/
def Iss.acquiring (c : Iss) : Bool := c.tm.acquiring c.g.tids

/-- The checks before an instruction executes, in order: illegal operands, the stall check of a checked run, the wait on
the scoreboard, data errors in the registers it reads; then the instruction's own effect, which may be a privilege, alignment, translation or
machine-check trap. The spec does not order the stall check (R159) among the traps: it comes next after ILLEGAL (log 14). With no group issuing,
nothing executes. Of a uniform instruction (`whole`) the lowest thread's register is read, and every thread takes its trap (R192). -/
def State.gateAs (s : State) (u : Use) (whole : Bool) (k : State → Iss → State) : State :=
  match s.iss with
  | none => s
  | some c =>
    if c.illegal u then s.trapAll c.t c.gid c.g .illegal
    else if c.shortRead u then s.trapAll c.t c.gid c.g { cause := 7 }
    else if c.waits u then s.hold c.t c.gid
    else if whole then
      match c.unsound u c.low with
      | some tr => s.trapAll c.t c.gid c.g tr
      | none => k s c
    else s.splitTraps c (c.unsound u) k

/-- The gate of an instruction that executes in each thread: those that read a data error trap, the others go on (R364). -/
def State.gate (s : State) (u : Use) (k : State → Iss → State) : State := s.gateAs u false k

/-- A thread's region is between its XEND and its close (R275; log 45). -/
def Iss.closing (c : Iss) : Bool := c.g.tids.any (fun tid => (c.tm.thread tid).region.any (fun r => r.stage != 0))

/-- The gate of an instruction that acts on the thread's place in regions or waits: it waits for a closing region (log 45). -/
def State.gateFree (s : State) (u : Use) (k : State → Iss → State) : State :=
  s.gate u (fun s c => if c.closing then s.hold c.t c.gid else k s c)

/-- The threads of the group with an open region abort it with cause forbidden (R278); whether any did. -/
def State.forbid (s : State) (c : Iss) : Option State :=
  let l := c.g.tids.filter (fun tid => (c.tm.thread tid).region.isSome)
  if l.isEmpty then none else some (l.foldl (fun s tid => s.abortRegion c.t tid 7 0) s)

/-- The threads of the group in a region abort first (R278), and the others go on in the same issue. When all of them leave, the
instruction has used its issue (R17). -/
def State.outside (s : State) (c : Iss) (k : State → Iss → State) : State :=
  match s.forbid c with
  | none => k s c
  | some s' =>
    match s'.iss with
    | none => s'.issued c.t
    | some c' => k s' c'

/-- The effect of an instruction that R278 forbids inside a region and that is no access of R101: no earlier acquire holds it (R393). -/
def State.forbiddenFree (s : State) (u : Use) (k : State → Iss → State) : State := s.gateFree u (fun s c => s.outside c k)

/-- A 32-bit operand of a thread (R150). -/
def Iss.src (c : Iss) (s : State) (tid : Nat) (code : Nat) : Word :=
  if code = 122 then BitVec.ofNat 32 tid
  else match codeReg code with
    | none => 0
    | some r => (readReg s c.tm c.g tid r).setWidth 32

/-- A 64-bit operand of a thread: a pair, zero, or the thread index (R150). -/
def Iss.src64 (c : Iss) (s : State) (tid : Nat) (code : Nat) : DWord :=
  if code = 122 then BitVec.ofNat 64 tid
  else if code ≤ 119 then (c.src s tid (code + 1)).setWidth 64 <<< 32 ||| (c.src s tid code).setWidth 64
  else 0

/-- A predicate of a thread; p7 is 1 (R8). -/
def Iss.pred (c : Iss) (s : State) (tid : Nat) (n : Nat) : Bool :=
  if n = 7 then true else (readReg s c.tm c.g tid (.p n)) != 0

/-- A k register as the group's uniform execution reads it. -/
def Iss.k (c : Iss) (s : State) (n : Nat) : DWord := readReg s c.tm c.g 0 (.k n)

/-- kf as the group reads it (R199). -/
def Iss.kf (c : Iss) (s : State) : Nat := (readReg s c.tm c.g 0 .kf).toNat % 16

/-- Register writes of a 32-bit result: d, and L (R150, R191). -/
def dstWrites (tid code : Nat) (x : Word) : List (Nat × Reg × DWord) :=
  (if code < 120 then (codeReg code).toList.map (fun r => (tid, r, x.setWidth 64)) else []) ++
    [(tid, .t 8, x.setWidth 64)]

/-- Register writes of a 64-bit result: the pair, and L with the low half (R160). -/
def dstWrites64 (tid code : Nat) (x : DWord) : List (Nat × Reg × DWord) :=
  (if code < 120 then
    (codeReg code).toList.map (fun r => (tid, r, x &&& 0xFFFFFFFF)) ++
    (codeReg (code + 1)).toList.map (fun r => (tid, r, x >>> 32)) else []) ++
    [(tid, .t 8, x &&& 0xFFFFFFFF)]

end Sys2Proof.Machine
end

