-- ==== Sys2Proof/Machine/Device.lean ====
section
/-!
DEFINITION. The structures that are not memory: the on-chip window region (R78-R80, R306, R314), the MMIO registers
(R373, R382-R386), and what writing those registers does: context loads (R375), weights (R326), pre-emption requests
(R348, R349), interrupt rings (R383).
-/

namespace Sys2Proof.Machine

-- System registers.

/-- A system register's value by its number (R372). -/
def SysRegs.read (r : SysRegs) (ord n : Nat) : DWord :=
  match n with
  | 0 => r.tvec
  | 1 => r.tdel.setWidth 64
  | 2 => r.fmode.setWidth 64
  | 3 => r.check.setWidth 64
  | 4 => r.promote.setWidth 64
  | 5 => r.cpymode.setWidth 64
  | 6 => r.shadow
  | 7 => BitVec.ofNat 64 ord
  | 8 => r.crumb
  | 9 => r.crumbc
  | n => if n < 0x20 then FMap.getD r.ncb (n - 0x10) 0 else FMap.getD r.ncl (n - 0x20) 0

/-- A field written unless the written value is outside its limits. -/
def keepIf (ok : Bool) (old l n x : Nat) : Nat := if ok then setBits old l n (bits x (l + n - 1) l) else old

/-- sr.tdel after a write (R362). -/
def writeTdel (old x : Nat) : Nat :=
  let pairOk (c : Nat) : Bool := c % 2 == 0 && decide (c ≤ 110)
  let r := keepIf (pairOk (bits x 6 0)) old 0 7 x
  let r := setBits r 7 1 (bits x 7 7)
  let r := keepIf (decide (bits x 14 8 ≤ 111)) r 8 7 x
  keepIf (pairOk (bits x 22 16)) r 16 7 x

/-- A write of a system register under its map's rules (R54, R70, R86, R95, R159, R238, R362, R365, R372). -/
def SysRegs.write (r : SysRegs) (n : Nat) (v : DWord) : SysRegs :=
  let x := v.toNat
  let page : DWord := v &&& ~~~ 0xFFF
  match n with
  | 0 => { r with tvec := v }
  | 1 => { r with tdel := BitVec.ofNat 32 (writeTdel r.tdel.toNat x) }
  | 2 => { r with fmode := BitVec.ofNat 32 (x % 256) }
  | 3 => { r with check := BitVec.ofNat 32 (x % 2) }
  | 4 => { r with promote := BitVec.ofNat 32 (keepIf (decide (1 ≤ bits x 6 0) && decide (bits x 6 0 ≤ 64)) r.promote.toNat 0 7 x) }
  | 5 => { r with cpymode := BitVec.ofNat 32 (keepIf (bits x 3 1 != 7) (setBits r.cpymode.toNat 0 1 (x % 2)) 1 3 x) }
  | 6 => { r with shadow := page }
  | 7 => r
  | 8 => { r with crumb := v &&& ~~~ 0x3E }
  | 9 =>
    let lo := keepIf (decide (4 ≤ bits x 4 0) && decide (bits x 4 0 ≤ 20)) r.crumbc.toNat 0 5 x
    { r with crumbc := BitVec.ofNat 64 (setBits lo 32 32 (x / 2 ^ 32)) }
  | n =>
    if n < 0x20 then { r with ncb := FMap.set r.ncb (n - 0x10) (v &&& ~~~ 0xFFE) }
    else { r with ncl := FMap.set r.ncl (n - 0x20) page }

/-- Every die loads a context from its record (R375). A data error in the record is a machine check of the context (R364), reported once, on die 0: the
spec does not say by which die. -/
def State.loadCtx (s : State) (n : Nat) : State :=
  let a := s.local (s.mmio.ctbase.toNat + 512 * n)
  let w (o : Nat) : DWord := BitVec.ofNat 64 (s.mem.num (a + o) 8)
  let c := s.ctx n
  let sr := [(0, 0x10), (1, 0x18), (2, 0x20), (3, 0x28), (4, 0x30), (5, 0x38), (6, 0x40), (8, 0x48), (9, 0x50)].foldl
    (fun (r : SysRegs) (e : Nat × Nat) => r.write e.1 (w e.2)) c.sr
  let sr := (List.range 16).foldl (fun (r : SysRegs) i => (r.write (0x10 + i) (w (0x100 + 8 * i))).write (0x20 + i) (w (0x180 + 8 * i))) sr
  let c' : Ctx := { c with v := (w 0).getLsbD 0, priv := (w 0).getLsbD 1, root := BitVec.ofNat 64 (bits (w 8).toNat 55 21 * 2 ^ 21), sr }
  if n < 2048 then { s with ctxs := FMap.set s.ctxs n c' }.readCheck 0 n a 512 else s

-- Window units.

/-- The teams on a core. -/
def State.teamsOn (s : State) (core : Nat) : List (Nat × Team) :=
  s.teams.filter (fun e => e.2.core == core && e.2.life != .saved)

/-- Crews of a team (R15) and the bytes of register file it reserves (R23). -/
def TeamRec.crews (r : TeamRec) : Nat := ceilDiv r.threads 32
def TeamRec.regBytes (r : TeamRec) : Nat := 32 * r.crews * r.regs * 4

/-- The thread and register that a register-file word holds (R79). -/
def regFileAt (s : State) (core off : Nat) : Option (Nat × Nat × Nat) :=
  ((s.teamsOn core).find? (fun e => e.2.active && decide (e.2.regBase ≤ off) && decide (off < e.2.regBase + e.2.tr.regBytes))).map
    (fun e =>
      let q := (off - e.2.regBase) / 4
      (e.1, q / 32 / e.2.tr.regs * 32 + q % 32, q / 32 % e.2.tr.regs))

/-- The team and page pinned in a frame (R87). -/
def frameAt (s : State) (core f : Nat) : Option (Nat × Nat) :=
  (s.teamsOn core).findSome? (fun e => (e.2.pinned.find? (fun p => p.2 == f)).map (fun p => (e.1, p.1)))

/-- A cell record as its 256 bits (R311). -/
def Cell.record (c : Cell) : Nat :=
  c.res.toNat + c.inacc.toNat * 2 ^ 32 + c.ver.toNat * 2 ^ 64 + c.bufa * 2 ^ 96 + c.bufb * 2 ^ 120 + b2n c.cur * 2 ^ 144 +
  c.state * 2 ^ 145 + c.pina * 2 ^ 148 + c.pinb * 2 ^ 152 + c.age * 2 ^ 160 + c.lastc * 2 ^ 224 + b2n c.lastv * 2 ^ 234

/-- The home die of a cell (R312). -/
def cellDie (n c : Nat) : Nat :=
  if c < n / 4 then 0 else if c < 2 * n / 4 then 1 else if c < 3 * n / 4 then 2 else 3

/-- The lines of a die's cell cache (R314): the cells of the started sets homed there, in set and cell order (log 27). -/
def cellLines (s : State) (die : Nat) : List (Nat × Nat × Cell) :=
  s.sets.flatMap (fun e => (e.2.cells.filter (fun c => cellDie e.2.n c.1 == die)).map (fun c => (e.1, c.1, c.2)))

/-- A line of a cell cache or a directory cache as a number. -/
def cellLine (s : State) (die e : Nat) : Nat :=
  match (cellLines s die)[e]? with
  | none => 0
  | some (sid, c, r) => r.record + c * 2 ^ 256 + sid * 2 ^ 280 + 2 ^ 288

def tdLine (s : State) (slice e : Nat) : Nat :=
  match (FMap.getD s.units.tdcache slice [])[e]? with
  | none => 0
  | some (tag, entry) => entry + tag * 2 ^ 64 + 2 ^ 109

/-- Which structure a window offset addresses (R78, R79): die, package core, unit, offset; none when reserved. -/
def windowAt (off : Nat) : Option (Nat × Nat × Nat × Nat) :=
  let die := bits off 39 38
  let cl := bits off 37 36
  let core := bits off 35 30
  let unit := bits off 29 26
  let o := bits off 25 0
  let size := if unit = 0 then 393216 else if unit = 1 then 524288 else if unit = 2 then 131072 else if unit = 3 then 262144
    else if unit = 8 then 2 ^ 20 else if unit = 9 then 2 ^ 22 else 0
  if size ≤ o then none
  else if unit ≤ 3 then (if core < 48 then some (die, die * 192 + cl * 48 + core, unit, o) else none)
  else if cl ≠ 0 then none
  else if unit = 8 then (if core < 32 then some (die, core, unit, o) else none)
  else if core = 0 then some (die, 0, unit, o) else none

/-- Storage of a core that no team holds: what was last written to it through the window, else a free value (log 26). -/
def State.restByte (s : State) (core unit o off : Nat) : Byte :=
  FMap.getD (s.core core).rest (unit * 2 ^ 26 + o) ((Config.freeWord s.freeCtr off).setWidth 8)

/-- A core's storage from o on is taken by a team: what stood there is gone. -/
def CoreSt.take (c : CoreSt) (unit o n : Nat) : CoreSt :=
  { c with rest := c.rest.filter (fun e => decide (e.1 < unit * 2 ^ 26 + o) || decide (unit * 2 ^ 26 + o + n ≤ e.1)) }

/-- A byte of a window unit (R79, R306, R314); storage that no team holds reads what was last written there, else a free value (log 26). -/
def State.windowByte (s : State) (off : Nat) : Byte :=
  match windowAt off with
  | none => 0
  | some (die, core, unit, o) =>
    let free : Byte := s.restByte core unit o off
    let ofWord (w : Word) : Byte := BitVec.ofNat 8 (w.toNat / 256 ^ (o % 4))
    match unit with
    | 0 =>
      match regFileAt s core o with
      | none => free
      | some (t, tid, v) => ((s.team? t).map (fun tm => if tid < tm.threads.length then ofWord (FMap.getD (tm.thread tid).v v 0) else free)).getD free
    | 1 =>
      match frameAt s core (o / 4096) with
      | none => free
      | some (t, p) => ((s.team? t).map (fun tm => FMap.getD tm.scr (p * 4096 + o % 4096) 0)).getD free
    | 2 => FMap.getD (FMap.getD (s.core core).slots (o / 8192) {}).data (o % 8192) 0
    | 3 => ofWord (FMap.getD (s.core core).acc (o / 4) 0)
    | 8 => BitVec.ofNat 8 (tdLine s (die * 32 + core) (o / 16) / 256 ^ (o % 16))
    | _ => BitVec.ofNat 8 (cellLine s die (o / 64) / 256 ^ (o % 64))

/-- A byte written to storage of a core that no team holds. -/
def State.setRest (s : State) (core unit o : Nat) (b : Byte) : State :=
  s.updCore core (fun c => { c with rest := FMap.set c.rest (unit * 2 ^ 26 + o) b })

/-- A byte written to a window unit (R79); units 8 and 9 and reserved addresses take none. -/
def State.setWindowByte (s : State) (off : Nat) (b : Byte) : State :=
  match windowAt off with
  | none => s
  | some (_, core, unit, o) =>
    let into (w : Word) : Word := BitVec.ofNat 32 (setBits w.toNat (8 * (o % 4)) 8 b.toNat)
    match unit with
    | 0 =>
      match regFileAt s core o with
      | none => s.setRest core 0 o b
      | some (t, tid, v) =>
        if ((s.team? t).map (fun tm => decide (tid < tm.threads.length))).getD false then
          s.updThread t tid (fun th => { th with v := FMap.set th.v v (into (FMap.getD th.v v 0)) })
        else s.setRest core 0 o b
    | 1 =>
      match frameAt s core (o / 4096) with
      | none => s.setRest core 1 o b
      | some (t, p) => s.updTeam t (fun tm => { tm with scr := FMap.set tm.scr (p * 4096 + o % 4096) b })
    | 2 => s.updCore core (fun c =>
        let sl := FMap.getD c.slots (o / 8192) {}
        { c with slots := FMap.set c.slots (o / 8192) { sl with data := FMap.set sl.data (o % 8192) b } })
    | 3 => s.updCore core (fun c => { c with acc := FMap.set c.acc (o / 4) (into (FMap.getD c.acc (o / 4) 0)) })
    | _ => s

-- Pre-emption requests.

/-- The bytes of a team's engine operations issued and not retired (R349). -/
def State.bout (s : State) (t : Nat) : Nat :=
  s.ops.foldl (fun n e => if e.2.team = some t then n + max e.2.nominal e.2.bytes else n) 0

/-- The outcome of a pre-emption for one team (R349): 0 drain, 1 discard, 2 save. -/
def State.outcome (s : State) (t : Nat) (tm : Team) (d : Nat) : Nat :=
  let (n, sr, sc) := match tm.launch, tm.cell with
    | some l, _ => ((FMap.get? s.launches l).map (fun e => (e.retired, e.sumRet, e.sumClk))).getD (0, 0, 0)
    | none, some (sid, _) => ((FMap.get? s.sets sid).map (fun e => (e.retired, e.sumRet, e.sumClk))).getD (0, 0, 0)
    | none, none => (0, 0, 0)
  let est := ceilDiv (sc * (sr - n * tm.ret)) (n * sr) + ceilDiv (s.bout t) 64
  if sr != 0 && decide (est ≤ d) then 0
  else if tm.tr.rst && decide (tm.ret < tm.tr.discard * 1024) then 1
  else 2

/-- A team's threads stop for a discard (R351): groups end, regions go (R279), and its FGETs go unanswered (R229). -/
def State.startDiscard (s : State) (t : Nat) : State :=
  match s.team? t with
  | none => s
  | some tm =>
    let s := ((s.dropRegions t).orphanChecks t (List.range tm.threads.length)).dropFutures t
    s.updTeam t (fun tm =>
      let ths := tm.threads.map (fun th => { th with exited := true, held := false })
      { tm with life := .discarding, groups := [], threads := ths })

/-- A pre-emption request of a die (R348, R382): ignored while busy; the outcome of every team of the context on the named
cores is fixed, and the cores are held. A team that has taken a team fault gets none and retires (log 44). -/
def State.preempt (s : State) (d : Nat) : State :=
  let di := s.die d
  if di.busy then s
  else
    let named := (List.range 192).filter (fun i => di.prqMask.getLsbD i)
    let ts := s.teams.filter (fun e => e.2.ctx == di.prqCtx.toNat && e.2.core / 192 == d && named.contains (e.2.core % 192) &&
      e.2.life != .saved)
    let s := named.foldl (fun s i => s.updCore (d * 192 + i) (fun c => { c with held := true })) s
    let s := ts.foldl (fun s e =>
      if e.2.life != .live then s
      else match s.outcome e.1 e.2 di.prqDl.toNat with
        | 0 => s
        | 1 => s.startDiscard e.1
        | _ => s.updTeam e.1 (fun tm => { tm with life := .saving })) s
    s.updDie d (fun di => { di with busy := true, goAt := s.clock, reqCtx := di.prqCtx.toNat, reqDl := di.prqDl.toNat, pend := ts.map Prod.fst })

-- Weights.

/-- The pending weights sum to 256: they are applied at the next slot of every die; else bad, which stays until 1 is written to
it, and what was applied stands (R326, log 66). -/
def State.fwApply (s : State) : State :=
  let sum := s.mmio.fw.foldl (fun n e => n + e.2) 0
  if sum = 256 then (List.range 4).foldl (fun (s : State) d => s.updDie d (fun di => { di with wNext := some s.mmio.fw })) s
  else { s with mmio := { s.mmio with bad := true } }

/-- The applied weights come into force at a die's slot (R326). -/
def State.fwTake (s : State) (d : Nat) : State :=
  match (s.die d).wNext with
  | some w => s.updDie d (fun di => { di with w, wNext := none })
  | none => s

-- Boot page.

/-- The identity and boot page as bytes (R386). -/
def State.bootByte (s : State) (o : Nat) : Byte :=
  let b := s.boot
  let of (x base : Nat) : Byte := BitVec.ofNat 8 (x / 256 ^ (o - base))
  if o < 8 then of (b.state + b.source * 16 + b.reason * 256) 0
  else if o < 0x10 then of 0x383637422D375646 8
  else if o < 0x18 then of (Config.fusedRollback.toNat + b.rollback.toNat * 2 ^ 32) 0x10
  else if o < 0x20 then 0
  else if o < 0x59 then of Config.deviceKey.toNat 0x20
  else if o < 0x60 then 0
  else if o < 0xA0 then of b.digest.toNat 0x60
  else if o < 0x100 then 0
  else if o < 0x108 then of b.rwaddr.toNat 0x100
  else if o < 0x110 then of b.rwlen.toNat 0x108
  else if o < 0x200 then 0
  else if o < 0x220 then of b.nonce.toNat 0x200
  else if o < 0x228 then 0
  else if o < 0x230 then of (b2n b.busy + 2 * b2n b.ready) 0x228
  else if o < 0x400 then 0
  else if o < 0x4E2 then of b.report.toNat 0x400
  else 0

/-- rwgo (R386): in recovery the ROM starts reading and verifying a recovery image; the source field stays that of the last failed image until
the verdict. -/
def State.rwGo (s : State) (v : DWord) : State :=
  if v.getLsbD 0 && s.boot.state == 3 then { s with boot := { s.boot with state := 4 } } else s

/-- atgo (R386): an attestation report is started unless one is being made. -/
def State.atGo (s : State) (v : DWord) : State :=
  if v.getLsbD 0 && !s.boot.busy then { s with boot := { s.boot with busy := true } } else s

-- Doorbells.

/-- The queue record's place (R377). -/
def State.queueAt (s : State) (q : Nat) : Nat := s.local (s.mmio.qtbase.toNat + 128 * q)

/-- A field of a queue record. -/
def State.qfield (s : State) (q h l : Nat) : Nat := bits (s.mem.num (s.queueAt q) 48) h l

def State.qRlogOk (s : State) (q : Nat) : Bool := decide (4 ≤ s.qfield q 68 64) && decide (s.qfield q 68 64 ≤ 16)

/-- An update of a record's field at the owner die (R378): the version rises and the other replicas are invalidated. A mismatch of the codes that it
merges into is reported to the queue's context (R388). -/
def State.qUpdate (s : State) (q l n v : Nat) : State :=
  let a := s.queueAt q
  let r := s.mem.num a 48
  let ver := (bits r 287 256 + 1) % 2 ^ 32
  let r' := setBits (setBits r l n v) 256 32 ver
  let s := s.recode (bits r 90 80) a 48
  let s := { s with mem := s.mem.storeNum a 48 r' }
  let owner := bits r 97 96
  (List.range 4).foldl (fun s d => if d = owner then s else s.updDie d (fun di => { di with replicas := FMap.erase di.replicas q })) s

/-- A doorbell write (R379). -/
def State.ring (s : State) (q wp : Nat) : State :=
  let old := s.qfield q 191 128
  let rp := s.qfield q 255 192
  if q < 1024 && s.qRlogOk q && s.qfield q 74 74 == 0 && s.qfield q 75 75 == 1 && decide (old ≤ wp) &&
      decide (wp - rp ≤ 2 ^ s.qfield q 68 64) then
    s.qUpdate q 128 64 wp
  else s

-- MMIO.

/-- The eight bytes at a multiple of 8 in the MMIO region (R373). Unlisted offsets read zero. -/
def State.mmio8 (s : State) (o : Nat) : Nat :=
  let pair (f : Nat → Nat) (i : Nat) : Nat := f i + f (i + 1) * 2 ^ 32
  if o < 0x1000 then leNat ((List.range 8).map (fun i => s.bootByte (o + i)))
  else if o = 0x20000 then s.mmio.qtbase.toNat
  else if o = 0x20008 then s.mmio.ctbase.toNat
  else if 0x100000 ≤ o && o < 0x100100 then pair (fun c => FMap.getD s.mmio.fw c 0) ((o - 0x100000) / 4)
  else if o = 0x100100 then 2 * b2n s.mmio.bad
  else if 0x200000 ≤ o && o < 0x200000 + 4 * 768 then pair (fun c => (s.core c).share.toNat) ((o - 0x200000) / 4)
  else if 0x300000 ≤ o && o < 0x300400 then
    let d := s.die ((o - 0x300000) / 256)
    match o % 256 with
    | 0x00 => d.prqCtx.toNat
    | 0x08 => bits d.prqMask.toNat 63 0
    | 0x10 => bits d.prqMask.toNat 127 64
    | 0x18 => bits d.prqMask.toNat 191 128
    | 0x20 => d.prqDl.toNat
    | 0x30 => b2n d.busy + 2 * b2n d.late
    | _ => 0
  else if o = 0x400000 then
    match s.mmio.mcr with
    | [] => 0
    | (str, ctx, pa) :: _ => str % 256 + ctx * 2 ^ 8 + pa / 4096 * 2 ^ 20
  else if o = 0x400008 then s.mmio.mcrLost * 2 ^ 32
  else if o = 0x500000 then s.mmio.tdbase.toNat
  else if 0x600000 ≤ o && o < 0x600400 then
    let d := s.die ((o - 0x600000) / 256)
    match o % 256 with
    | 0x00 => d.irqBase.toNat
    | 0x08 => d.irqLog
    | 0x10 => d.irqWp.toNat
    | 0x18 => d.irqRp.toNat
    | 0x20 => d.irqLost.toNat
    | _ => 0
  else if 0x700000 ≤ o && o < 0x700400 then
    let d := s.die ((o - 0x700000) / 256)
    match o % 256 with
    | 0x00 => d.svpa.toNat
    | 0x08 => d.svva.toNat
    | _ => 0
  else 0

/-- A share register after a write (R345). -/
def shareOf (x : Nat) : BitVec 32 := BitVec.ofNat 32 (min (bits x 4 0) 16 + min (bits x 12 8) 16 * 256)

/-- A write of the 4-byte register at an offset in MMIO. -/
def State.setMmio4 (s : State) (o x : Nat) : State :=
  if 0x100000 ≤ o && o < 0x100100 then { s with mmio := { s.mmio with fw := FMap.set s.mmio.fw ((o - 0x100000) / 4) (x % 512) } }
  else if o = 0x100100 then
    let s := if bit x 1 then { s with mmio := { s.mmio with bad := false } } else s
    if bit x 0 then s.fwApply else s
  else if 0x200000 ≤ o && o < 0x200000 + 4 * 768 then s.updCore ((o - 0x200000) / 4) (fun c => { c with share := shareOf x })
  else s

/-- A write of the 8-byte register at a multiple of 8 in MMIO: the value under its map's rules, or what writing it does
(R326, R373, R375, R379, R382, R383, R386). R373's list of registers that clear low bits does not name rwaddr: the model clears bits [11:0] of it
(log 28). -/
def State.setMmio8 (s : State) (o x : Nat) : State :=
  let clear (n : Nat) : DWord := BitVec.ofNat 64 (x / n * n)
  if o = 0x100 then { s with boot := { s.boot with rwaddr := clear 4096 } }
  else if o = 0x108 then { s with boot := { s.boot with rwlen := BitVec.ofNat 64 x } }
  else if o = 0x110 then s.rwGo (BitVec.ofNat 64 x)
  else if 0x200 ≤ o && o < 0x220 then
    { s with boot := { s.boot with nonce := BitVec.ofNat 256 (setBits s.boot.nonce.toNat (8 * (o - 0x200)) 64 x) } }
  else if o = 0x220 then s.atGo (BitVec.ofNat 64 x)
  else if 0x10000 ≤ o && o < 0x12000 then s.ring ((o - 0x10000) / 8) x
  else if o = 0x20000 then { s with mmio := { s.mmio with qtbase := clear 128 } }
  else if o = 0x20008 then { s with mmio := { s.mmio with ctbase := clear 512 } }
  else if o = 0x20010 then s.loadCtx x
  else if (0x100000 ≤ o && o < 0x100108) || (0x200000 ≤ o && o < 0x200000 + 4 * 768) then
    (s.setMmio4 o (x % 2 ^ 32)).setMmio4 (o + 4) (x / 2 ^ 32 % 2 ^ 32)
  else if 0x300000 ≤ o && o < 0x300400 then
    let d := (o - 0x300000) / 256
    let mask (i : Nat) : State := s.updDie d (fun di => { di with prqMask := BitVec.ofNat 192 (setBits di.prqMask.toNat (64 * i) 64 x) })
    match o % 256 with
    | 0x00 => s.updDie d (fun di => { di with prqCtx := BitVec.ofNat 11 x })
    | 0x08 => mask 0
    | 0x10 => mask 1
    | 0x18 => mask 2
    | 0x20 => s.updDie d (fun di => { di with prqDl := BitVec.ofNat 32 x })
    | 0x28 => if bit x 0 then s.preempt d else s
    | 0x30 => if bit x 1 then s.updDie d (fun di => { di with late := false }) else s
    | _ => s
  else if o = 0x400008 then (if bit x 0 then { s with mmio := { s.mmio with mcr := s.mmio.mcr.drop 1 } } else s)
  else if o = 0x500000 then { s with mmio := { s.mmio with tdbase := clear (2 ^ 31) } }
  else if 0x600000 ≤ o && o < 0x600400 then
    let d := (o - 0x600000) / 256
    match o % 256 with
    | 0x00 => s.updDie d (fun di => { di with irqBase := clear 4096 })
    | 0x08 => if 4 ≤ x % 16 && x % 16 ≤ 12 then s.updDie d (fun di => { di with irqLog := x % 16 }) else s
    | 0x18 => s.updDie d (fun di => { di with irqRp := BitVec.ofNat 32 x })
    | 0x20 => s.updDie d (fun di => { di with irqLost := BitVec.ofNat 32 x })
    | _ => s
  else if 0x700000 ≤ o && o < 0x700400 then
    let d := (o - 0x700000) / 256
    match o % 256 with
    | 0x00 => s.updDie d (fun di => { di with svpa := clear (2 ^ 20), svpaSet := true })
    | 0x08 => s.updDie d (fun di => { di with svva := clear (2 ^ 20), svvaSet := true })
    | _ => s
  else s

/-- The registers that are 4 bytes wide. -/
def mmioNarrow (o : Nat) : Bool :=
  (decide (0x100000 ≤ o) && decide (o < 0x100108)) || (decide (0x200000 ≤ o) && decide (o < 0x200000 + 4 * 768))

/-- A window access of fewer than 4 bytes, or off its own alignment, does not reach the structure (R80): a load gets a free value, a store does
nothing (log 54). -/
def narrowWindow (pa n : Nat) : Bool :=
  !isMem pa && decide (paLocal pa < mmioBase) && (decide (n < 4) || pa % n != 0)

/-- n bytes at an address outside memory: a window unit or MMIO (R79, R373). Another package's structures are not of this one: a load of them
gets a free value (log 10). -/
def State.deviceBytes (s : State) (pa n : Nat) : List Byte :=
  (List.range n).map (fun i =>
    let a := paLocal pa + i
    if s.foreign pa then (Config.freeWord s.freeCtr (pa + i)).setWidth 8
    else if a < mmioBase then s.windowByte (a - windowBase)
    else BitVec.ofNat 8 (s.mmio8 ((a - mmioBase) / 8 * 8) / 256 ^ (a % 8)))

/-- What the bytes that a partial write of an 8-byte register leaves out stand for: the register's own, but zeros where a one has an effect
(prq.st, fwctl). -/
def State.mmioKeep (s : State) (base : Nat) : Nat :=
  if base = 0x100100 || (0x300000 ≤ base && base < 0x300400 && base % 256 == 0x30) then 0 else s.mmio8 base

/-- A write within one 8-byte unit of MMIO: a 4-byte write of an 8-byte register keeps its other half (log 28). -/
def State.setMmio (s : State) (o : Nat) (bs : List Byte) : State :=
  if mmioNarrow o && bs.length == 4 then s.setMmio4 o (leNat bs)
  else
    let base := o / 8 * 8
    s.setMmio8 base (setBits (s.mmioKeep base) (8 * (o % 8)) (8 * bs.length) (leNat bs))

/-- A write of any length to MMIO, register by register, the lowest address first. -/
def State.setMmioN (s : State) (o : Nat) (bs : List Byte) : Nat → State
  | 0 => s
  | fuel + 1 =>
    let k := 8 - o % 8
    if bs.length ≤ k then s.setMmio o bs else State.setMmioN (s.setMmio o (bs.take k)) (o + k) (bs.drop k) fuel

/-- Bytes written to a window unit or to MMIO of this package; a write to another package's structures leaves this one. -/
def State.setDevice (s : State) (pa : Nat) (bs : List Byte) : State :=
  let a := paLocal pa
  if s.foreign pa || bs.isEmpty then s
  else if a < mmioBase then
    (bs.foldl (fun (acc : State × Nat) b => (acc.1.setWindowByte acc.2 b, acc.2 + 1)) (s, a - windowBase)).1
  else s.setMmioN (a - mmioBase) bs (bs.length / 8 + 2)

end Sys2Proof.Machine
end

