-- ==== Sys2Proof/Machine/Home.lean ====
section
/-!
DEFINITION. The home slices and the uniform data caches: what a write at its home does (R94, R103, R276, R303, R317), the
coherence classes (R91-R96), releases and acquires of a core (R94, R104), pages of other packages (R97, R98, R387).
-/

namespace Sys2Proof.Machine

-- Tile directory.

/-- Bytes of an element by format code, 1-8 (R84, R85). -/
def fmtBytes (f : Nat) : Nat := if f = 1 || f = 8 then 4 else if f = 2 || f = 3 || f = 7 then 2 else 1

/-- Bytes of a tile (R85). -/
def tileBytes (f : Nat) : Nat := if f = 9 then 2048 else if f = 0 then 4096 else 4096 * fmtBytes f

/-- The format and geometry that R84 marks legal. -/
def tileLegal (fmt geo : Nat) : Bool :=
  if fmt = 9 then geo == 3 else decide (1 ≤ fmt) && decide (fmt ≤ 8) && (geo == 1 || geo == 2)

/-- An element pattern is NaN or infinite in its format (R302). -/
def fmtSpecial (f x : Nat) : Bool :=
  if f = 1 then bits x 30 23 == 255
  else if f = 2 then bits x 14 10 == 31
  else if f = 3 then bits x 14 7 == 255
  else if f = 4 then x % 128 == 127
  else if f = 5 then bits x 6 2 == 31
  else false

/-- The format's one (R305). -/
def fmtOne (f : Nat) : Nat :=
  if f = 1 then 0x3F800000 else if f = 2 then 0x3C00 else if f = 3 then 0x3F80 else if f = 4 then 0x38 else if f = 5 then 0x3C else 1

/-- A directory entry's fields (R302). -/
def tdCls (e : Nat) : Nat := e % 4
def tdF (e : Nat) : Bool := bit e 2
def tdFmt (e : Nat) : Nat := bits e 7 4
def tdMake (cls : Nat) (f : Bool) (fmt cval : Nat) : Nat := cls + 4 * b2n f + 16 * fmt + cval * 2 ^ 32

/-- The entry after a store of pattern x at element index i of a tile of format fmt (R303). -/
def tdStep (fmt e i x : Nat) : Nat :=
  if tdFmt e ≠ fmt then tdMake 0 false fmt 0
  else
    let f := tdF e && !fmtSpecial fmt x
    let cval := bits e 63 32
    let keep := match tdCls e with
      | 1 => x == 0
      | 2 => x == cval
      | 3 => x == (if i / 64 = i % 64 then fmtOne fmt else 0)
      | _ => false
    if keep then tdMake (tdCls e) f fmt cval else tdMake 0 f fmt 0

/-- Where the entry of a tile is backed (R374): in the package of the tile, at its tdbase. -/
def State.tdAddr (s : State) (tile : Nat) : Nat :=
  if s.foreign tile then paPkg tile * 2 ^ 44 + paLocal ((Config.remoteTdbase (paPkg tile)).toNat + paLocal tile / 4096 * 8)
  else s.local (s.mmio.tdbase.toNat + paLocal tile / 4096 * 8)

/-- A tile's entry; without a route to its package it reads 0 (R387). -/
def State.tdEntry (s : State) (tile : Nat) : Nat := if s.foreign tile && !s.routed tile then 0 else s.mem.num (s.tdAddr tile) 8

/-- A directory entry set, at its backing, with the half-line's new code, and in the slice's cache (R302, R306, R388). What else writes the backing
leaves the cached line as it is, and what reads an entry puts no line into the cache (log 27). `op` and `ctx` are the engine operation, or the
context, that changes the tile. -/
def State.setTd (s : State) (tile e : Nat) (op ctx : Nat := 0) : State :=
  let sl := sliceOf tile
  let tag := tile / 2048
  let old := FMap.getD s.units.tdcache sl []
  let new := if old.any (fun x => x.1 == tag) then old.map (fun x => if x.1 = tag then (tag, e) else x) else (old ++ [(tag, e)]).drop (old.length - 65535)
  let s := s.recode ctx (s.tdAddr tile) 8 op
  { s with mem := s.mem.storeNum (s.tdAddr tile) 8 e, units := { s.units with tdcache := FMap.set s.units.tdcache sl new } }

/-- The format under which the tiles of a page have entries, 0 for none (R302). -/
def pteTiled (p : Nat) : Nat := if pteTde p && tileLegal (pteFmt p) (pteGeo p) && pteFmt p ≠ 9 then pteFmt p else 0

/-- The valid entries of a table, with their indexes: the low byte of one is odd (R82). -/
def Memory.entries (m : Memory) (table n : Nat) : List (Nat × Nat) :=
  m.filterMap (fun c => if decide (table ≤ c.1) && decide (c.1 < table + 8 * n) && (c.1 - table) % 8 == 0 && c.2.getLsbD 0 then
    some ((c.1 - table) / 8, m.num c.1 8) else none)

/-- The format that a leaf of 2^k pages gives the tiles of a physical page, if it maps it with a directory. -/
def leafTiled (m : Memory) (table k page : Nat) (x : Nat × Nat) : Option Nat :=
  let p := ptePpn x.2
  if p ≤ page && decide (page < p + 2 ^ k) then
    ((leafAt m table x.1 x.2 k ((page - p) * 4096)).map pteTiled).filter (· != 0)
  else none

/-- The format that some valid context's page table gives the tiles of a physical page (R81, R302). -/
def State.mappedFormat (s : State) (page : Nat) : Option Nat :=
  let m := s.mem
  (s.ctxs.filter (fun c => c.2.v)).findSome? (fun c =>
    (m.entries c.2.root.toNat (2 ^ 18)).findSome? (fun x1 =>
      let t2 := ptePpn x1.2 * 4096
      if !ptePointer x1.2 then none else (m.entries t2 512).findSome? (fun x2 =>
        let t3 := ptePpn x2.2 * 4096
        if !ptePointer x2.2 then leafTiled m t2 18 page x2 else (m.entries t3 512).findSome? (fun x3 =>
          let t4 := ptePpn x3.2 * 4096
          if !ptePointer x3.2 then leafTiled m t3 9 page x3 else (m.entries t4 512).findSome? (fun x4 =>
            if ptePointer x4.2 then none else leafTiled m t4 0 page x4)))))

/-- The format under which a page's tiles have entries (R302). A write that comes without a page entry (host, fabric) goes by the page tables of
this package; where none maps the page with a directory but another package may, by the format in the entry of the tile that holds it (log 25). -/
def State.tdFormat (s : State) (pte : Option Nat) (pa : Nat) : Nat :=
  match pte with
  | some p => pteTiled p
  | none =>
    match s.mappedFormat (pa / 4096) with
    | some f => f
    | none =>
      if s.links.routes.isEmpty then 0
      else ([16384, 8192, 4096].findSome? (fun tsz =>
        let f := tdFmt (s.tdEntry (pa / tsz * tsz))
        if decide (1 ≤ f) && decide (f ≤ 8) && tileBytes f == tsz then some f else none)).getD 0

/-- The entry update of a store, element by element (R303), and the mark on every scan or whole write of the tile that the store disturbs
(R304). -/
def State.tdStore (s : State) (pte : Option Nat) (op ctx pa n : Nat) : State :=
  let fmt := s.tdFormat pte pa
  if fmt = 0 || n = 0 then s
  else
    let sz := fmtBytes fmt
    let tsz := tileBytes fmt
    let first := pa / sz
    let last := (pa + n - 1) / sz
    let tile := pa / tsz * tsz
    let e := (List.range (last + 1 - first)).foldl (fun e k =>
      let a := (first + k) * sz
      tdStep fmt e ((a - tile) / sz) (s.mem.num a sz)) (s.tdEntry tile)
    let s := s.setTd tile e op ctx
    { s with units := { s.units with scan := s.units.scan.map (fun m => if m.1 = tile && m.2.1 != op then (m.1, m.2.1, true) else m) } }

-- Raises.

/-- A raise accepted by a set: the next sequence number, in flight until absorbed (R315); the amount is already settled. -/
def State.addRaise (s : State) (sid cell : Nat) (amt : Word) : State :=
  { s with sets := FMap.upd s.sets sid (fun e =>
      { e with rseq := e.rseq + 1, raises := e.raises ++ [⟨e.rseq + 1, cell, amt⟩], due := true }) }

/-- A raise amount or residual that is NaN or negative counts as +0 (R315, R332, R335), and whether it did. -/
def cleanAmt (x : Word) : Word × Bool :=
  if x.getLsbD 31 || decide (0x7F800000 < x.toNat) then (0, true) else (x, false)

/-- The raises of a write on a registered page (R317): one for each watch entry naming it. -/
def State.watchRaises (s : State) (pa : Nat) : State :=
  s.sets.foldl (fun s e =>
    if e.2.stopping then s
    else e.2.watch.foldl (fun s w => if w.1 = pa / 4096 then s.addRaise e.1 w.2.1 (cleanAmt w.2.2).1 else s) s) s

-- Granules.

/-- A granule's record. -/
def State.gran (s : State) (g : Nat) : Gran := FMap.getD s.units.gran g {}

def State.setGran (s : State) (g : Nat) (x : Gran) : State := { s with units := { s.units with gran := FMap.set s.units.gran g x } }

/-- A narrowing sent to a region, and the bound the slice now holds for it (R272). An upper bound below 0 leaves the region no position: the
slice holds an empty interval for it (log 21). -/
def State.narrow (s : State) (g r : Nat) (isLo : Bool) (v : Int) : State :=
  let gr := s.gran g
  let (lo, hi) := FMap.getD gr.recs r (0, 2 ^ 63 - 1)
  let b := if isLo then (max lo v.toNat, hi) else if v < 0 then (max lo 1, 0) else (lo, min hi v.toNat)
  let (id, s) := s.newId
  (s.setGran g { gr with recs := FMap.set gr.recs r b }) |> fun s =>
    { s with units := { s.units with nmsgs := s.units.nmsgs ++ [⟨id, r, isLo, v⟩] } }

/-- A region is recorded at a granule, be it one whose place as the writer another has taken (R274, R276). -/
def Gran.busy (g : Gran) : Bool := g.writer.isSome || !g.readers.isEmpty || !g.recs.isEmpty

/-- A plain write reaching a granule while a region is recorded there (R276). -/
def State.plainWrite (s : State) (g : Nat) : State :=
  let gr := s.gran g
  if !gr.busy then s
  else
    let c := s.ordClock
    let s := { s with ordClock := c + 1 }
    let s := s.setGran g { gr with wpos := c + 1 }
    let s := gr.readers.foldl (fun s r => s.narrow g r false ((c : Int) - 1)) s
    match gr.writer with
    | some w => s.narrow g w true (c + 1)
    | none => s

/-- The granules of a range of bytes. -/
def granulesOf (pa n : Nat) : List Nat := (List.range ((pa + n - 1) / 32 + 1 - pa / 32)).map (fun i => pa / 32 + i)

/-- A granule of a range is sealed: a plain write waits at the slice (R275). -/
def State.sealedIn (s : State) (pa n : Nat) : Bool := (granulesOf pa n).any (fun g => (s.gran g).sealed.isSome)

-- Bytes at their home.

/-- An uncorrectable data error in a range, with its structure (R364, R388). -/
def State.poisoned (s : State) (pa n : Nat) : Option Nat :=
  (List.range ((pa + n - 1) / 64 + 1 - pa / 64)).findSome? (fun i => FMap.get? s.links.poison (pa / 64 + i))

/-- Bytes as they stand at their home: memory, a device structure, or zeros where there is no route (R387). -/
def State.homeBytes (s : State) (pa n : Nat) : List Byte :=
  if s.foreign pa && !s.routed pa then List.replicate n 0
  else if isMem pa then s.mem.bytes pa n
  else s.deviceBytes pa n

/-- How a write at its home is made: by whom, whether it registers ownership (R94), raises watches (R317), is a plain write
(R276) or the commit of a region, under which page entry, for which engine operation, and in which context (0 for the host and the
fabric, which have none: log 10). -/
structure HomeW where
  core : Option Nat := none
  reg : Bool := false
  keep : Bool := false
  watch : Bool := true
  plain : Bool := true
  pte : Option Nat := none
  op : Nat := 0
  ctx : Nat := 0
  deriving DecidableEq, Repr

/-- The copies of a D line at other cores go when a write performs at its home (R104, R113; log 12). -/
def State.dropD (s : State) (keep : Option Nat) (line : Nat) : State :=
  let cores := s.cores.map (fun e =>
    if some e.1 = keep then e
    else (e.1, { e.2 with lines := e.2.lines.filter (fun l => l.1 != line || l.2.coh != 1 || l.2.nc) }))
  let fix (d : DEnt) : DEnt :=
    match keep with
    | some c =>
      if d.ptrs == [c] then d
      else { d with st := if d.ptrs.contains c then 1 else 0, crs := false, grp := [], ptrs := d.ptrs.filter (· == c) }
    | none => { d with st := 0, crs := false, grp := [], ptrs := [] }
  { s with cores, units := { s.units with dir := FMap.upd s.units.dir line fix } }

/-- Words get an owner, or lose it (R94). -/
def State.setOwner (s : State) (pa n : Nat) (o : Option Nat) : State :=
  let ws := (List.range ((pa + n - 1) / 4 + 1 - pa / 4)).map (fun i => pa / 4 + i)
  let put (m : FMap Nat) (w : Nat) : FMap Nat :=
    match o with
    | some c => FMap.set m w c
    | none => FMap.erase m w
  { s with units := { s.units with owner := ws.foldl put s.units.owner } }

/-- The raises of one write at its home (R317): an engine operation raises once for each line it writes. -/
def State.raiseWrite (s : State) (op pa : Nat) : State :=
  match FMap.get? s.ops op with
  | none => s.watchRaises pa
  | some o =>
    if o.raised.contains (pa / 128) then s
    else
      let s := s.watchRaises pa
      if s.sets.any (fun e => e.2.watch.any (fun w => w.1 == pa / 4096)) then
        { s with ops := FMap.set s.ops op { o with raised := pa / 128 :: o.raised } }
      else s

/-- One write of bytes within one line at its home: its code, memory, ownership, D copies, granules, tile directory, watches; a write to
a device structure acts there; a write without a route is discarded (R387). A write of the host, the fabric, a spill entry, a set's record or a phase
object narrows and stamps as the plain writes do that R276 lists (log 65). -/
def State.homeWrite (s : State) (w : HomeW) (pa : Nat) (bs : List Byte) : State :=
  if bs.isEmpty then s
  else if s.foreign pa && !s.routed pa then s
  else if !isMem pa then s.setDevice pa bs
  else
    let n := bs.length
    let s := s.recode w.ctx pa n w.op
    let s := { s with mem := s.mem.storeBytes pa bs }
    let s := s.setOwner pa n (if w.reg then w.core else none)
    let s := s.dropD (if w.keep then w.core else none) (pa / 128)
    let s := if w.plain then (granulesOf pa n).foldl State.plainWrite s else s
    let s := s.tdStore w.pte w.op w.ctx pa n
    if w.watch then s.raiseWrite w.op pa else s

/-- A write of any length at its home, line by line. -/
def State.homeWriteN (s : State) (w : HomeW) (pa : Nat) (bs : List Byte) : Nat → State
  | 0 => s
  | fuel + 1 =>
    let n := 128 - pa % 128
    if bs.length ≤ n then s.homeWrite w pa bs
    else State.homeWriteN (s.homeWrite w pa (bs.take n)) w (pa + n) (bs.drop n) fuel

/-- A write may perform at its home now: granted and not held by a seal; a read when it is granted. -/
def State.homeReady (s : State) (pte : Option Nat) (pa n : Nat) (write : Bool) : Bool :=
  !s.needsGrant pte pa write && !(write && s.sealedIn pa n)

-- The uniform data caches.

/-- The dirty bytes of a line in runs of consecutive offsets. -/
def CLine.runs (l : CLine) : List (Nat × List Byte) :=
  (l.cells.foldl (fun (acc : List (Nat × List Byte)) c =>
    if !c.2.2 then acc
    else match acc with
      | (o, bs) :: rest => if o + bs.length = c.1 then (o, bs ++ [c.2.1]) :: rest else (c.1, [c.2.1]) :: acc
      | [] => [(c.1, [c.2.1])]) []).reverse

/-- Stores of a core to a line of a non-coherent range have reached their home, or are gone: nothing waits for them (R103, R127), wherever
the team is now (R140). -/
def State.ncDone (s : State) (core line : Nat) : State :=
  let past (l : List (Nat × Nat)) : List (Nat × Nat) := l.filter (· != (core, line))
  { s with teams := s.teams.map (fun (e : Nat × Team) =>
    (e.1, { e.2 with threads := e.2.threads.map (fun th =>
      { th with ncs := past th.ncs, fences := th.fences.map (fun f => { f with ncs := past f.ncs }) }) })) }

/-- A line after the dirty bytes of some of its granules have gone home: a word of an S line that had some keeps just them, since its other
bytes may be older than what the home holds (R94, R104). -/
def CLine.cleaned (l : CLine) (q : Nat → Bool) : CLine :=
  let dirtyWord (o : Nat) : Bool := l.cells.any (fun x => x.1 / 4 == o / 4 && x.2.2)
  let old (x : Nat × Byte × Bool) : Bool := q (x.1 / 32) && l.coh == 0 && !l.nc && !x.2.2 && dirtyWord x.1
  let cells := (l.cells.filter (fun x => !old x)).map (fun x => (x.1, x.2.1, x.2.2 && !q (x.1 / 32)))
  { l with cells, whose := if cells.any (fun x => x.2.2) then l.whose else [] }

/-- Dirty bytes of some granules of a line to their home; S words get the core as owner (R94); the copy stays, clean there. A line without a route
raises the machine check of the context that stored to it (R387). -/
def State.writeBackPart (s : State) (core line : Nat) (q : Nat → Bool) : State :=
  match FMap.get? (s.core core).lines line with
  | none => s
  | some l =>
    let w : HomeW := { core := some core, reg := l.coh == 0 && !l.nc, keep := true, pte := some l.pte, ctx := l.ctx }
    let part : CLine := { l with cells := l.cells.filter (fun x => q (x.1 / 32)) }
    let s := if part.runs.isEmpty then s else s.noRoute (core / 192) l.ctx (line * 128)
    let s := part.runs.foldl (fun s r => s.homeWrite w (line * 128 + r.1) r.2) s
    let s := if l.nc && l.cells.all (fun x => !x.2.2 || q (x.1 / 32)) then s.ncDone core line else s
    s.updCore core (fun c => { c with lines := FMap.upd c.lines line (fun l => l.cleaned q) })

/-- Dirty bytes of a line to their home; the copy stays, clean. -/
def State.writeBack (s : State) (core line : Nat) : State := s.writeBackPart core line (fun _ => true)

/-- A line's dirty bytes may go home now. -/
def State.canWriteBack (s : State) (line : Nat) (l : CLine) : Bool :=
  l.runs.all (fun r => s.homeReady (some l.pte) (line * 128 + r.1) r.2.length true)

/-- The S lines of a core outside non-coherent ranges. -/
def State.sLines (s : State) (core : Nat) : List (Nat × CLine) := (s.core core).lines.filter (fun l => l.2.coh == 0 && !l.2.nc)

/-- A release by a core can take effect: no D store is outstanding and the dirty S bytes can go home (R94, R103). -/
def State.canRelease (s : State) (core : Nat) : Bool :=
  (s.core core).dstores.isEmpty && (s.sLines core).all (fun l => s.canWriteBack l.1 l.2)

/-- A release by a core: its dirty S bytes go home (R94). -/
def State.release (s : State) (core : Nat) : State := (s.sLines core).foldl (fun s l => if l.2.runs.isEmpty then s else s.writeBack core l.1) s

/-- A core's copy of a line goes, its dirty bytes home first. -/
def State.dropLine (s : State) (core line : Nat) : State :=
  match FMap.get? (s.core core).lines line with
  | none => s
  | some l => (if l.runs.isEmpty then s else s.writeBack core line).updCore core (fun c => { c with lines := FMap.erase c.lines line })

/-- The lines of a range of bytes. -/
def linesOf (pa n : Nat) : List Nat := (List.range ((pa + n - 1) / 128 + 1 - pa / 128)).map (fun i => pa / 128 + i)

/-- A copy that a home-slice access of its core would leave behind: one with dirty words (R104), and any but a D line, which its directory
keeps up (R92), since the core's own accesses to a byte take effect in program order. -/
def CLine.passed (l : CLine) : Bool := l.coh != 1 || l.nc || !l.runs.isEmpty

/-- Before a home-slice access of a core to a line that its cache holds, the dirty words go home and the copy goes (R104). -/
def State.homePrep (s : State) (core pa n : Nat) : State :=
  (linesOf pa n).foldl (fun s line =>
    if (FMap.get? (s.core core).lines line).any CLine.passed then s.dropLine core line else s) s

/-- The dirty words of a core in the lines of a range cannot go home yet: a grant is missing or a granule is sealed (R98, R275). -/
def State.prepWaits (s : State) (core pa n : Nat) : Bool :=
  (linesOf pa n).any (fun line => match FMap.get? (s.core core).lines line with
    | none => false
    | some l => !s.canWriteBack line l)

/-- The grants that the write-back of a line needs are asked for. -/
def State.askLine (s : State) (line : Nat) (l : CLine) : State :=
  l.runs.foldl (fun (s : State) r =>
    let pa := line * 128 + r.1
    if s.needsGrant (some l.pte) pa true then s.askGrant pa true else s) s

/-- The bytes of a line at some offsets, cached ones first. -/
def CLine.over (l : CLine) (home : List Byte) (o : Nat) (dirtyOnly : Bool) : List Byte :=
  (List.range home.length).map (fun i =>
    match FMap.get? l.cells (o + i) with
    | some (b, d) => if dirtyOnly && !d then (home[i]?).getD 0 else b
    | none => (home[i]?).getD 0)

/-- A D line of a core waits for a request of its own. -/
def CoreSt.busyD (c : CoreSt) (line : Nat) : Bool := c.dstores.any (fun d => d.1 == line)

/-- The copy a core holds of a line under another class than that of the present access (R95) goes, its dirty bytes home first; none while they
cannot. -/
def State.reclass (s : State) (core line coh : Nat) (nc : Bool) : Option State :=
  match FMap.get? (s.core core).lines line with
  | none => some s
  | some l => if l.nc == nc && (nc || l.coh == coh) then some s else if s.canWriteBack line l then some (s.dropLine core line) else none

/-- A directory entry. -/
def State.dent (s : State) (line : Nat) : DEnt := FMap.getD s.units.dir line {}
def State.setDent (s : State) (line : Nat) (d : DEnt) : State := { s with units := { s.units with dir := FMap.set s.units.dir line d } }

/-- A core drops a line (R92, R94, R115): of a D line its pointer goes in pointer mode, and nothing else changes while an invalidation is pending;
the dirty bytes of another line go home first. -/
def State.evict (s : State) (core line : Nat) : State :=
  match FMap.get? (s.core core).lines line with
  | none => s
  | some l =>
    if l.coh != 1 || l.nc then s.dropLine core line
    else
      let s := s.updCore core (fun c => { c with lines := FMap.erase c.lines line })
      let d := s.dent line
      if d.crs then s
      else
        let ptrs := d.ptrs.filter (· != core)
        s.setDent line { d with ptrs, st := if ptrs.isEmpty && d.writer.isNone then 0 else d.st }

/-- Lines of 128 bytes in a uniform data cache of 64 KiB (R1). -/
def cacheLines : Nat := 512

/-- Room for a line in a core's uniform data cache (R1): where the cache is full without it, a line that can leave now is evicted. Which one the spec
does not say; none while no line can leave (log 64). -/
def State.makeRoom (s : State) (core line : Nat) : Option State :=
  let ls := (s.core core).lines
  if ls.length < cacheLines || (FMap.get? ls line).isSome then some s
  else
    let out := ls.filter (fun l => s.canWriteBack l.1 l.2)
    (out[Config.freePick s.freeCtr core 0 % max 1 out.length]?).map (fun l => s.evict core l.1)

/-- Clean bytes of a copy that a load has read past them at their home (R96): they go, since a later load of the thread may not return older ones
(R104). -/
def CLine.past (l : CLine) (o n : Nat) : CLine :=
  { l with cells := l.cells.filter (fun x => x.2.2 || decide (x.1 < o) || decide (o + n ≤ x.1)) }

/-- A load through the uniform data cache (R91-R96, R202), inside one line: the bytes, or none when it must wait. `hint`:
1 no-allocate, 2 bypass. A load that misses takes every byte but the dirty ones from the home at one time (R111). A bypass load that hits a dirty line
reads it; one that reads at the home leaves no older clean byte behind on an S page. In a non-coherent range the copy stands (R115). -/
def State.uload (s : State) (core ctx : Nat) (pte : Nat) (nc : Bool) (va pa n hint : Nat) : Option (List Byte) × State :=
  let coh := pteCoh pte
  let line := pa / 128
  let o := pa % 128
  if narrowWindow pa n then (some ((List.range n).map (fun i => (Config.freeWord s.freeCtr (pa + i)).setWidth 8)), s)
  else if !isMem pa then (some (s.homeBytes pa n), s)
  else if s.needsGrant (some pte) pa false then (none, s.askGrant pa false)
  else match s.reclass core line coh nc with
  | none => (none, s)
  | some s =>
    let home := s.homeBytes pa n
    let l := FMap.getD (s.core core).lines line {}
    if !nc && coh = 2 then (some home, s)
    else if !nc && coh = 1 then
      if (s.core core).busyD line then (none, s)
      else if hint = 2 then (some home, s)
      else if (FMap.get? (s.core core).lines line).isSome then (some (l.over home o false), s)
      else if hint = 1 then (some home, s)
      else (none, s.updCore core (fun c => if c.dreads.contains line then c else { c with dreads := c.dreads ++ [line] }))
    else
      let hit := (List.range n).all (fun i => (FMap.get? l.cells (o + i)).isSome)
      let atHome : Option (List Byte) × State := (some (l.over home o true),
        if nc then s else s.updCore core (fun c => { c with lines := FMap.upd c.lines line (fun l => l.past o n) }))
      if hit && (hint != 2 || !l.runs.isEmpty) then (some (l.over home o false), s)
      else if hint = 1 || hint = 2 then atHome
      else match s.makeRoom core line with
      | none => (none, s)
      | some s =>
        let all := s.homeBytes (line * 128) 128
        let cells := (List.range 128).foldr (fun i (m : FMap (Byte × Bool)) =>
          match FMap.get? l.cells i with
          | some (b, true) => (i, (b, true)) :: m
          | _ => (i, ((all[i]?).getD 0, false)) :: m) []
        let l' : CLine := { cells, nc, coh, pte, va := va / 128, ctx, whose := l.whose }
        (some (l'.over home o false), s.updCore core (fun c => { c with lines := FMap.set c.lines line l' }))

/-- Cached bytes of a line replaced. -/
def CLine.put (l : CLine) (o : Nat) (bs : List Byte) (dirty : Bool) : CLine :=
  { l with cells := (List.range bs.length).foldl (fun m i => FMap.set m (o + i) ((bs[i]?).getD 0, dirty)) l.cells }

/-- The whole words of an S copy that a bypass store makes clean (R96): their first offset and bytes, where the copy has them dirty or the store
writes them. -/
def CLine.bypassRuns (l : CLine) (o : Nat) (bs : List Byte) : List (Nat × List Byte) :=
  let first := o / 4 * 4
  let last := (o + bs.length + 3) / 4 * 4
  let cells := (l.put o bs true).cells.filter (fun x => decide (first ≤ x.1) && decide (x.1 < last))
  ({ cells } : CLine).runs

/-- A copy after a bypass store (R96): the merged words are clean. Of an S word, which the core owns from then on, only the bytes that went home are
kept, since its other bytes may be older than what the home holds (R94, R104). -/
def CLine.bypassed (l : CLine) (o : Nat) (bs : List Byte) : CLine :=
  let outside (x : Nat × Byte × Bool) : Bool := decide (x.1 / 4 < o / 4) || decide ((o + bs.length - 1) / 4 < x.1 / 4)
  let cells := (l.put o bs true).cells.filter (fun x => outside x || l.nc || x.2.2)
  { l with cells := cells.map (fun x => if outside x then x else (x.1, x.2.1, false)) }

/-- A store through the uniform data cache (R92, R94-R96, R202), inside one line; the Bool says that it must wait. One that performs at its home now
raises the machine check there when it has no route; one that the cache keeps, where its bytes go home (R387). A bypass store
merges into a copy that is there and performs at the home at once, with what else is dirty in its words (R96). -/
def State.ustore (s : State) (core ctx : Nat) (pte : Nat) (nc : Bool) (va pa : Nat) (bs : List Byte) (hint : Nat) : Bool × State :=
  let coh := pteCoh pte
  let line := pa / 128
  let o := pa % 128
  let n := bs.length
  let who := (ctx, s.genAt ⟨core / 192, ctx, 0, false⟩ (BitVec.ofNat 64 va))
  let put (s : State) (d : Bool) (alloc : Bool) : State := s.updCore core (fun c =>
    let of (l : CLine) : CLine := { l.put o bs d with ctx, whose := if nc && d && !l.whose.contains who then l.whose ++ [who] else l.whose }
    match FMap.get? c.lines line with
    | some l => { c with lines := FMap.set c.lines line (of l) }
    | none => if alloc then { c with lines := FMap.set c.lines line (of { nc, coh, pte, va := va / 128, ctx }) } else c)
  let atHome (reg : Bool) : HomeW := { core := some core, reg, keep := true, pte := some pte, ctx }
  let raised (s : State) : State := s.noRoute (core / 192) ctx pa
  if narrowWindow pa n then (false, s)
  else if !isMem pa then (false, (raised s).homeWrite (atHome false) pa bs)
  else if s.needsGrant (some pte) pa true then (true, s.askGrant pa true)
  else match s.reclass core line coh nc with
  | none => (true, s)
  | some s =>
    let st := s.core core
    if !nc && coh = 2 then
      if s.sealedIn pa n then (true, s) else (false, (raised s).homeWrite (atHome false) pa bs)
    else if !nc && coh = 1 then
      if st.busyD line || st.dreads.contains line then (true, s)
      else if hint = 2 || ((FMap.get? st.lines line).map (fun l => l.excl)).getD false then
        if s.sealedIn pa n then (true, s) else (false, put ((raised s).homeWrite (atHome false) pa bs) false false)
      else (false, s.updCore core (fun c => { c with dstores := c.dstores ++ [(line, pa, pte, ctx, bs)] }))
    else if hint = 2 then
      let rs := (FMap.getD st.lines line {}).bypassRuns o bs
      if rs.any (fun r => s.sealedIn (line * 128 + r.1) r.2.length) then (true, s)
      else
        let s := rs.foldl (fun (s : State) r => s.homeWrite (atHome (!nc)) (line * 128 + r.1) r.2) (raised s)
        (false, s.updCore core (fun c => { c with lines := FMap.upd c.lines line (fun l => { l.bypassed o bs with ctx }) }))
    else match s.makeRoom core line with
      | none => (true, s)
      | some s => (false, put s true true)

end Sys2Proof.Machine
end

