-- ==== Sys2Proof/Machine/Flags.lean ====
section
/-!
DEFINITION. Rounding modes (R53, R54), exception flags (R71-R73) and the crumb log (R365).
-/

namespace Sys2Proof.Machine

/-- The rounding mode of a code under the system registers in force (R53, R54). -/
def rmOf (sr : SysRegs) (code : BitVec 2) : Rm :=
  if code = 0 then (if sr.fmode.getLsbD 2 then Rm.ofCode (sr.fmode.setWidth 2) else Rm.ofCode 0) else Rm.ofCode code

/-- The flags of an execution that sr.fmode enables (R54, R73). -/
def enabled (sr : SysRegs) (fl : BitVec 5) : BitVec 5 := fl &&& (sr.fmode >>> 3).setWidth 5

/-- A crumb record reaches its home, or waits at its slice while its page is not granted or its granule is sealed (R98, R275). Until it performs it
is an access in flight, with the generation it was translated under (R100). -/
def State.putCrumb (s : State) (c : Crumb) : State :=
  let pa := paOf c.pte c.va
  if s.homeReady (some c.pte) pa 32 true then
    (s.noRoute c.die c.ctx pa).homeWrite { pte := some c.pte, watch := false, ctx := c.ctx } pa c.bytes
  else
    let s := if s.needsGrant (some c.pte) pa true then s.askGrant pa true else s
    { s with units := { s.units with crumbs := s.units.crumbs ++ [c] } }

/-- The crumb records that wait try again. -/
def State.crumbsAgain (s : State) : State :=
  s.units.crumbs.foldl State.putCrumb { s with units := { s.units with crumbs := [] } }

/-- One crumb-log record (R365). A failed translation drops the record; next advances all the same. The ring's size is the one in force for the
team (R372); next is the context's running count. The record raises no watch (R317). -/
def State.crumb (s : State) (tm : Team) (cause : BitVec 5) (matrix : Bool) (hdr : DWord) (tid : Nat) : State :=
  let sr := tm.eff.sr
  if cause = 0 || !sr.crumb.getLsbD 0 then s
  else
    let cc := (s.ctx tm.ctx).sr.crumbc.toNat
    let next := cc / 2 ^ 32
    let lg := sr.crumbc.toNat % 32
    let va : DWord := (sr.crumb &&& ~~~ 0x3F) + BitVec.ofNat 64 (32 * (next % 2 ^ lg))
    let rec0 := cause.toNat + 256 * b2n matrix
    let rec2 := tm.core + tm.slot * 2 ^ 10 + tid * 2 ^ 16
    let bytes := natLe 8 rec0 ++ natLe 8 hdr.toNat ++ natLe 8 rec2 ++ natLe 8 s.timeNs
    let s := { s with ctxs := FMap.upd s.ctxs tm.ctx (fun c =>
      { c with sr := { c.sr with crumbc := BitVec.ofNat 64 (cc % 2 ^ 32 + (next + 1) % 2 ^ 32 * 2 ^ 32) } }) }
    match s.xlate tm.xlat true va .write with
    | .error _ => s
    | .ok e => s.putCrumb ⟨tm.dieOf, tm.ctx, s.genAt tm.xlat va, va, e, bytes⟩

/-- The flags of results that are complete at a clock or later (R72). -/
def Team.freshFlags (tm : Team) (now : Nat) : BitVec 5 :=
  (tm.fresh.filter (fun x => decide (now ≤ x.1))).foldl (fun fl x => fl ||| x.2) 0

/-- Flags raised by one execution of a lane instruction by a group: into kexc, with one record (R71-R73). A KRD that issues after it sees
them; they are set for good when the result is complete, `lat` clocks on (R72). -/
def State.raiseFlags (s : State) (c : Iss) (lat : Nat) (fl : BitVec 5) : State :=
  if fl = 0 then s
  else (s.updTeam c.t (fun tm => tm.flag s.clock lat fl)).crumb c.tm (enabled c.tm.eff.sr fl) false c.g.hdr c.low

/-- Flags a matrix operation raises when it retires (R72, R73). -/
def State.raiseMatrix (s : State) (t : Nat) (fl : BitVec 5) (hdr : DWord) (tid : Nat) : State :=
  match s.team? t with
  | none => s
  | some tm =>
    if fl = 0 then s
    else (s.updTeam t (fun tm => tm.flag s.clock 0 fl)).crumb tm (enabled tm.eff.sr fl) true hdr tid

end Sys2Proof.Machine
end

