-- ==== Sys2Proof/Machine/Scratch.lean ====
section
/-!
DEFINITION. The scratchpad as lanes and engines see it (R87-R89, R117) and phase objects (R247, R248, R126).
-/

namespace Sys2Proof.Machine

/-- The team in a slot of a core (R22). -/
def State.teamAt (s : State) (core slot : Nat) : Option Nat :=
  ((s.teamsOn core).find? (fun e => e.2.slot == slot)).map Prod.fst

/-- Where a scratch address lies for a team of a core: the named team and the offset, none when out of range (R88). -/
def State.scrAt (s : State) (t a n : Nat) : Option (Nat × Nat) :=
  match s.team? t with
  | none => none
  | some tm =>
    let off := bits a 18 0
    let named :=
      if bit a 31 then
        let c := bits a 30 25
        if c < 48 then s.teamAt (tm.core / 48 * 48 + c) (bits a 24 19) else none
      else if bits a 30 19 = 0 then some t else none
    match named with
    | none => none
    | some u =>
      match s.team? u with
      | none => none
      | some um => if off + n ≤ um.tr.scratch * 4096 then some (u, off) else none

/-- Bytes of a team's scratch; storage nothing has written reads 0 (log 7). -/
def State.scrGet (s : State) (u off n : Nat) : List Byte :=
  match s.team? u with
  | none => List.replicate n 0
  | some um => (List.range n).map (fun i => FMap.getD um.scr (off + i) 0)

/-- Bytes put into a team's scratch; half-lines written whole hold no data error any more (R388). -/
def State.scrPut (s : State) (u off : Nat) (bs : List Byte) : State :=
  s.updTeam u (fun um => { um with
    scr := (List.range bs.length).foldl (fun m i => FMap.set m (off + i) ((bs[i]?).getD 0)) um.scr,
    scrBad := um.scrBad.filter (fun h => !(decide (off ≤ h * 64) && decide (h * 64 + 64 ≤ off + bs.length))) })

/-- Where n bytes of a team's scratch hold a data error (R364). -/
def State.scrErrorAt (s : State) (u off n : Nat) : Option Nat :=
  (s.team? u).bind (fun um => (um.scrBad.find? (fun h => decide (h * 64 < off + n) && decide (off < h * 64 + 64))).map (fun h => max off (h * 64)))

/-- Some of n bytes of a team's scratch hold a data error (R364). -/
def State.scrError (s : State) (u off n : Nat) : Bool := (s.scrErrorAt u off n).isSome

/-- A scratch read of n bytes: zeros out of range (R88). -/
def State.scrRead (s : State) (t a n : Nat) : List Byte :=
  match s.scrAt t a n with
  | none => List.replicate n 0
  | some (u, off) => s.scrGet u off n

/-- The machine check of a read of n bytes at a scratch address that meets a data error (R364): there is no VA for eva (R359). -/
def State.scrTrap (s : State) (t a n : Nat) : Option Trap :=
  match s.scrAt t a n with
  | none => none
  | some (u, off) => if s.scrError u off n then some { cause := 10, info := 3 } else none

/-- A scratch write: nothing out of range (R88). -/
def State.scrWrite (s : State) (t a : Nat) (bs : List Byte) : State :=
  match s.scrAt t a bs.length with
  | none => s
  | some (u, off) => s.scrPut u off bs

/-- The pages of its own scratch that an active team's access must first pin (R87). -/
def State.unpinned (s : State) (t a n : Nat) : List Nat :=
  match s.scrAt t a n with
  | none => []
  | some (u, off) =>
    match s.team? u with
    | none => []
    | some um =>
      if u = t && um.active && n ≠ 0 then
        ((List.range ((off + n - 1) / 4096 + 1 - off / 4096)).map (fun i => off / 4096 + i)).filter
          (fun p => (FMap.get? um.pinned p).isNone)
      else []

/-- The refills an access asks for before it goes on (R87). -/
def State.askRefill (s : State) (t : Nat) (ps : List Nat) : State :=
  s.updTeam t (fun tm => { tm with refill := dedup (tm.refill ++ ps) })

-- Phase objects.

/-- Where a phase object lies. -/
inductive PhAt where
  | scr (u off : Nat)
  | mem (pa pte : Nat)
  deriving DecidableEq, Repr

/-- The number under which arrivals are held at a phase object. -/
def PhAt.key : PhAt → Nat
  | .scr u off => 2 ^ 60 + u * 2 ^ 20 + off
  | .mem pa _ => pa

/-- A phase object's 128 bits. -/
def State.phGet (s : State) (p : PhAt) : Nat :=
  match p with
  | .scr u off => leNat (s.scrGet u off 16)
  | .mem pa _ => leNat (s.homeBytes pa 16)

/-- A phase object's new bits, written for a context. -/
def State.phPut (s : State) (p : PhAt) (x : Nat) (ctx : Nat := 0) : State :=
  match p with
  | .scr u off => s.scrPut u off (natLe 16 x)
  | .mem pa pte => s.homeWrite { pte := some pte, watch := false, ctx } pa (natLe 16 x)

/-- A phase object as its fields (R247). -/
structure Phase where
  expa : Nat
  arr : Nat
  expb : Nat
  landb : Nat
  faultb : Nat
  phase : Nat
  deriving DecidableEq, Repr

def Phase.ofNat (x : Nat) : Phase := ⟨bits x 11 0, bits x 23 12, bits x 55 24, bits x 87 56, bits x 111 88, bits x 127 112⟩

def Phase.toNat (p : Phase) : Nat :=
  p.expa % 2 ^ 12 + p.arr % 2 ^ 12 * 2 ^ 12 + p.expb % 2 ^ 32 * 2 ^ 24 + p.landb % 2 ^ 32 * 2 ^ 56 + p.faultb % 2 ^ 24 * 2 ^ 88 +
    p.phase % 2 ^ 16 * 2 ^ 112

/-- The current phase ends now (R247). -/
def Phase.ends (p : Phase) : Bool := p.expa != 0 && p.arr == p.expa && p.landb == p.expb && p.faultb == 0

/-- Phases that end, one after another, each taking in the arrivals held for the next (R247, R248). -/
def phaseRun : Nat → Phase → Nat → Phase × Nat
  | 0, p, h => (p, h)
  | fuel + 1, p, h =>
    if p.ends then
      let a := min h p.expa
      phaseRun fuel { p with arr := a, expb := 0, landb := 0, phase := (p.phase + 1) % 2 ^ 16 } (h - a)
    else (p, h)

/-- An atomic update of a phase object: its fields and the arrivals held at it, then the ends that follow (R126, R247);
`ctx` is the context for which it is made. -/
def State.phUpdate (s : State) (at_ : PhAt) (f : Phase × Nat → Phase × Nat) (ctx : Nat := 0) : State :=
  let p := Phase.ofNat (s.phGet at_)
  let h := FMap.getD s.units.heldArr at_.key 0
  let (p1, h1) := f (p, h)
  let (p2, h2) := phaseRun (h1 + 2) p1 h1
  let s := s.phPut at_ p2.toNat ctx
  let held := if h2 = 0 then FMap.erase s.units.heldArr at_.key else FMap.set s.units.heldArr at_.key h2
  { s with units := { s.units with heldArr := held } }

/-- One arrival (R248): counted, or held when the current phase has all its arrivals. -/
def Phase.arrive (x : Phase × Nat) : Phase × Nat :=
  if x.1.arr = x.1.expa then (x.1, x.2 + 1) else ({ x.1 with arr := x.1.arr + 1 }, x.2)

/-- The phase an arrival made now counts toward (R248). -/
def Phase.toward (x : Phase × Nat) : Nat :=
  if x.1.arr = x.1.expa then (x.1.phase + 1 + x.2 / x.1.expa) % 2 ^ 16 else x.1.phase

/-- Bytes that land (R237, R247). -/
def Phase.land (n : Nat) (x : Phase × Nat) : Phase × Nat := ({ x.1 with landb := (x.1.landb + n) % 2 ^ 32 }, x.2)

/-- Bytes that park, and bytes that leave the fault queue (R237, R247). Where a BINIT has set faultb to 0 meanwhile, what leaves takes it no lower: the
spec does not say what it does then (log 37). -/
def Phase.park (n : Nat) (x : Phase × Nat) : Phase × Nat := ({ x.1 with faultb := x.1.faultb + n }, x.2)
def Phase.unpark (n : Nat) (x : Phase × Nat) : Phase × Nat := ({ x.1 with faultb := x.1.faultb - n }, x.2)

/-- Phase n has ended, for a phase object at phase `now` (R250). -/
def phaseEnded (now n : Nat) : Bool :=
  let d := (now + 2 ^ 16 - n % 2 ^ 16) % 2 ^ 16
  decide (1 ≤ d) && decide (d ≤ 32767)

/-- A wait for phase n of an object is over (R250): never while its expa is 0, until a BINIT gives it one (R247). -/
def Phase.past (p : Phase) (n : Nat) : Bool := p.expa != 0 && phaseEnded p.phase n

end Sys2Proof.Machine
end

