-- ==== Sys2Proof/Machine/Operands.lean ====
section
/-!
DEFINITION. The operand forms: lane instructions over 32-bit and 64-bit operands, predicates and k registers (R146-R151,
R191, R192), with the latencies of R156.
-/

namespace Sys2Proof.Machine

/-- What an instruction or event answers. -/
abbrev Out := Host.Outcome State Fault Refusal

/-- The 7-bit operand code of a short one (R147). -/
def short7 (c : BitVec 5) : Nat := if c.toNat ≤ 15 then c.toNat else 96 + c.toNat

/-- A predicate register as read and as written. -/
def Use.psrc (p : Nat) : Use := ⟨if p = 7 then [] else [.p p], [], 0, false⟩
def Use.pdst (p : Nat) : Use := ⟨[], [.p p], 0, false⟩

/-- One execution of a lane instruction by a group (R191): each thread's register writes and flags; the writes take the
latency, the flags are recorded, the group advances. -/
def State.laneRun (s : State) (c : Iss) (lat gap : Nat) (f : Nat → List (Nat × Reg × DWord) × BitVec 5) : State :=
  let outs := c.g.tids.map f
  let s := s.writeRegs c.t c.gid lat (outs.flatMap Prod.fst)
  let s := s.raiseFlags c lat (outs.foldl (fun x o => x ||| o.2) 0)
  s.advance c.t c.gid gap

/-- d := f(a), 32 bits. -/
def State.lane1 (s : State) (lat gap d a : Nat) (f : SysRegs → Word → Word × BitVec 5) : State :=
  s.gate ((Use.dst d 1).add (Use.src a 1)) (fun s c => s.laneRun c lat gap (fun tid =>
    let r := f c.tm.eff.sr (c.src s tid a)
    (dstWrites tid d r.1, r.2)))

/-- d := f(a, b), 32 bits. -/
def State.lane2 (s : State) (lat gap d a b : Nat) (f : SysRegs → Word → Word → Word × BitVec 5) : State :=
  s.gate ((Use.dst d 1).add ((Use.src a 1).add (Use.src b 1))) (fun s c => s.laneRun c lat gap (fun tid =>
    let r := f c.tm.eff.sr (c.src s tid a) (c.src s tid b)
    (dstWrites tid d r.1, r.2)))

/-- d := f(d, a, b), 32 bits. -/
def State.lane3 (s : State) (lat gap d a b : Nat) (f : SysRegs → Word → Word → Word → Word × BitVec 5) : State :=
  s.gate ((Use.dst d 1).add ((Use.src d 1).add ((Use.src a 1).add (Use.src b 1)))) (fun s c => s.laneRun c lat gap (fun tid =>
    let r := f c.tm.eff.sr (c.src s tid d) (c.src s tid a) (c.src s tid b)
    (dstWrites tid d r.1, r.2)))

/-- A lane operand of n registers: a 32-bit code or a pair (R150). -/
def Iss.srcN (c : Iss) (s : State) (tid code n : Nat) : DWord :=
  if n = 2 then c.src64 s tid code else (c.src s tid code).setWidth 64

/-- Writes of a result of n registers, with L. -/
def dstWritesN (tid code n : Nat) (x : DWord) : List (Nat × Reg × DWord) :=
  if n = 2 then dstWrites64 tid code x else dstWrites tid code (x.setWidth 32)

/-- d := f(a) over operands of dn and an registers. -/
def State.laneW1 (s : State) (lat gap d dn a an : Nat) (f : SysRegs → DWord → DWord × BitVec 5) : State :=
  s.gate ((Use.dst d dn).add (Use.src a an)) (fun s c => s.laneRun c lat gap (fun tid =>
    let r := f c.tm.eff.sr (c.srcN s tid a an)
    (dstWritesN tid d dn r.1, r.2)))

/-- d := f(d, a, b) on pairs; `rd` says that d is read. -/
def State.laneW3 (s : State) (lat gap d a b : Nat) (rd : Bool) (f : SysRegs → DWord → DWord → DWord → DWord × BitVec 5) : State :=
  s.gate ((Use.dst d 2).add ((if rd then Use.src d 2 else {}).add ((Use.src a 2).add (Use.src b 2)))) (fun s c =>
    s.laneRun c lat gap (fun tid =>
      let r := f c.tm.eff.sr (if rd then c.src64 s tid d else 0) (c.src64 s tid a) (c.src64 s tid b)
      (dstWrites64 tid d r.1, r.2)))

/-- pd := the comparison of a and b, combined with pd by the mod (R210). -/
def State.laneCmp (s : State) (gap : Nat) (m : BitVec 2) (p a b : Nat) (f : Word → Word → Bool × BitVec 5) : State :=
  s.gate ((Use.pdst p).add ((if m = 0 then {} else Use.psrc p).add ((Use.src a 1).add (Use.src b 1)))) (fun s c =>
    s.laneRun c 2 gap (fun tid =>
      let r := f (c.src s tid a) (c.src s tid b)
      let old := if m = 0 then false else c.pred s tid p
      let x := if m = 0 then r.1 else if m = 1 then old && r.1 else old || r.1
      ([(tid, .p p, BitVec.ofNat 64 (b2n x))], r.2)))

/-- One uniform execution that writes a k register, latency 2 (R156, R192). -/
def State.uniform (s : State) (gap : Nat) (u : Use) (d : Nat) (f : Iss → DWord) : State :=
  s.gateAs (u.add (Use.kdst d 1)) true (fun s c =>
    (s.writeRegs c.t c.gid 2 [(0, .k d, f c)]).advance c.t c.gid gap)

/-- kd := f(ka, kb). -/
def State.k2 (s : State) (st : BitVec 2) (d a b : BitVec 6) (f : DWord → DWord → DWord) : State :=
  s.uniform (gapOf st) ((Use.ksrc a.toNat 1).add (Use.ksrc b.toNat 1)) d.toNat (fun c => f (c.k s a.toNat) (c.k s b.toNat))

/-- A result owed by the present instruction: its value, if it is there, and whether it is an acquire still to come (R158,
R393). Several registers of one result share the name. An owed L is the newest write of L, and the result ends what a run end left
open of its registers (R157, R158). `fl` are flags that its write sets (R226); `obs`
says that its write is an acquire (R120); `also` names the other threads that executed the same uniform instruction (R359). -/
def State.owe (s : State) (t : Nat) (id : Nat) (owner : Nat) (uniform : Bool) (acq : Bool) (rs : List (Reg × Option DWord)) (fl : BitVec 5 := 0)
    (obs : Bool := false) (also : List Nat := []) : State :=
  s.updTeam t (fun tm =>
    let tm := if rs.any (fun r => r.1 == .t 8) then tm.updThread owner (fun th => { th with lver := th.lver + 1 }) else tm
    let th := tm.thread owner
    let tm := rs.foldl (fun (tm : Team) r => tm.firm owner r.1) tm
    { tm with wbs := tm.wbs ++ rs.map (fun r =>
      ⟨id, if uniform then none else some owner, owner, r.1, r.2, acq, th.stamp, th.lver,
        if r.1 == .t 8 && rs.length != 1 then 0 else fl, obs, also⟩) })

/-- The registers and halves of a variable-latency result of n registers at a code, with L where the instruction gives it
(R150, R160); a discarded one owes only L. -/
def resultRegs (code n : Nat) (withL : Bool) (x : Option Nat) : List (Reg × Option DWord) :=
  let part (i : Nat) : Option DWord := x.map (fun x => BitVec.ofNat 64 (x / 2 ^ (32 * i) % 2 ^ 32))
  ((List.range n).filterMap (fun i => if code < 120 then (codeReg (code + i)).map (fun r => (r, part i)) else none)) ++
    (if withL then [(.t 8, part 0)] else [])

/-- The value of an owed result arrives (R158). -/
def State.answer (s : State) (t id : Nat) (f : Nat → DWord) : State := s.updTeam t (fun tm => tm.answer id f)

end Sys2Proof.Machine
end

