-- ==== Sys2Proof/Machine/IntLane.lean ====
section
/-!
DEFINITION. The integer lane instructions, comparison and selection (R146, R203 MOVK, R204-R212).
-/

namespace Sys2Proof.Machine

/-- The halves of a packed operand, and their packing. -/
def elLo (x : Word) : BitVec 16 := x.setWidth 16
def elHi (x : Word) : BitVec 16 := (x >>> 16).setWidth 16
def pack16 (hi lo : BitVec 16) : Word := hi ++ lo

/-- A packed operation element by element. -/
def each16 (f : BitVec 16 → BitVec 16 → BitVec 16) (a b : Word) : Word := pack16 (f (elHi a) (elHi b)) (f (elLo a) (elLo b))

/-- An integer clamped to the n-bit signed range. -/
def clampS (n : Nat) (x : Int) : BitVec n :=
  BitVec.ofInt n (if x < -(2 : Int) ^ (n - 1) then -(2 : Int) ^ (n - 1) else if (2 : Int) ^ (n - 1) - 1 < x then (2 : Int) ^ (n - 1) - 1 else x)

def minS {n : Nat} (a b : BitVec n) : BitVec n := if a.toInt ≤ b.toInt then a else b
def maxS {n : Nat} (a b : BitVec n) : BitVec n := if a.toInt ≤ b.toInt then b else a
def minU {n : Nat} (a b : BitVec n) : BitVec n := if a.toNat ≤ b.toNat then a else b
def maxU {n : Nat} (a b : BitVec n) : BitVec n := if a.toNat ≤ b.toNat then b else a

/-- IADD and ISUB by mod (R204). -/
def addMode (m : BitVec 2) (a b : Word) : Word :=
  if m = 0 then a + b else if m = 1 then clampS 32 (a.toInt + b.toInt)
  else if m = 2 then each16 (· + ·) a b else each16 (fun x y => clampS 16 (x.toInt + y.toInt)) a b
def subMode (m : BitVec 2) (a b : Word) : Word :=
  if m = 0 then a - b else if m = 1 then clampS 32 (a.toInt - b.toInt)
  else if m = 2 then each16 (· - ·) a b else each16 (fun x y => clampS 16 (x.toInt - y.toInt)) a b

/-- IMUL by mod (R204). -/
def mulMode (m : BitVec 2) (a b : Word) : Word :=
  if m = 0 then a * b
  else if m = 1 then BitVec.ofInt 32 ((a.toInt * b.toInt) / 2 ^ 32)
  else if m = 2 then BitVec.ofNat 32 ((a.toNat * b.toNat) / 2 ^ 32)
  else each16 (· * ·) a b

/-- IMAD by mod (R204). -/
def madMode (m : BitVec 1) (d a b : Word) : Word :=
  if m = 0 then a * b + d else pack16 (elHi a * elHi b + elHi d) (elLo a * elLo b + elLo d)

/-- IMIN and IMAX by mod (R204). -/
def minMode (m : BitVec 2) (a b : Word) : Word :=
  if m = 0 then minS a b else if m = 1 then minU a b else if m = 2 then each16 minS a b else each16 minU a b
def maxMode (m : BitVec 2) (a b : Word) : Word :=
  if m = 0 then maxS a b else if m = 1 then maxU a b else if m = 2 then each16 maxS a b else each16 maxU a b

/-- Rotation and shifts by the low five bits of the amount (R206). -/
def rolW (a b : Word) : Word := a.rotateLeft (b.toNat % 32)
def shlW (a b : Word) : Word := a <<< (b.toNat % 32)
def shrW (a b : Word) : Word := a >>> (b.toNat % 32)
def sarW (a b : Word) : Word := a.sshiftRight (b.toNat % 32)

/-- Counts and reversal (R207). -/
def popcW (a : Word) : Word := BitVec.ofNat 32 ((List.range 32).foldl (fun n i => n + b2n (a.getLsbD i)) 0)
def clzW (a : Word) : Word := BitVec.ofNat 32 (((List.range 32).find? (fun i => a.getLsbD (31 - i))).getD 32)
def ctzW (a : Word) : Word := BitVec.ofNat 32 (((List.range 32).find? (fun i => a.getLsbD i)).getD 32)
def brevW (a : Word) : Word := BitVec.ofNat 32 ((List.range 32).foldl (fun n i => n * 2 + b2n (a.getLsbD i)) 0)

/-- Position, length and mask of a bit field (R208). -/
def bfPos (b : Word) : Nat := bits b.toNat 4 0
def bfLen (b : Word) : Nat := min (bits b.toNat 13 8) (32 - bfPos b)
def bfxW (a b : Word) : Word := (a >>> bfPos b) &&& BitVec.ofNat 32 (2 ^ bfLen b - 1)
def bfxsW (a b : Word) : Word := if bfLen b = 0 then 0 else BitVec.ofInt 32 (sext (bfLen b) (bfxW a b).toNat)
def bfiW (d a b : Word) : Word :=
  let m : Word := BitVec.ofNat 32 (2 ^ bfLen b - 1)
  (d &&& ~~~ (m <<< bfPos b)) ||| ((a &&& m) <<< bfPos b)

/-- The conditions of ICMP (R210). -/
def icmpOp (c : BitVec 4) (a b : Word) : Bool :=
  match c.toNat with
  | 0 => a == b
  | 1 => a != b
  | 2 => decide (a.toInt < b.toInt)
  | 3 => decide (a.toInt ≤ b.toInt)
  | 4 => decide (b.toInt < a.toInt)
  | 5 => decide (b.toInt ≤ a.toInt)
  | 6 => decide (a.toNat < b.toNat)
  | 7 => decide (a.toNat ≤ b.toNat)
  | 8 => decide (b.toNat < a.toNat)
  | _ => decide (b.toNat ≤ a.toNat)

/-- A result without flags. -/
def pure1 (f : Word → Word) (_ : SysRegs) (a : Word) : Word × BitVec 5 := (f a, 0)
def pure2 (f : Word → Word → Word) (_ : SysRegs) (a b : Word) : Word × BitVec 5 := (f a b, 0)
def pure3 (f : Word → Word → Word → Word) (_ : SysRegs) (d a b : Word) : Word × BitVec 5 := (f d a b, 0)

-- The 32-bit forms.

def execIadd (st : BitVec 2) (m : BitVec 2) (d a b : BitVec 7) (s : State) : Out := .next (s.lane2 2 (gapOf st) d.toNat a.toNat b.toNat (pure2 (addMode m)))
def execIsub (st : BitVec 2) (m : BitVec 2) (d a b : BitVec 7) (s : State) : Out := .next (s.lane2 2 (gapOf st) d.toNat a.toNat b.toNat (pure2 (subMode m)))
def execImul (st : BitVec 2) (m : BitVec 2) (d a b : BitVec 7) (s : State) : Out := .next (s.lane2 4 (gapOf st) d.toNat a.toNat b.toNat (pure2 (mulMode m)))
def execImad (st : BitVec 2) (m : BitVec 1) (d a b : BitVec 7) (s : State) : Out := .next (s.lane3 4 (gapOf st) d.toNat a.toNat b.toNat (pure3 (madMode m)))
def execImin (st : BitVec 2) (m : BitVec 2) (d a b : BitVec 7) (s : State) : Out := .next (s.lane2 2 (gapOf st) d.toNat a.toNat b.toNat (pure2 (minMode m)))
def execImax (st : BitVec 2) (m : BitVec 2) (d a b : BitVec 7) (s : State) : Out := .next (s.lane2 2 (gapOf st) d.toNat a.toNat b.toNat (pure2 (maxMode m)))

def execAnd (st : BitVec 2) (d a b : BitVec 7) (s : State) : Out := .next (s.lane2 2 (gapOf st) d.toNat a.toNat b.toNat (pure2 (· &&& ·)))
def execOr (st : BitVec 2) (d a b : BitVec 7) (s : State) : Out := .next (s.lane2 2 (gapOf st) d.toNat a.toNat b.toNat (pure2 (· ||| ·)))
def execXor (st : BitVec 2) (d a b : BitVec 7) (s : State) : Out := .next (s.lane2 2 (gapOf st) d.toNat a.toNat b.toNat (pure2 (· ^^^ ·)))
def execAndn (st : BitVec 2) (d a b : BitVec 7) (s : State) : Out := .next (s.lane2 2 (gapOf st) d.toNat a.toNat b.toNat (pure2 (fun x y => x &&& ~~~ y)))
def execShl (st : BitVec 2) (d a b : BitVec 7) (s : State) : Out := .next (s.lane2 2 (gapOf st) d.toNat a.toNat b.toNat (pure2 shlW))
def execShr (st : BitVec 2) (d a b : BitVec 7) (s : State) : Out := .next (s.lane2 2 (gapOf st) d.toNat a.toNat b.toNat (pure2 shrW))
def execSar (st : BitVec 2) (d a b : BitVec 7) (s : State) : Out := .next (s.lane2 2 (gapOf st) d.toNat a.toNat b.toNat (pure2 sarW))
def execRol (st : BitVec 2) (d a b : BitVec 7) (s : State) : Out := .next (s.lane2 2 (gapOf st) d.toNat a.toNat b.toNat (pure2 rolW))

def execPopc (st : BitVec 2) (d a : BitVec 7) (s : State) : Out := .next (s.lane1 2 (gapOf st) d.toNat a.toNat (pure1 popcW))
def execClz (st : BitVec 2) (d a : BitVec 7) (s : State) : Out := .next (s.lane1 2 (gapOf st) d.toNat a.toNat (pure1 clzW))
def execCtz (st : BitVec 2) (d a : BitVec 7) (s : State) : Out := .next (s.lane1 2 (gapOf st) d.toNat a.toNat (pure1 ctzW))
def execBrev (st : BitVec 2) (d a : BitVec 7) (s : State) : Out := .next (s.lane1 2 (gapOf st) d.toNat a.toNat (pure1 brevW))
def execNot (st : BitVec 2) (d a : BitVec 7) (s : State) : Out := .next (s.lane1 2 (gapOf st) d.toNat a.toNat (pure1 (~~~ ·)))
def execAbs (st : BitVec 2) (d a : BitVec 7) (s : State) : Out := .next (s.lane1 2 (gapOf st) d.toNat a.toNat (pure1 (fun x => if x.getLsbD 31 then 0 - x else x)))
def execNeg (st : BitVec 2) (d a : BitVec 7) (s : State) : Out := .next (s.lane1 2 (gapOf st) d.toNat a.toNat (pure1 (fun x => 0 - x)))

def execBfx (st : BitVec 2) (d a b : BitVec 7) (s : State) : Out := .next (s.lane2 2 (gapOf st) d.toNat a.toNat b.toNat (pure2 bfxW))
def execBfxS (st : BitVec 2) (d a b : BitVec 7) (s : State) : Out := .next (s.lane2 2 (gapOf st) d.toNat a.toNat b.toNat (pure2 bfxsW))
def execBfi (st : BitVec 2) (d a b : BitVec 7) (s : State) : Out := .next (s.lane3 2 (gapOf st) d.toNat a.toNat b.toNat (pure3 bfiW))

def execIaddi (st : BitVec 2) (d a : BitVec 7) (i : BitVec 9) (s : State) : Out := .next (s.lane1 2 (gapOf st) d.toNat a.toNat (pure1 (fun x => x + i.signExtend 32)))
def execAndi (st : BitVec 2) (d a : BitVec 7) (i : BitVec 7) (s : State) : Out := .next (s.lane1 2 (gapOf st) d.toNat a.toNat (pure1 (fun x => x &&& i.signExtend 32)))
def execOri (st : BitVec 2) (d a : BitVec 7) (i : BitVec 7) (s : State) : Out := .next (s.lane1 2 (gapOf st) d.toNat a.toNat (pure1 (fun x => x ||| i.signExtend 32)))
def execXori (st : BitVec 2) (d a : BitVec 7) (i : BitVec 7) (s : State) : Out := .next (s.lane1 2 (gapOf st) d.toNat a.toNat (pure1 (fun x => x ^^^ i.signExtend 32)))
def execShli (st : BitVec 2) (d a : BitVec 7) (n : BitVec 5) (s : State) : Out := .next (s.lane1 2 (gapOf st) d.toNat a.toNat (pure1 (fun x => shlW x (n.setWidth 32))))
def execShri (st : BitVec 2) (d a : BitVec 7) (n : BitVec 5) (s : State) : Out := .next (s.lane1 2 (gapOf st) d.toNat a.toNat (pure1 (fun x => shrW x (n.setWidth 32))))
def execSari (st : BitVec 2) (d a : BitVec 7) (n : BitVec 5) (s : State) : Out := .next (s.lane1 2 (gapOf st) d.toNat a.toNat (pure1 (fun x => sarW x (n.setWidth 32))))
def execRoli (st : BitVec 2) (d a : BitVec 7) (n : BitVec 5) (s : State) : Out := .next (s.lane1 2 (gapOf st) d.toNat a.toNat (pure1 (fun x => rolW x (n.setWidth 32))))

/-- d := sext(imm16) (R209). -/
def execMovi (st : BitVec 2) (d : BitVec 7) (i : BitVec 16) (s : State) : Out :=
  .next (s.gate (Use.dst d.toNat 1) (fun s c => s.laneRun c 2 (gapOf st) (fun tid => (dstWrites tid d.toNat (i.signExtend 32), 0))))

/-- d := k[31:0] in each thread (R203). -/
def execMovk (st : BitVec 2) (k : BitVec 6) (v : BitVec 7) (s : State) : Out :=
  .next (s.gate ((Use.dst v.toNat 1).add (Use.ksrc k.toNat 1)) (fun s c =>
    s.laneRun c 2 (gapOf st) (fun tid => (dstWrites tid v.toNat ((c.k s k.toNat).setWidth 32), 0))))

/-- R210. -/
def execIcmp (st : BitVec 2) (m : BitVec 2) (p : BitVec 3) (c : BitVec 4) (a b : BitVec 7) (s : State) : Out :=
  .next (s.laneCmp (gapOf st) m p.toNat a.toNat b.toNat (fun x y => (icmpOp c x y, 0)))

/-- R211. -/
def execPlog (st : BitVec 2) (d : BitVec 3) (c : BitVec 4) (a b : BitVec 3) (s : State) : Out :=
  .next (s.gate ((Use.pdst d.toNat).add ((Use.psrc a.toNat).add (Use.psrc b.toNat))) (fun s i =>
    s.laneRun i 2 (gapOf st) (fun tid =>
      let n := 2 * b2n (i.pred s tid a.toNat) + b2n (i.pred s tid b.toNat)
      ([(tid, .p d.toNat, BitVec.ofNat 64 (b2n (c.getLsbD n)))], 0))))

/-- R212. -/
def execSel (st : BitVec 2) (p : BitVec 2) (d a b : BitVec 7) (s : State) : Out :=
  .next (s.gate ((Use.dst d.toNat 1).add ((Use.psrc p.toNat).add ((Use.src a.toNat 1).add (Use.src b.toNat 1)))) (fun s c =>
    s.laneRun c 2 (gapOf st) (fun tid =>
      (dstWrites tid d.toNat (if c.pred s tid p.toNat then c.src s tid a.toNat else c.src s tid b.toNat), 0))))

-- The 16-bit forms (R146): d is read as the first source.

/-- MOV reads d as every 16-bit operation does (R147, R191), and copies s (R146). -/
def execMov (d q : BitVec 5) (s : State) : Out := .next (s.lane2 2 1 (short7 d) (short7 d) (short7 q) (pure2 (fun _ y => y)))
def execIadd16 (d q : BitVec 5) (s : State) : Out := .next (s.lane2 2 1 (short7 d) (short7 d) (short7 q) (pure2 (· + ·)))
def execIsub16 (d q : BitVec 5) (s : State) : Out := .next (s.lane2 2 1 (short7 d) (short7 d) (short7 q) (pure2 (· - ·)))
def execImul16 (d q : BitVec 5) (s : State) : Out := .next (s.lane2 4 1 (short7 d) (short7 d) (short7 q) (pure2 (· * ·)))
def execImin16 (d q : BitVec 5) (s : State) : Out := .next (s.lane2 2 1 (short7 d) (short7 d) (short7 q) (pure2 minS))
def execImax16 (d q : BitVec 5) (s : State) : Out := .next (s.lane2 2 1 (short7 d) (short7 d) (short7 q) (pure2 maxS))
def execAnd16 (d q : BitVec 5) (s : State) : Out := .next (s.lane2 2 1 (short7 d) (short7 d) (short7 q) (pure2 (· &&& ·)))
def execOr16 (d q : BitVec 5) (s : State) : Out := .next (s.lane2 2 1 (short7 d) (short7 d) (short7 q) (pure2 (· ||| ·)))
def execXor16 (d q : BitVec 5) (s : State) : Out := .next (s.lane2 2 1 (short7 d) (short7 d) (short7 q) (pure2 (· ^^^ ·)))
def execShl16 (d q : BitVec 5) (s : State) : Out := .next (s.lane2 2 1 (short7 d) (short7 d) (short7 q) (pure2 shlW))
def execShr16 (d q : BitVec 5) (s : State) : Out := .next (s.lane2 2 1 (short7 d) (short7 d) (short7 q) (pure2 shrW))
def execSar16 (d q : BitVec 5) (s : State) : Out := .next (s.lane2 2 1 (short7 d) (short7 d) (short7 q) (pure2 sarW))

end Sys2Proof.Machine
end

