-- ==== Sys2Proof/Machine/FloatLane.lean ====
section
/-!
DEFINITION. The floating lane instructions and conversions, ADDMIN and ADDMAX (R63, R146, R164, R205, R210, R213-R218).
-/

namespace Sys2Proof.Machine

/-- A floating result as a word with its flags. -/
def asWord (r : Nat × Flags) : Word × BitVec 5 := (BitVec.ofNat 32 r.1, r.2)
def asDWord (r : Nat × Flags) : DWord × BitVec 5 := (BitVec.ofNat 64 r.1, r.2)

/-- f32 forms rounded by a mod (R213). -/
def faddW (m : BitVec 2) (sr : SysRegs) (a b : Word) : Word × BitVec 5 := asWord (fAdd f32 (rmOf sr m) a.toNat b.toNat)
def fmulW (m : BitVec 2) (sr : SysRegs) (a b : Word) : Word × BitVec 5 := asWord (fMul f32 (rmOf sr m) a.toNat b.toNat)
def ffmaW (m : BitVec 2) (sr : SysRegs) (d a b : Word) : Word × BitVec 5 := asWord (fFma f32 (rmOf sr m) a.toNat b.toNat d.toNat)
def fminmaxW (isMax num : Bool) (_ : SysRegs) (a b : Word) : Word × BitVec 5 := asWord (minMax f32 isMax num a.toNat b.toNat)

/-- A packed operation on two halves with its flags combined (R48, R215). -/
def half2 (f : Nat → Nat → Nat → Nat × Flags) (d a b : Word) : Word × BitVec 5 :=
  let lo := f (elLo d).toNat (elLo a).toNat (elLo b).toNat
  let hi := f (elHi d).toNat (elHi a).toNat (elHi b).toNat
  (pack16 (BitVec.ofNat 16 hi.1) (BitVec.ofNat 16 lo.1), hi.2 ||| lo.2)

def haddW (sr : SysRegs) (a b : Word) : Word × BitVec 5 := half2 (fun _ x y => fAdd f16 (rmOf sr 0) x y) 0 a b
def hmulW (sr : SysRegs) (a b : Word) : Word × BitVec 5 := half2 (fun _ x y => fMul f16 (rmOf sr 0) x y) 0 a b
def hfmaW (fm : Fmt) (sr : SysRegs) (d a b : Word) : Word × BitVec 5 := half2 (fun z x y => fFma fm (rmOf sr 0) x y z) d a b

/-- ADDMIN and ADDMAX by mod (R63). -/
def addMinMax (isMax : Bool) (m : BitVec 2) (sr : SysRegs) (d a b : Word) : Word × BitVec 5 :=
  let pick {n : Nat} (x y : BitVec n) : BitVec n := if isMax then maxS x y else minS x y
  if m = 0 then (pick d (a + b), 0)
  else if m = 1 then (pick d (clampS 32 (a.toInt + b.toInt)), 0)
  else if m = 2 then (each16 pick d (each16 (fun x y => clampS 16 (x.toInt + y.toInt)) a b), 0)
  else
    let q := fAdd f32 (rmOf sr 0) a.toNat b.toNat
    let r := minMax f32 isMax false d.toNat q.1
    (BitVec.ofNat 32 r.1, q.2 ||| r.2)

/-- The conditions of FCMP (R210): ordered comparisons raise nv for any NaN, the others for a signalling one. -/
def fcmpOp (c : BitVec 4) (a b : Word) : Bool × BitVec 5 :=
  let x := Num.ofBits f32 a.toNat
  let y := Num.ofBits f32 b.toNat
  let un := x.isNan || y.isNan
  let ordered := decide (2 ≤ c.toNat) && decide (c.toNat ≤ 5)
  let fl := if (ordered && un) || x.isSnan || y.isSnan then flNv else flNone
  let r := match c.toNat with
    | 0 => !un && eqNum x y
    | 1 => un || !eqNum x y
    | 2 => !un && ltNum x y
    | 3 => !un && (ltNum x y || eqNum x y)
    | 4 => !un && ltNum y x
    | 5 => !un && (ltNum y x || eqNum x y)
    | 6 => un
    | _ => !un
  (r, fl)

/-- The source of a conversion as an exact value (R164). -/
def cvtSource (r : BitVec 3) (x : DWord) : Num :=
  match r.toNat with
  | 0 => Num.ofBits f32 (x.toNat % 2 ^ 32)
  | 1 => Num.ofBits f16 (x.toNat % 2 ^ 16)
  | 2 => Num.ofBits bf16 (x.toNat % 2 ^ 16)
  | 3 => decodeE4m3 (x.toNat % 256)
  | 4 => Num.ofBits e5m2 (x.toNat % 256)
  | 5 => Num.ofBits f64 x.toNat
  | 6 => Num.ofInt (sext 32 x.toNat)
  | _ => Num.ofInt (x.toNat % 2 ^ 32 : Nat)

/-- A conversion (R59-R62, R164, R218). -/
def cvtOp (t : BitVec 4) (r : BitVec 3) (rm : Rm) (x : DWord) : DWord × BitVec 5 :=
  let v := cvtSource r x
  let int (n : Nat) (lo hi : Int) : DWord × BitVec 5 :=
    if 6 ≤ r.toNat then
      let y : Int := if r = 6 then sext 32 x.toNat else (x.toNat % 2 ^ 32 : Nat)
      (BitVec.ofNat 64 (wrap n (clampInt lo hi y)), 0)
    else
      let q := toInt rm lo hi v
      (BitVec.ofNat 64 (wrap n q.1), q.2)
  match t.toNat with
  | 0 => asDWord (toFmt f32 rm v)
  | 1 => asDWord (toFmt f16 rm v)
  | 2 => asDWord (toFmt bf16 rm v)
  | 3 => asDWord (toE4m3 rm false v)
  | 4 => asDWord (toE4m3 rm true v)
  | 5 => asDWord (toFmt e5m2 rm v)
  | 6 => asDWord (toE5m2Sat rm v)
  | 7 => asDWord (toFmt f64 rm v)
  | 8 => int 32 (-(2 : Int) ^ 31) (2 ^ 31 - 1)
  | 9 => int 32 0 (2 ^ 32 - 1)
  | 10 => int 16 (-(2 : Int) ^ 15) (2 ^ 15 - 1)
  | 11 => int 16 0 (2 ^ 16 - 1)
  | 12 => int 8 (-(2 : Int) ^ 7) (2 ^ 7 - 1)
  | 13 => int 8 0 (2 ^ 8 - 1)
  | _ => int 64 (-(2 : Int) ^ 63) (2 ^ 63 - 1)

def execAddmin (st : BitVec 2) (m : BitVec 2) (d a b : BitVec 7) (s : State) : Out := .next (s.lane3 4 (gapOf st) d.toNat a.toNat b.toNat (addMinMax false m))
def execAddmax (st : BitVec 2) (m : BitVec 2) (d a b : BitVec 7) (s : State) : Out := .next (s.lane3 4 (gapOf st) d.toNat a.toNat b.toNat (addMinMax true m))
def execFcmp (st : BitVec 2) (m : BitVec 2) (p : BitVec 3) (c : BitVec 4) (a b : BitVec 7) (s : State) : Out :=
  .next (s.laneCmp (gapOf st) m p.toNat a.toNat b.toNat (fcmpOp c))
def execFadd (st : BitVec 2) (m : BitVec 2) (d a b : BitVec 7) (s : State) : Out := .next (s.lane2 4 (gapOf st) d.toNat a.toNat b.toNat (faddW m))
def execFmul (st : BitVec 2) (m : BitVec 2) (d a b : BitVec 7) (s : State) : Out := .next (s.lane2 4 (gapOf st) d.toNat a.toNat b.toNat (fmulW m))
def execFfma (st : BitVec 2) (m : BitVec 2) (d a b : BitVec 7) (s : State) : Out := .next (s.lane3 4 (gapOf st) d.toNat a.toNat b.toNat (ffmaW m))
def execFmin (st : BitVec 2) (d a b : BitVec 7) (s : State) : Out := .next (s.lane2 4 (gapOf st) d.toNat a.toNat b.toNat (fminmaxW false false))
def execFmax (st : BitVec 2) (d a b : BitVec 7) (s : State) : Out := .next (s.lane2 4 (gapOf st) d.toNat a.toNat b.toNat (fminmaxW true false))
def execFminNum (st : BitVec 2) (d a b : BitVec 7) (s : State) : Out := .next (s.lane2 4 (gapOf st) d.toNat a.toNat b.toNat (fminmaxW false true))
def execFmaxNum (st : BitVec 2) (d a b : BitVec 7) (s : State) : Out := .next (s.lane2 4 (gapOf st) d.toNat a.toNat b.toNat (fminmaxW true true))
def execHadd (st : BitVec 2) (d a b : BitVec 7) (s : State) : Out := .next (s.lane2 4 (gapOf st) d.toNat a.toNat b.toNat haddW)
def execHmul (st : BitVec 2) (d a b : BitVec 7) (s : State) : Out := .next (s.lane2 4 (gapOf st) d.toNat a.toNat b.toNat hmulW)
def execHfma (st : BitVec 2) (d a b : BitVec 7) (s : State) : Out := .next (s.lane3 4 (gapOf st) d.toNat a.toNat b.toNat (hfmaW f16))
def execHfmaBf16x2 (st : BitVec 2) (d a b : BitVec 7) (s : State) : Out := .next (s.lane3 4 (gapOf st) d.toNat a.toNat b.toNat (hfmaW bf16))

def execDadd (st : BitVec 2) (d a b : BitVec 7) (s : State) : Out :=
  .next (s.laneW3 8 (gapOf st) d.toNat a.toNat b.toNat false (fun sr _ x y => asDWord (fAdd f64 (rmOf sr 0) x.toNat y.toNat)))
def execDmul (st : BitVec 2) (d a b : BitVec 7) (s : State) : Out :=
  .next (s.laneW3 8 (gapOf st) d.toNat a.toNat b.toNat false (fun sr _ x y => asDWord (fMul f64 (rmOf sr 0) x.toNat y.toNat)))
def execDfma (st : BitVec 2) (d a b : BitVec 7) (s : State) : Out :=
  .next (s.laneW3 8 (gapOf st) d.toNat a.toNat b.toNat true (fun sr z x y => asDWord (fFma f64 (rmOf sr 0) x.toNat y.toNat z.toNat)))

def execFneg (st : BitVec 2) (d a : BitVec 7) (s : State) : Out := .next (s.lane1 16 (gapOf st) d.toNat a.toNat (pure1 (· ^^^ 0x80000000)))
def execFabs (st : BitVec 2) (d a : BitVec 7) (s : State) : Out := .next (s.lane1 16 (gapOf st) d.toNat a.toNat (pure1 (· &&& 0x7FFFFFFF)))
def execFrcp (st : BitVec 2) (m : BitVec 2) (d a : BitVec 7) (s : State) : Out := .next (s.lane1 16 (gapOf st) d.toNat a.toNat (fun sr x => asWord (fRcp f32 (rmOf sr m) x.toNat)))
def execFsqrt (st : BitVec 2) (m : BitVec 2) (d a : BitVec 7) (s : State) : Out := .next (s.lane1 16 (gapOf st) d.toNat a.toNat (fun sr x => asWord (fSqrt f32 (rmOf sr m) x.toNat)))
def execFrsq (st : BitVec 2) (d a : BitVec 7) (s : State) : Out := .next (s.lane1 16 (gapOf st) d.toNat a.toNat (fun _ x => asWord (fRsq x.toNat)))
def execFexp2 (st : BitVec 2) (d a : BitVec 7) (s : State) : Out := .next (s.lane1 16 (gapOf st) d.toNat a.toNat (fun _ x => asWord (fExp2 x.toNat)))
def execFlog2 (st : BitVec 2) (d a : BitVec 7) (s : State) : Out := .next (s.lane1 16 (gapOf st) d.toNat a.toNat (fun _ x => asWord (fLog2 x.toNat)))
def execFsin (st : BitVec 2) (d a : BitVec 7) (s : State) : Out := .next (s.lane1 16 (gapOf st) d.toNat a.toNat (fun _ x => asWord (fSin x.toNat)))
def execFcos (st : BitVec 2) (d a : BitVec 7) (s : State) : Out := .next (s.lane1 16 (gapOf st) d.toNat a.toNat (fun _ x => asWord (fCos x.toNat)))
def execDneg (st : BitVec 2) (d a : BitVec 7) (s : State) : Out := .next (s.laneW1 16 (gapOf st) d.toNat 2 a.toNat 2 (fun _ x => (x ^^^ 0x8000000000000000, 0)))
def execDabs (st : BitVec 2) (d a : BitVec 7) (s : State) : Out := .next (s.laneW1 16 (gapOf st) d.toNat 2 a.toNat 2 (fun _ x => (x &&& 0x7FFFFFFFFFFFFFFF, 0)))
def execDrcp (st : BitVec 2) (m : BitVec 2) (d a : BitVec 7) (s : State) : Out := .next (s.laneW1 16 (gapOf st) d.toNat 2 a.toNat 2 (fun sr x => asDWord (fRcp f64 (rmOf sr m) x.toNat)))
def execDsqrt (st : BitVec 2) (m : BitVec 2) (d a : BitVec 7) (s : State) : Out := .next (s.laneW1 16 (gapOf st) d.toNat 2 a.toNat 2 (fun sr x => asDWord (fSqrt f64 (rmOf sr m) x.toNat)))

/-- R164, R218. -/
def execCvt (st : BitVec 2) (m : BitVec 2) (d a : BitVec 7) (t : BitVec 4) (r : BitVec 3) (s : State) : Out :=
  .next (s.laneW1 4 (gapOf st) d.toNat (if cvtDst64 t then 2 else 1) a.toNat (if cvtSrc64 r then 2 else 1) (fun sr x => cvtOp t r (rmOf sr m) x))

def execFadd16 (d q : BitVec 5) (s : State) : Out := .next (s.lane2 4 1 (short7 d) (short7 d) (short7 q) (faddW 0))
def execFmul16 (d q : BitVec 5) (s : State) : Out := .next (s.lane2 4 1 (short7 d) (short7 d) (short7 q) (fmulW 0))
def execFmin16 (d q : BitVec 5) (s : State) : Out := .next (s.lane2 4 1 (short7 d) (short7 d) (short7 q) (fminmaxW false false))
def execFmax16 (d q : BitVec 5) (s : State) : Out := .next (s.lane2 4 1 (short7 d) (short7 d) (short7 q) (fminmaxW true false))

end Sys2Proof.Machine
end

