-- ==== Sys2Proof/Machine/Control.lean ====
section
/-!
DEFINITION. Runs and control: RUNH and RUNT (R144, R145, R152-R154, R168), branches (R194, R195), TRAP, BKPT, YIELD, ERET
(R196, R363, R368), NOP and STALL (R148), SIGN and CVSET (R197, R287).
-/

namespace Sys2Proof.Machine

-- Headers.

/-- The words of a body or trailer from an address on, or the first failure (R145). -/
def State.fetchWords (s : State) (x : Xlat) (va : DWord) : Nat → Except (FetchErr × DWord) (List (BitVec 32) × DWord)
  | 0 => .ok ([], va)
  | n + 1 =>
    match s.fetchWord x va with
    | .error e => .error e
    | .ok w =>
      match State.fetchWords s x (va + BitVec.ofNat 64 (wordLen w)) n with
      | .error e => .error e
      | .ok (ws, a) => .ok (w :: ws, a)

/-- A word is RUNH or RUNT by its major. -/
def isHT (w : BitVec 32) : Bool := let x := w.toNat % 128; x == 1 || x == 3

/-- A word is branch-class by its major and func (R161), whatever its other fields hold: R168 lists a branch-class instruction that is not last
with the errors of the header and malformed fields with those of the instruction, and the spec does not say which a malformed one that is not
last is. The model takes the header's (log 57). -/
def isBranch (w : BitVec 32) : Bool :=
  let m := w.toNat % 128
  m == 5 || m == 7 || (m == 13 && bit w.toNat 10)

/-- A word is a cross-thread instruction (R193): ELECT, SHFL or major 0x29. -/
def isCross (w : BitVec 32) : Bool :=
  let m := w.toNat % 128
  m == 0x51 || m == 0x53 || (m == 0x0B && bits w.toNat 10 9 == 2)

/-- A trailer word is as R154 asks: every code at most 111. R151 makes illegal only an instruction that names a register at or above the team's
declaration; a trailer that names one is accepted, and names a register that no instruction of the team can write (log 58). -/
def trailerWord (w : BitVec 32) : Bool :=
  match wordInstr w with
  | some (.runt c0 c1 c2 cnt) => trailerOk cnt c0 c1 c2
  | _ => false

/-- The structure of a run's words (R168). -/
def runOk (body : List (BitVec 32)) (trl : Option (BitVec 32)) : Bool :=
  body.all (fun w => !isHT w) && body.dropLast.all (fun w => !isBranch w) && trl.all trailerWord

/-- Threads put aside for this clock: they form a group again later (R42). -/
def Team.aside (tm : Team) (tids : List Nat) : Team :=
  tids.foldl (fun tm tid => (tm.leave tid).updThread tid (fun th => { th with held := true })) tm

/-- A trap detected at a header by some threads of a group (R168, R360): no mid-run record. A thread still owed a result waits
for it first (R359), and all of them for the grant of the handler's page (R98). -/
def State.trapHeader (s : State) (t : Nat) (hdr : DWord) (tids : List Nat) (tr : Trap) : State :=
  match s.team? t with
  | none => s
  | some tm =>
    match s.handlerWait tm with
    | some pa => (s.askGrant pa false).updTeam t (fun tm => tm.aside tids)
    | none =>
      let wait := tids.filter tm.owes
      (tids.filter (fun tid => !wait.contains tid)).foldl (fun s tid => s.enterTrap t tid tr hdr none)
        (s.updTeam t (fun tm => tm.aside wait))

/-- What stands in the way of a run at its header: a trap, or a grant that a fetch still waits for (R98). -/
inductive HdrErr where
  | trap (t : Trap)
  | wait (pa : Nat)
  deriving DecidableEq, Repr

/-- A fetch that fails at a header (R145). -/
def fetchFail (e : FetchErr × DWord) : HdrErr :=
  match e.1 with
  | .bad perm => .trap (.xlat false true perm e.2)
  | .wait pa => .wait pa

/-- The threads of a group meet it: they take the trap, or stand aside until the grant is there. -/
def State.headerFails (s : State) (t : Nat) (hdr : DWord) (tids : List Nat) (e : HdrErr) : State :=
  match e with
  | .trap tr => s.trapHeader t hdr tids tr
  | .wait pa => (s.askGrant pa false).updTeam t (fun tm => tm.aside tids)

/-- A run fetched whole at a header (R145, R168): its body, trailer and the address after it, or the trap of the header. Where a run has
several errors the spec does not say which is reported: here a bad length comes first (the extent of the run hangs on it), then a failed fetch,
then the structure of the words (log 57). -/
def State.fetchRun (s : State) (x : Xlat) (hdr : DWord) (len : Nat) (trl : Bool) :
    Except HdrErr (List (BitVec 32) × Option (BitVec 32) × DWord) :=
  if len = 0 || 24 < len then .error (.trap .illegal)
  else
    match s.fetchWords x (hdr + 4) len with
    | .error e => .error (fetchFail e)
    | .ok (body, a) =>
      if trl then
        match s.fetchWord x a with
        | .error e => .error (fetchFail e)
        | .ok w => if runOk body (some w) then .ok (body, some w, a + 4) else .error (.trap .illegal)
      else if runOk body none then .ok (body, none, a) else .error (.trap .illegal)

/-- The last page that the fetch of a run has read raises the machine-check interrupt when it has no route (R387); the header's own page raises its own
where the header is read. -/
def State.routeRun (s : State) (tm : Team) (hdr : DWord) (len : Nat) (trl : Bool) : State :=
  match s.fetchWords tm.xlat (hdr + 4) len with
  | .ok (_, a) => s.routeCode tm (if trl then a + 2 else a - 2)
  | .error _ => s

/-- The addresses of the cross-thread instructions of a run. -/
def crossAddrs (hdr : DWord) (body : List (BitVec 32)) : List DWord :=
  (List.range body.length).filterMap (fun i => match body[i]? with
    | some w => if isCross w then some (bodyAddr hdr body i) else none
    | none => none)

/-- The live threads of a crew (R193). -/
def Team.mask (tm : Team) (crew : Nat) : List Nat := tm.live.filter (fun tid => tid / 32 == crew)

/-- Every live thread of a crew has reached the instruction (R193). -/
def Team.complete (tm : Team) (crew : Nat) (a : DWord) : Bool := (tm.mask crew).all (fun tid => ((tm.thread tid).arrived a).isSome)

/-- An execution for which no thread of the crew waits at the instruction, because each skipped it or has left it by a trap or an abort (log 63), takes
place with nobody to take a result. -/
def Team.clearSkips (tm : Team) (crew : Nat) (a : DWord) : Team :=
  if tm.complete crew a && (tm.mask crew).all (fun tid => ((tm.thread tid).arrived a).any (fun r => !r.active || r.left)) then
    (tm.mask crew).foldl (fun tm tid => tm.updThread tid (fun th => { th with arrivals := th.arrivals.filter (fun r => r.addr != a) })) tm
  else tm

/-- A thread at a run boundary is to be sent to the yield handler (R352, R368), until the save proceeds. -/
def Team.toSend (tm : Team) (tid : Nat) : Bool :=
  let th := tm.thread tid
  tm.life == .saving && !tm.proceeds && tm.tr.yieldPc != 0 && th.ran && !th.hm && !th.sent && th.mid.isNone

/-- k63 moves to its image, at 0x100 + 504 of the save area, when the first thread is sent, and holds the area VA (R368). While threads of the team
still run its resume handler the image has the program's value already, and keeps it (R369). -/
def State.moveK63 (s : State) (t : Nat) : State :=
  match s.team? t with
  | none => s
  | some tm =>
    if tm.k63out && tm.threads.any (fun th => th.sent) then s
    else
      let s := if tm.k63out then s else s.putArea tm [(0x2F8, 8, (tm.kreg 63).toNat)]
      s.updTeam t (fun tm => { tm with k63out := true, k := FMap.set tm.k 63 (s.areaVa tm) })

/-- A thread sent to the yield handler (R352, R368): an open region aborts with cause preempt first (R279), and its resume record goes into
its block. -/
def State.sendYield (s : State) (t tid : Nat) : State :=
  let s := s.abortRegion t tid 5 0
  match s.team? t with
  | none => s
  | some tm =>
    let s := s.moveK63 t
    let th := tm.thread tid
    let blk := 0x1000 + 128 * tid
    (s.putArea tm [(blk, 8, th.pc.toNat), (blk + 8, 4, b2n th.hm * 256 + 2 ^ 10 + th.p.toNat * 2 ^ 16)]).updTeam t (fun tm => (tm.leave tid).updThread tid (fun th => { (th.goto tm.tr.yieldPc) with sent := true }))

/-- A thread stands at the header where it waited for an execution that it has already reached, and that has still not taken place (R193). -/
def Thread.crossWaits (th : Thread) : Bool :=
  th.crossAt.any (fun w => w.1 == th.pc && w.2.any (fun a => (th.arrived a).isSome))

/-- A thread at a run boundary is sent to the yield handler when it is to be; while its region closes it waits for the end of the closing (R275). -/
def State.boundary (s : State) (t tid : Nat) : State :=
  match s.team? t with
  | none => s
  | some tm =>
    if !tm.toSend tid then s
    else if (tm.thread tid).region.any (fun r => r.stage != 0) then s.updTeam t (fun tm => tm.aside [tid])
    else s.sendYield t tid

/-- The threads of a new group that wait at the header for an execution stay there before anything of the run is fetched again: no trap ends the wait
(R193). An abort of the thread's region and a save still move it (R277, R352). -/
def State.keepCross (s : State) (t gid : Nat) : State :=
  match (s.team? t).bind (fun tm => FMap.get? tm.groups gid) with
  | none => s
  | some g =>
    let s := s.updTeam t (fun tm => g.tids.foldl (fun tm tid =>
      match (tm.thread tid).crossAt with
      | some w => w.2.foldl (fun (tm : Team) a => tm.clearSkips (tid / 32) a) tm
      | none => tm) tm)
    g.tids.foldl (fun (s : State) tid =>
      match s.team? t with
      | none => s
      | some tm =>
        if !(tm.thread tid).crossWaits then s
        else if (tm.thread tid).doomed then s.abortRegion t tid 1 0
        else (s.boundary t tid).updTeam t (fun tm => if tm.toSend tid then tm else if (tm.thread tid).crossWaits then tm.aside [tid] else tm)) s

/-- What a thread meets on reaching a run header, before the run (R277, R352, R364). -/
def State.atHeader (s : State) (t tid : Nat) : State :=
  match s.team? t with
  | none => s
  | some tm =>
    let th := tm.thread tid
    if th.doomed then s.abortRegion t tid 1 0
    else match th.mcheck with
      | (str, va, _) :: rest =>
        if tm.owes tid then s.updTeam t (fun tm => tm.aside [tid])
        else match s.handlerWait tm with
          | some pa => (s.askGrant pa false).updTeam t (fun tm => tm.aside [tid])
          | none => (s.updThread t tid (fun th => { th with mcheck := rest })).trapHeader t th.pc [tid] { cause := 10, info := str, eva := va }
      | [] => s.boundary t tid

/-- A thread skips a run (R153, R193): it reaches the cross-thread instructions of the run and goes on after it, in the next clock at the earliest
(log 11). -/
def Team.skip (tm : Team) (now tid : Nat) (as : List DWord) (next : DWord) : Team :=
  (tm.leave tid).updThread tid (fun th =>
    let th := th.goto next
    { th with due := now + 1, arrivals := th.arrivals ++ as.map (fun a => ⟨a, false, false, 0, 0, false⟩), age := 0 })

/-- The group's team takes the system registers, privilege and root that are in force from this header on (R372, R375). -/
def State.refresh (s : State) (t : Nat) : State :=
  s.updTeam t (fun tm => { tm with eff := s.ctx tm.ctx })

/-- The threads of a group that go on at the header: those that wait for an execution they have already reached stay behind, and what they wait for
is kept with them (R193). -/
def State.waitCross (s : State) (t gid : Nat) (as : List DWord) : State :=
  s.updTeam t (fun tm =>
    match FMap.get? tm.groups gid with
    | none => tm
    | some g =>
      let tm := g.tids.foldl (fun tm tid => as.foldl (fun tm a => tm.clearSkips (tid / 32) a) tm) tm
      let wait := g.tids.filter (fun tid => as.any (fun a => ((tm.thread tid).arrived a).isSome))
      wait.foldl (fun tm tid => tm.updThread tid (fun th => { th with crossAt := some (g.hdr, as) })) (tm.aside wait))

/-- RUNH (R152, R153): what the threads meet at the header, then the traps detected there, then each thread's predicate. -/
def execRunh (len : BitVec 5) (trl : BitVec 1) (pred : BitVec 3) (sense : BitVec 1) (chk : BitVec 1) (s : State) : Out :=
  .next (match s.iss with
  | none => s
  | some c0 =>
    let s := c0.g.tids.foldl (fun s tid => s.atHeader c0.t tid) s
    let s := (s.refresh c0.t)
    match s.iss with
    | none => s
    | some c =>
      let hdr := c.g.hdr
      let x := c.tm.xlat
      let zero := match s.fetchWord x hdr with
        | .ok w => w.toNat / 2 ^ 18 == 0
        | .error _ => true
      match if zero then s.fetchRun x hdr len.toNat (trl == 1) else .error (.trap .illegal) with
      | .error e => (if zero && len.toNat ≤ 24 then s.routeRun c.tm hdr len.toNat (trl == 1) else s).headerFails c.t hdr c.g.tids e
      | .ok (body, tw, next) =>
        let s := s.routeCode c.tm (next - 2)
        let as := crossAddrs hdr body
        let s := s.waitCross c.t c.gid as
        match s.iss with
        | none => s
        | some c =>
          let wait := if pred = 7 then [] else c.g.tids.filter (fun tid => c.tm.pending tid (.p pred.toNat))
          let s := s.updTeam c.t (fun tm => tm.aside wait)
          match s.iss with
          | none => s
          | some c =>
            let go := c.g.tids.filter (fun tid => c.pred s tid pred.toNat != (sense == 1))
            let skip := c.g.tids.filter (fun tid => !go.contains tid)
            let s := s.updTeam c.t (fun tm => skip.foldl (fun tm tid => tm.skip s.clock tid as next) tm)
            let stamp := s.freeCtr
            let s := { s with freeCtr := stamp + 1 }
            if go.isEmpty then s
            else s.updTeam c.t (fun tm =>
              let tm := go.foldl (fun tm tid => tm.updThread tid (fun th => { th with t := [], stamp, npc := next, nmid := none })) tm
              let on := c.tm.eff.sr.check.getLsbD 0 || chk == 1
              tm.updGroup c.gid (fun g => { g with tids := go, body, trl := tw, next, chk := on, idx := 0, dist := 0, due := s.clock, log := [], held := false })))

/-- RUNT (R154): the run ends; the named registers are scoreboarded. -/
def execRunt (c0 c1 c2 : BitVec 7) (cnt : BitVec 4) (s : State) : Out :=
  .next (match s.iss with
  | none => s
  | some c => s.endRun c.t c.gid (([c0, c1, c2].take cnt.toNat).map (fun x => .v x.toNat)))

-- Branches. Each sets where its threads go on when the run ends.

/-- Every thread of the group goes on at its own address after the run. -/
def State.branch (s : State) (c : Iss) (f : Nat → DWord) : State :=
  (s.updTeam c.t (fun tm => c.g.tids.foldl (fun tm tid => tm.updThread tid (fun th => { th with npc := f tid })) tm)).advance c.t c.gid 1

/-- R194. -/
def execBra (cond : BitVec 4) (sense : BitVec 1) (off : BitVec 20) (s : State) : Out :=
  let u : Use := if cond.toNat < 8 then Use.psrc cond.toNat else ⟨[.kf], [], 0, false⟩
  .next (s.gate u (fun s c =>
    let target := c.g.addr + (off.signExtend 64) * 2
    s.branch c (fun tid =>
      let x := if cond.toNat < 8 then c.pred s tid cond.toNat else bit (c.kf s) (cond.toNat - 8)
      if x != (sense == 1) then target else c.g.next)))

/-- R195: the pair takes the address after the run. -/
def execCall (v : BitVec 7) (imm : BitVec 16) (s : State) : Out :=
  .next (s.gate (Use.dst v.toNat 2) (fun s c =>
    let target := c.g.addr + (imm.signExtend 64) * 2
    let s := s.writeRegs c.t c.gid 0 (c.g.tids.flatMap (fun tid => (dstWrites64 tid v.toNat c.g.next).dropLast))
    s.branch c (fun _ => target)))

/-- R195. -/
def execRet (v : BitVec 7) (s : State) : Out :=
  .next (s.gate (Use.src v.toNat 2) (fun s c => s.branch c (fun tid => c.src64 s tid v.toNat)))

/-- R195. -/
def execJmpk (k : BitVec 6) (s : State) : Out :=
  .next (s.gate (Use.ksrc k.toNat 1) (fun s c => s.branch c (fun _ => c.k s k.toNat)))

/-- A thread that ends: a trap record that it has not returned from is dropped (R371). -/
def Thread.ended (th : Thread) : Thread :=
  { th with exited := true, held := false, hm := false, trMid := none, epc := 0, ecause := 0, eva := 0 }

/-- R195: the threads end; machine checks that they have still to take go to the context (R364). -/
def execExit (s : State) : Out :=
  .next (s.gate {} (fun s c =>
    ((s.orphanChecks c.t c.g.tids).updTeam c.t (fun tm => c.g.tids.foldl (fun tm tid => tm.updThread tid (fun th => if th.hm then th.ended else { th with exited := true, held := false })) tm)).advance
      c.t c.gid 1))

-- Traps by instruction (R196).

def execTrap (_st : BitVec 2) (n : BitVec 21) (s : State) : Out :=
  .next (s.gate {} (fun s c => s.trapThreads c.t c.gid 1 (c.g.tids.map (fun tid => (tid, { cause := 8, info := n.toNat })))))

def execBkpt (_st : BitVec 2) (n : BitVec 21) (s : State) : Out :=
  .next (s.gate {} (fun s c => s.trapThreads c.t c.gid 0 (c.g.tids.map (fun tid => (tid, { cause := 9, info := n.toNat })))))

/-- YIELD (R363, R368): illegal outside a yield handler; forbidden inside a region (R278). -/
def execYield (st : BitVec 2) (s : State) : Out :=
  .next (s.forbiddenFree {} (fun s c =>
    s.splitTraps c (fun tid => let th := c.tm.thread tid; if !th.sent || th.yielded then some .illegal else none) (fun s c =>
      (s.updTeam c.t (fun tm => c.g.tids.foldl (fun tm tid => tm.updThread tid (fun th => { th with yielded := true })) tm)).advance
        c.t c.gid (gapOf st))))

/-- The record of a thread's block in the save area (R367): pc and mid-run record. -/
def State.blockRecord (s : State) (tm : Team) (tid : Nat) : DWord × Option Mid :=
  let a := s.areaPa tm + 0x1000 + 128 * tid
  let pc : DWord := BitVec.ofNat 64 (s.mem.num a 8)
  let st := s.mem.num (a + 8) 4
  let mid : Option Mid :=
    if bit st 2 then some ⟨pc, bits st 7 3, (List.range 8).map (fun n => BitVec.ofNat 32 (s.mem.num (a + 0x10 + 4 * n) 4)), BitVec.ofNat 32 (s.mem.num (a + 0xC) 4)⟩
    else none
  (pc, mid)

/-- The machine check of a thread whose ERET reads its resume record, or the last one the image of k63, where a data error lies (R364, R369). -/
def State.blockError (s : State) (c : Iss) (tid : Nat) : Option Trap :=
  let th := c.tm.thread tid
  if th.hm || !th.rr then none
  else
    let off := 0x1000 + 128 * tid
    let last := (List.range c.tm.threads.length).all (fun i => let o := c.tm.thread i; !o.rr || o.exited || (c.g.tids.contains i && !o.hm))
    match s.poisoned (s.areaPa c.tm + off) 0x30, (if last then s.poisoned (s.areaPa c.tm + 0x2F8) 8 else none) with
    | some str, _ => some { cause := 10, info := str, eva := s.areaVa c.tm + BitVec.ofNat 64 off }
    | none, some str => some { cause := 10, info := str, eva := s.areaVa c.tm + 0x2F8 }
    | none, none => none

/-- The page that ERET.skip has to read for the length of a thread's run and that is not granted yet (R98, R363). -/
def State.skipWait (s : State) (tm : Team) (tid : Nat) : Option Nat :=
  let th := tm.thread tid
  (if th.hm then th.trMid else (s.blockRecord tm tid).2).bind (fun m =>
    match s.fetchWord tm.xlat m.hdr with
    | .error (.wait pa, _) => some pa
    | _ => none)

/-- The body length of the run at a header, as its word says. -/
def State.lenAt (s : State) (x : Xlat) (hdr : DWord) : Nat :=
  match s.fetchWord x hdr with
  | .ok w => bits w.toNat 11 7
  | .error _ => 0

/-- A return by one thread (R363): the trap record when hm, the resume record when rr. A run that it goes back into is none of the results that
the handler's run is owed (R160). An exited thread whose rr is 1 does not keep k63 from its image (log 44). -/
def State.eretThread (s : State) (t tid : Nat) (skip : Bool) : State :=
  match s.team? t with
  | none => s
  | some tm =>
    let th := tm.thread tid
    let (pc, mid) := if th.hm then (th.epc, th.trMid) else s.blockRecord tm tid
    let mid := mid.map (fun m => if skip && decide (m.off < s.lenAt tm.xlat m.hdr) then { m with off := m.off + 1 } else m)
    let pc := (mid.map (fun m => m.hdr)).getD pc
    let s := if skip && mid.isSome then s.routeCode tm pc else s
    let s := s.updThread t tid (fun th =>
      { th with npc := pc, nmid := mid, stamp := if mid.isSome then s.freeCtr else th.stamp, hm := false, rr := if th.hm then th.rr else false })
    if th.hm then s
    else s.updTeam t (fun tm =>
      if tm.threads.any (fun th => th.rr && !th.exited) then tm
      else { tm with k := FMap.set tm.k 63 (BitVec.ofNat 64 (s.mem.num (s.areaPa tm + 0x2F8) 8)), k63out := false })

/-- ERET and ERET.skip (R363). A thread with neither hm nor rr takes ILLEGAL; one whose record cannot be read without error, a machine check. -/
def State.eret (s : State) (gap : Nat) (skip : Bool) : State :=
  s.gate {} (fun s c =>
    s.splitTraps c (fun tid => let th := c.tm.thread tid; if !th.hm && !th.rr then some .illegal else s.blockError c tid) (fun s c =>
      match (if skip then c.g.tids.findSome? (s.skipWait c.tm) else none) with
      | some pa => (s.askGrant pa false).hold c.t c.gid
      | none => (c.g.tids.foldl (fun s tid => s.eretThread c.t tid skip) s).advance c.t c.gid gap))

def execEret (st : BitVec 2) (s : State) : Out := .next (s.eret (gapOf st) false)
def execEretSkip (st : BitVec 2) (s : State) : Out := .next (s.eret (gapOf st) true)

-- NOP, STALL, convergence registers.

def execNop (s : State) : Out := .next (s.gate {} (fun s c => s.advance c.t c.gid 1))
def execStall (n : BitVec 5) (s : State) : Out := .next (s.gate {} (fun s c => s.advance c.t c.gid n.toNat))

/-- One signature (R287): none when nothing is expected; the thread waits when the register is full. R287 names the matrix operation as what lets
it sign; a CVSET that resets the count lets it sign too, as SIGN looks at the register as it then is (log 38). -/
def Team.sign (tm : Team) (tid n : Nat) : Team :=
  let (e, k) := FMap.getD tm.cv n (0, 0)
  if (tm.thread tid).part then tm
  else if e = 0 then tm.updThread tid (fun th => { th with part := true })
  else if k < e then { tm with cv := FMap.set tm.cv n (e, k + 1) }.updThread tid (fun th => { th with part := true })
  else tm

/-- SIGN (R197, R287): threads sign in ascending order; the group waits while one of them cannot. -/
def execSign (st : BitVec 2) (n : BitVec 3) (s : State) : Out :=
  .next (s.gate {} (fun s c =>
    if c.tm.tr.cv ≤ n.toNat then s.trapAll c.t c.gid c.g .illegal
    else
      let s := s.updTeam c.t (fun tm => (sortNat c.g.tids).foldl (fun tm tid => tm.sign tid n.toNat) tm)
      match s.iss with
      | none => s
      | some c =>
        if c.g.tids.all (fun tid => (c.tm.thread tid).part) then
          (s.updTeam c.t (fun tm => c.g.tids.foldl (fun tm tid => tm.updThread tid (fun th => { th with part := false })) tm)).advance
            c.t c.gid (gapOf st)
        else s.hold c.t c.gid))

/-- CVSET (R197). -/
def execCvset (st : BitVec 2) (n : BitVec 3) (i : BitVec 11) (s : State) : Out :=
  .next (s.gate {} (fun s c =>
    if c.tm.tr.cv ≤ n.toNat then s.trapAll c.t c.gid c.g .illegal
    else (s.updTeam c.t (fun tm => { tm with cv := FMap.set tm.cv n.toNat (i.toNat, 0) })).advance c.t c.gid (gapOf st)))

end Sys2Proof.Machine
end

