-- ==== Sys2Proof/Machine/Later.lean ====
section
/-!
DEFINITION. Accesses behind an acquire of variable latency (R393): the instruction issues, and the accesses of the threads whose acquires have not
taken effect are held. The gates of the instructions that make accesses of R101.
-/

namespace Sys2Proof.Machine

/-- Some threads of the issuing group alone at its instruction, in a run that goes on after it. -/
def State.only (s : State) (c : Iss) (tids : List Nat) : State × Iss :=
  let g : Group := { c.g with tids, body := c.g.body ++ [0x8000] }
  (s.updGroup c.t c.gid (fun _ => g), { c with g, tm := c.tm.updGroup c.gid (fun _ => g) })

/-- A group of a team. -/
def State.group? (s : State) (t gid : Nat) : Option Group := (s.team? t).bind (fun tm => FMap.get? tm.groups gid)

/-- The registers that an instruction writes: those of its use, and L where it gives it (R160). -/
def Iss.results (c : Iss) (u : Use) : List Reg :=
  (u.wr ++ (if (c.g.body[c.g.idx]?).any givesL then [Reg.t 8] else [])).foldl (fun l r => if l.contains r then l else l ++ [r]) []

/-- An access of some threads is held (R393): its results are owed to them under its name, those of the team to the first of them, and what it executes
from later is noted. -/
def State.keepAccess (s : State) (c : Iss) (u : Use) (i : Instr) (tlb : List TlbE) (tids : List Nat) : State :=
  let owner := tids.headD 0
  let ctr := s.freeCtr
  let (id, s) := s.newId
  let rs := (c.results u).map (fun r => (r, (none : Option DWord)))
  let s := (tids.foldl (fun (s : State) tid => s.owe c.t id tid false false (rs.filter (fun r => !r.1.ofTeam))) s).owe c.t id owner true false
    (rs.filter (fun r => r.1.ofTeam)) 0 false tids
  s.updTeam c.t (fun tm => { tm with laters := tm.laters ++
    [⟨id, i, tids.map (fun tid => (tid, c.tm.thread tid)), c.tm.k, c.tm.kf, c.tm.soft, { c.g with tids }, ctr, tlb, (s.ctx c.tm.ctx).gen, c.tm.dieOf⟩] })

/-- The group goes on past an instruction: some of its threads have executed it, the accesses of the others are held. -/
def State.passed (s : State) (c : Iss) (g : Group) (stay : List Nat) (armed : Nat → Bool) : State :=
  let s := s.updTeam c.t (fun tm =>
    let tm := stay.foldl (fun tm tid => tm.updThread tid (fun th => { th.worked with armed := armed tid })) tm
    { tm with groups := FMap.set tm.groups c.gid g })
  if g.idx = g.body.length && g.trl.isNone then s.endRun c.t c.gid [] else s

/-- An access by a group some of whose threads have acquires that have not taken effect (R393): its traps are taken at issue, as by a trial on a copy
of the state; the threads that nothing holds make their accesses; the accesses of the others are held, one for each thread, or one of a
uniform instruction (`whole`), which stands in every thread's program order (R101). -/
def State.holdAccess (s : State) (c : Iss) (whole : Bool) (u : Use) (k : State → Iss → State) : State :=
  let tried := let p := s.only c c.g.tids; k p.1 p.2
  match tried.group? c.t c.gid, (c.g.body[c.g.idx]?).bind wordInstr with
  | some g, some i =>
    let stay := g.tids.filter (fun tid => whole || c.tm.acquiring [tid])
    let now := c.g.tids.filter (fun tid => !stay.contains tid)
    if g.idx = c.g.idx || stay.isEmpty then k s c
    else
      let s' := if now.isEmpty then s.issued c.t else let p := s.only c now; k p.1 p.2
      let on := if now.isEmpty then none else s'.group? c.t c.gid
      let rest := sortNat (stay ++ (on.map (fun h => h.tids)).getD [])
      if on.any (fun h => h.idx == c.g.idx) then s'.updGroup c.t c.gid (fun h => { c.g with tids := rest, held := h.held })
      else
        let tlb := (tried.die c.tm.dieOf).tlb.filter (fun e => e.ctx == c.tm.ctx || e.g)
        let parts := if whole then [stay] else stay.map (fun tid => [tid])
        (parts.foldl (fun (s : State) p => s.keepAccess c u i tlb p) s').passed c { g with tids := rest, body := c.g.body, log := c.g.log } stay
          (fun tid => (tried.team? c.t).any (fun tm => (tm.thread tid).armed))
  | _, _ => k s c

/-- A thread of the group has a fence's release waiting for its next store or atomic (R129). -/
def Iss.armed (c : Iss) : Bool := c.g.tids.any (fun tid => (c.tm.thread tid).armed)

/-- The fence's release is spent. -/
def State.disarm (s : State) (c : Iss) : State :=
  s.updTeam c.t (fun tm => c.g.tids.foldl (fun tm tid => tm.updThread tid (fun th => { th with armed := false })) tm)

/-- An access that cannot be made yet, for a line, a grant, a page of scratch or a release on its way, does not hold the issue (R42): it issues, its
results are owed, and it is made later, each thread's alone where `apart`, and alone where an acquire of its thread comes first (R393). `spend` says
that it takes a fence's release with it (R129). -/
def State.defer (s : State) (c : Iss) (u : Use) (gap : Nat) (spend : Bool := false) (apart : Bool := false) : State :=
  match (c.g.body[c.g.idx]?).bind wordInstr with
  | none => s.hold c.t c.gid
  | some i =>
    let tlb := (s.die c.tm.dieOf).tlb.filter (fun e => e.ctx == c.tm.ctx || e.g)
    let alone := c.g.tids.filter (fun tid => apart || c.tm.acquiring [tid])
    let rest := c.g.tids.filter (fun tid => !alone.contains tid)
    let parts := (if rest.isEmpty then [] else [rest]) ++ (sortNat alone).map (fun tid => [tid])
    (parts.foldl (fun (s : State) p => s.keepAccess c u i tlb p)
      (if spend then s.disarm c else s)).advance c.t c.gid gap

/-- An instruction that is no access of R101 but acts on what its threads' accesses act on comes after those of them that are on their way (R42), unless
an acquire holds them, which does not hold it (R393). -/
def State.inTurn (s : State) (c : Iss) (u : Use) (gap : Nat) (k : State → State) : State :=
  if (c.tm.acquires c.g.tids).isEmpty && c.acquiring then s.defer c u gap else k s

/-- The gate of an instruction that makes an access of R101: behind an acquire of its threads the access is held (R393). -/
def State.gateMem (s : State) (u : Use) (k : State → Iss → State) (whole : Bool := false) : State :=
  s.gateFree u (fun s c => if c.acquiring then s.holdAccess c whole u k else k s c)

/-- The effect of an access that R278 forbids inside a region. -/
def State.forbidden (s : State) (u : Use) (k : State → Iss → State) (whole : Bool := false) : State :=
  s.gateMem u (fun s c => s.outside c k) whole

/-- The one or the other: whether the instruction accesses memory or releases (R101, R393). -/
def State.forbiddenAs (s : State) (acc : Bool) (u : Use) (k : State → Iss → State) : State :=
  if acc then s.forbidden u k else s.forbiddenFree u k

end Sys2Proof.Machine
end

