-- ==== Sys2Proof/Machine/Uniform.lean ====
section
/-!
DEFINITION. The uniform instructions (R192, R198-R203): K3, KADDI, KLDI, KLD, KST, KRD, KWR, KMOVV.
-/

namespace Sys2Proof.Machine

def execKadd (st : BitVec 2) (d a b : BitVec 6) (s : State) : Out := .next (s.k2 st d a b (· + ·))
def execKsub (st : BitVec 2) (d a b : BitVec 6) (s : State) : Out := .next (s.k2 st d a b (· - ·))
def execKmul (st : BitVec 2) (d a b : BitVec 6) (s : State) : Out := .next (s.k2 st d a b (· * ·))
def execKand (st : BitVec 2) (d a b : BitVec 6) (s : State) : Out := .next (s.k2 st d a b (· &&& ·))
def execKor (st : BitVec 2) (d a b : BitVec 6) (s : State) : Out := .next (s.k2 st d a b (· ||| ·))
def execKxor (st : BitVec 2) (d a b : BitVec 6) (s : State) : Out := .next (s.k2 st d a b (· ^^^ ·))
def execKshl (st : BitVec 2) (d a b : BitVec 6) (s : State) : Out := .next (s.k2 st d a b (fun x y => x <<< (y.toNat % 64)))
def execKshr (st : BitVec 2) (d a b : BitVec 6) (s : State) : Out := .next (s.k2 st d a b (fun x y => x >>> (y.toNat % 64)))
def execKsar (st : BitVec 2) (d a b : BitVec 6) (s : State) : Out := .next (s.k2 st d a b (fun x y => x.sshiftRight (y.toNat % 64)))
def execKmin (st : BitVec 2) (d a b : BitVec 6) (s : State) : Out := .next (s.k2 st d a b minS)
def execKmax (st : BitVec 2) (d a b : BitVec 6) (s : State) : Out := .next (s.k2 st d a b maxS)
def execKminn (st : BitVec 2) (d a b : BitVec 6) (s : State) : Out := .next (s.k2 st d a b minU)
def execKmaxn (st : BitVec 2) (d a b : BitVec 6) (s : State) : Out := .next (s.k2 st d a b maxU)

/-- The flags KCMP writes (R198, R199). -/
def kcmpFlags (a b : DWord) : BitVec 4 :=
  BitVec.ofNat 4 (b2n (a == b) + 2 * b2n (decide (a.toInt < b.toInt)) + 4 * b2n (decide (a.toNat < b.toNat)) + 8 * b2n (a == 0))

def execKcmp (st : BitVec 2) (a b : BitVec 6) (s : State) : Out :=
  .next (s.gate (((Use.ksrc a.toNat 1).add (Use.ksrc b.toNat 1)).add ⟨[], [.kf], 0, false⟩) (fun s c =>
    (s.writeRegs c.t c.gid 2 [(0, .kf, (kcmpFlags (c.k s a.toNat) (c.k s b.toNat)).setWidth 64)]).advance c.t c.gid (gapOf st)))

/-- R200. -/
def execKaddi (st : BitVec 2) (d a : BitVec 6) (i : BitVec 11) (s : State) : Out :=
  .next (s.uniform (gapOf st) (Use.ksrc a.toNat 1) d.toNat (fun c => c.k s a.toNat + i.signExtend 64))

/-- R201. -/
def execKldi (d : BitVec 6) (h : BitVec 2) (k : BitVec 1) (i : BitVec 16) (s : State) : Out :=
  .next (s.uniform 1 (if k = 1 then Use.ksrc d.toNat 1 else {}) d.toNat (fun c =>
    if k = 0 then i.setWidth 64 <<< (16 * h.toNat)
    else BitVec.ofNat 64 (setBits (c.k s d.toNat).toNat (16 * h.toNat) 16 i.toNat)))

/-- The address of KLD and KST (R202). -/
def kAddr (base : DWord) (o : BitVec 6) (w : BitVec 2) : DWord := base + o.signExtend 64 * BitVec.ofNat 64 (2 ^ w.toNat)

/-- KLD (R202): one load of the team through the uniform data cache. -/
def execKld (st : BitVec 2) (d a o : BitVec 6) (w h : BitVec 2) (s : State) : Out :=
  let u := (Use.ksrc a.toNat 1).add (Use.kdst d.toNat 1)
  .next (s.gateMem u (fun s c =>
    let va := kAddr (c.k s a.toNat) o w
    let n := 2 ^ w.toNat
    if va.toNat % n ≠ 0 then s.trapAll c.t c.gid c.g (.align false va)
    else match s.xlate c.tm.xlat true va .read with
      | .error perm => s.trapAll c.t c.gid c.g (.xlat false false perm va)
      | .ok e =>
        let pa := paOf e va
        match s.poisoned pa n with
        | some str => s.trapAll c.t c.gid c.g { cause := 10, info := str, eva := va }
        | none =>
          match (s.fillTlb c.tm.xlat va e).uload c.tm.core c.tm.ctx e (isNc c.tm.eff.sr va) va.toNat pa n h.toNat with
          | (none, s) => s.defer c u (gapOf st)
          | (some bs, s) =>
            let (id, s) := s.newId
            ((s.noRoute c.tm.dieOf c.tm.ctx pa).owe c.t id c.low true false [(.k d.toNat, some (BitVec.ofNat 64 (leNat bs)))] 0 false c.g.tids).advance c.t c.gid (gapOf st))
    (whole := true))

/-- A store of the group's threads lies in a line of a non-coherent range until CFLUSH or eviction takes it home (R103). -/
def State.ncStored (s : State) (c : Iss) (line : Nat) : State :=
  s.updTeam c.t (fun tm => c.g.tids.foldl (fun tm tid => tm.updThread tid (fun th => { th with ncs := (th.ncs.filter (· != (c.tm.core, line))) ++ [(c.tm.core, line)] })) tm)

/-- KST (R202): one store of the team through the uniform data cache; a release first where a fence asks for it (R129). -/
def execKst (st : BitVec 2) (d a o : BitVec 6) (w h : BitVec 2) (s : State) : Out :=
  let u := (Use.ksrc a.toNat 1).add (Use.ksrc d.toNat 1)
  .next (s.forbidden u (fun s c =>
    let va := kAddr (c.k s a.toNat) o w
    let n := 2 ^ w.toNat
    if va.toNat % n ≠ 0 then s.trapAll c.t c.gid c.g (.align true va)
    else match s.xlate c.tm.xlat true va .write with
      | .error perm => s.trapAll c.t c.gid c.g (.xlat true false perm va)
      | .ok e =>
        if c.armed && !s.canRelease c.tm.core then (s.fillTlb c.tm.xlat va e).defer c u (gapOf st) true
        else
          let s := if c.armed then (s.release c.tm.core).disarm c else s
          let pa := paOf e va
          match (s.fillTlb c.tm.xlat va e).ustore c.tm.core c.tm.ctx e (isNc c.tm.eff.sr va) va.toNat pa (natLe n (c.k s d.toNat).toNat) h.toNat with
          | (true, s) => s.defer c u (gapOf st)
          | (false, s) =>
            let s := if isNc c.tm.eff.sr va && isMem pa && h != 2 then s.ncStored c (pa / 128) else s
            s.advance c.t c.gid (gapOf st)) (whole := true))

/-- The value KRD reads (R203). -/
def krdValue (tm : Team) (kf : Nat) (sel : Nat) : DWord :=
  match sel with
  | 0 => tm.kexc.setWidth 64
  | 1 => BitVec.ofNat 64 kf
  | 6 => BitVec.ofNat 64 (tm.core % 1024 + tm.slot * 1024)
  | 7 => if tm.cell.isSome then 0 else BitVec.ofNat 64 tm.grid.1
  | 8 => if tm.cell.isSome then 0 else BitVec.ofNat 64 tm.grid.2.1
  | 9 => if tm.cell.isSome then 0 else BitVec.ofNat 64 tm.grid.2.2
  | 10 => match tm.cell with
    | some (_, c) => BitVec.ofNat 64 c
    | none => BitVec.allOnes 64
  | n => BitVec.ofNat 64 (FMap.getD tm.cnt (n - 2) 0)

def execKrd (st : BitVec 2) (k : BitVec 6) (e : BitVec 8) (s : State) : Out :=
  .next (s.uniform (gapOf st) (if e = 1 then ⟨[.kf], [], 0, false⟩ else {}) k.toNat (fun c =>
    krdValue c.tm (if e = 1 then c.kf s else 0) e.toNat))

/-- KWR (R203): takes effect at issue; flags whose result is not complete before this clock stay set (R72). -/
def execKwr (st : BitVec 2) (k : BitVec 6) (e : BitVec 8) (s : State) : Out :=
  .next (s.gate ((Use.ksrc k.toNat 1).add (if e = 1 then ⟨[], [.kf], 0, false⟩ else {})) (fun s c =>
    let x := c.k s k.toNat
    let s := if e = 0 then s.updTeam c.t (fun tm => { tm with kexc := x.setWidth 5 ||| tm.freshFlags s.clock })
      else s.writeRegs c.t c.gid 0 [(0, .kf, x &&& 0xF)]
    s.advance c.t c.gid (gapOf st)))

/-- KMOVV (R203). -/
def execKmovv (st : BitVec 2) (k : BitVec 6) (v : BitVec 7) (s : State) : Out :=
  .next (s.uniform (gapOf st) (Use.src v.toNat 1) k.toNat (fun c => (c.src s c.low v.toNat).setWidth 64))

end Sys2Proof.Machine
end

