-- ==== Sys2Proof/Machine/Cross.lean ====
section
/-!
DEFINITION. The cross-thread instructions (R19, R166, R193, R219-R222): ELECT, SHFL and major 0x29.
-/

namespace Sys2Proof.Machine

/-- What one execution gives each active thread, from their indices and inputs in ascending order. -/
abbrev CrossFn := SysRegs → List (Nat × Arrival) → List (Nat × XRes)

/-- The active arrivals of a crew at an address, ascending. -/
def Team.actives (tm : Team) (crew : Nat) (a : DWord) : List (Nat × Arrival) :=
  (tm.mask crew).filterMap (fun tid => ((tm.thread tid).arrived a).bind (fun r => if r.active then some (tid, r) else none))

/-- The execution of a crew that has wholly arrived (R19, R193): results for the active threads, arrivals used up. A thread that issued the
instruction and left it by a trap or an abort has reached it: it counts and contributes its values, and takes no result (log 63). -/
def Team.crossExec (tm : Team) (crew : Nat) (a : DWord) (f : CrossFn) : Team :=
  if tm.complete crew a then
    let res := f tm.eff.sr (tm.actives crew a)
    let gone := ((tm.actives crew a).filter (fun r => r.2.left)).map Prod.fst
    let tm := (tm.mask crew).foldl (fun tm tid => tm.updThread tid (fun th => { th with arrivals := th.arrivals.filter (fun r => r.addr != a) })) tm
    (res.filter (fun r => !gone.contains r.1)).foldl (fun tm r => tm.updThread r.1 (fun th => { th with xres := some r.2 })) tm
  else tm

/-- The register writes of a result: d by its code, L, or the predicate. -/
def XRes.writes (r : XRes) (tid d : Nat) : List (Nat × Reg × DWord) :=
  (match r.d with | some x => (dstWrites tid d x).dropLast | none => []) ++
  (match r.l with | some x => [(tid, .t 8, x.setWidth 64)] | none => []) ++
  (match r.p with | some x => [(tid, .p d, BitVec.ofNat 64 (b2n x))] | none => [])

/-- A cross-thread instruction by one group: its threads arrive with their inputs (one that a handler returns to the instruction before its
execution has taken place arrives there again in place of the first time: log 63), crews that are complete execute, and the
group goes on when each of its threads has its result (R19, R193). -/
def State.cross (s : State) (u : Use) (lat gap d : Nat) (inp : Iss → Nat → Word × Word × Bool) (f : CrossFn) : State :=
  s.gate u (fun s c =>
    let a := c.g.addr
    let s := s.updTeam c.t (fun tm =>
      let tm := c.g.tids.foldl (fun tm tid =>
        let th := tm.thread tid
        if th.stays a then tm
        else
          let (x, y, p) := inp c tid
          tm.updThread tid (fun th => { th with arrivals := th.arrivals.filter (fun r => r.addr != a) ++ [⟨a, true, false, x, y, p⟩] })) tm
      (dedup (c.g.tids.map (· / 32))).foldl (fun tm crew => tm.crossExec crew a f) tm)
    match s.iss with
    | none => s
    | some c =>
      if c.g.tids.all (fun tid => (c.tm.thread tid).xres.isSome) then
        let res := c.g.tids.map (fun tid => (tid, ((c.tm.thread tid).xres).getD {}))
        let s := s.updTeam c.t (fun tm => c.g.tids.foldl (fun tm tid => tm.updThread tid (fun th => { th with xres := none })) tm)
        let s := s.writeRegs c.t c.gid lat (res.flatMap (fun r => r.2.writes r.1 d))
        let s := s.raiseFlags c lat (res.foldl (fun x r => x ||| r.2.fl) 0)
        s.advance c.t c.gid gap
      else s.hold c.t c.gid)

/-- A 32-bit result for d and L. -/
def XRes.word (x : Word) (fl : BitVec 5 := 0) : XRes := { d := some x, l := some x, fl }

/-- ELECT (R166, R197). -/
def electFn : CrossFn := fun _ l => l.map (fun r => (r.1, { p := some (some r.1 == (l.head?).map Prod.fst) }))

def execElect (st : BitVec 2) (p : BitVec 3) (s : State) : Out :=
  .next (s.cross (Use.pdst p.toNat) 2 (gapOf st) p.toNat (fun _ _ => (0, 0, false)) electFn)

/-- The source thread of SHFL by mode (R219), as an exact integer. -/
def shflSrc (m : BitVec 2) (i : Nat) (b : Word) : Int :=
  if m = 0 then b.toNat else if m = 1 then (i : Int) - b.toNat else if m = 2 then (i : Int) + b.toNat else (i ^^^ b.toNat : Nat)

def shflFn (m : BitVec 2) : CrossFn := fun _ l =>
  l.map (fun r =>
    let src := shflSrc m (r.1 % 32) r.2.b
    let got := l.find? (fun q => decide (0 ≤ src) && (q.1 % 32 == src.toNat))
    (r.1, .word ((got.map (fun q => q.2.a)).getD r.2.a)))

def execShfl (st : BitVec 2) (m : BitVec 2) (d a b : BitVec 7) (s : State) : Out :=
  .next (s.cross ((Use.dst d.toNat 1).add ((Use.src a.toNat 1).add (Use.src b.toNat 1))) 8 (gapOf st) d.toNat
    (fun c tid => (c.src s tid a.toNat, c.src s tid b.toNat, false)) (shflFn m))

/-- The mask of the active threads that a test selects, by crew index. -/
def crossMask (l : List (Nat × Arrival)) (f : Arrival → Bool) : Word :=
  l.foldl (fun (m : Word) r => if f r.2 then m ||| (1 <<< (r.1 % 32)) else m) 0

def voteFn (op : Nat) : CrossFn := fun _ l =>
  let x : Word := if op = 0 then BitVec.ofNat 32 (b2n (l.any (fun r => r.2.p))) else if op = 1 then BitVec.ofNat 32 (b2n (l.all (fun r => r.2.p)))
    else crossMask l (fun r => r.p)
  l.map (fun r => (r.1, .word x))

/-- VOTE, R220. -/
def State.vote (s : State) (op : Nat) (st : BitVec 2) (d : BitVec 7) (p : BitVec 3) : State :=
  s.cross ((Use.dst d.toNat 1).add (Use.psrc p.toNat)) 8 (gapOf st) d.toNat (fun c tid => (0, 0, c.pred s tid p.toNat)) (voteFn op)

def execVoteAny (st : BitVec 2) (d : BitVec 7) (p : BitVec 3) (s : State) : Out := .next (s.vote 0 st d p)
def execVoteAll (st : BitVec 2) (d : BitVec 7) (p : BitVec 3) (s : State) : Out := .next (s.vote 1 st d p)
def execVoteBallot (st : BitVec 2) (d : BitVec 7) (p : BitVec 3) (s : State) : Out := .next (s.vote 2 st d p)

def matchFn : CrossFn := fun _ l => l.map (fun r => (r.1, .word (crossMask l (fun q => q.a == r.2.a))))

/-- A cross-thread instruction with one 32-bit source. -/
def State.cross1 (s : State) (st : BitVec 2) (d a : BitVec 7) (f : CrossFn) : State :=
  s.cross ((Use.dst d.toNat 1).add (Use.src a.toNat 1)) 8 (gapOf st) d.toNat (fun c tid => (c.src s tid a.toNat, 0, false)) f

def execMatchAny (st : BitVec 2) (d a : BitVec 7) (s : State) : Out := .next (s.cross1 st d a matchFn)

/-- The combining operation of CRED and CSCAN (R221): 0 add, 1 min, 2 max, by type 0 i32, 1 n32, 2 f32. -/
def credOp (op : Nat) (t : BitVec 2) (sr : SysRegs) (a b : Word) : Word × BitVec 5 :=
  if t = 2 then
    (if op = 0 then faddW 0 sr a b else fminmaxW (op == 2) false sr a b)
  else if op = 0 then (a + b, 0)
  else if t = 0 then (if op = 1 then minS a b else maxS a b, 0)
  else (if op = 1 then minU a b else maxU a b, 0)

/-- The first value taken: a NaN becomes the canonical one (R221). -/
def credFirst (t : BitVec 2) (a : Word) : Word × BitVec 5 :=
  if t = 2 && (Num.ofBits f32 a.toNat).isNan then (0x7FC00000, if (Num.ofBits f32 a.toNat).isSnan then flNv else flNone) else (a, 0)

/-- The running values of R221 with the union of the flags: before and after each thread's value. -/
def credScan (op : Nat) (t : BitVec 2) (sr : SysRegs) (l : List (Nat × Arrival)) : List (Nat × Word × Word) × Word × BitVec 5 :=
  l.foldl (fun (acc : List (Nat × Word × Word) × Word × BitVec 5) r =>
    let (out, v, fl) := acc
    let n := if out.isEmpty then credFirst t r.2.a else credOp op t sr v r.2.a
    (out ++ [(r.1, (if out.isEmpty then 0 else v), n.1)], n.1, fl ||| n.2)) ([], 0, 0)

def credFn (op : Nat) (t : BitVec 2) : CrossFn := fun sr l =>
  let (_, v, fl) := credScan op t sr l
  l.map (fun r => (r.1, .word v fl))

def cscanFn (excl : Bool) (t : BitVec 2) : CrossFn := fun sr l =>
  let (out, _, fl) := credScan 0 t sr l
  out.map (fun r => (r.1, .word (if excl then r.2.1 else r.2.2) fl))

def execCredAdd (st t : BitVec 2) (d a : BitVec 7) (s : State) : Out := .next (s.cross1 st d a (credFn 0 t))
def execCredMin (st t : BitVec 2) (d a : BitVec 7) (s : State) : Out := .next (s.cross1 st d a (credFn 1 t))
def execCredMax (st t : BitVec 2) (d a : BitVec 7) (s : State) : Out := .next (s.cross1 st d a (credFn 2 t))
def execCscanIncl (st t : BitVec 2) (d a : BitVec 7) (s : State) : Out := .next (s.cross1 st d a (cscanFn false t))
def execCscanExcl (st t : BitVec 2) (d a : BitVec 7) (s : State) : Out := .next (s.cross1 st d a (cscanFn true t))

/-- COMPRESS and EXPAND (R222). -/
def packFn (expand : Bool) : CrossFn := fun _ l =>
  let sel := l.filter (fun r => r.2.p)
  let c : Word := BitVec.ofNat 32 sel.length
  let dstL := if expand then sel else l
  let srcL := if expand then l else sel
  l.map (fun r =>
    let got := (List.range sel.length).findSome? (fun k => if (dstL[k]?).map Prod.fst = some r.1 then (srcL[k]?).map (fun q => q.2.a) else none)
    (r.1, { d := got, l := some c }))

def State.pack (s : State) (expand : Bool) (st : BitVec 2) (d a : BitVec 7) (p : BitVec 3) : State :=
  s.cross ((Use.dst d.toNat 1).add ((Use.src a.toNat 1).add (Use.psrc p.toNat))) 8 (gapOf st) d.toNat
    (fun c tid => (c.src s tid a.toNat, 0, c.pred s tid p.toNat)) (packFn expand)

def execCompress (st : BitVec 2) (d a : BitVec 7) (p : BitVec 3) (s : State) : Out := .next (s.pack false st d a p)
def execExpand (st : BitVec 2) (d a : BitVec 7) (p : BitVec 3) (s : State) : Out := .next (s.pack true st d a p)

end Sys2Proof.Machine
end

