-- ==== Sys2Proof/Machine/LaneMem.lean ====
section
/-!
DEFINITION. Lane accesses: LDS and STS (R224), ATOMS and ATOMG (R225-R227), futures and queue locks (R228-R230), FENCE
(R249) and PWAIT (R250, R251).
-/

namespace Sys2Proof.Machine

/-- A release that an access must make before its effect: made, or the access is made later (R42). -/
def State.withRelease (s : State) (c : Iss) (u : Use) (gap : Nat) (want : Bool) (k : State → State) : State :=
  if !want then k s
  else if s.canRelease c.tm.core then k ((s.release c.tm.core).disarm c)
  else s.defer c u gap true

/-- A release at an issue cannot be made yet: an acquire of its threads, or an access on its way, has not taken effect, or the core's words cannot go home
(R119, R393). -/
def State.lateIssue (s : State) (c : Iss) (want : Bool) : Bool := want && (c.acquiring || !s.canRelease c.tm.core)

/-- An instruction that issues operations and whose issue is a release (R119). While an acquire of its threads, or an access on its way, has not taken
effect, or the release cannot be made yet, it issues all the same (R42, R393), and each operation waits for the release of its own thread's accesses: `k` is
given the threads that an operation waits for. -/
def State.engineIssue (s : State) (c : Iss) (want : Bool) (k : State → (Nat → List Nat) → State) : State :=
  if s.lateIssue c want then k (s.disarm c) (fun tid => [tid])
  else k (if want then (s.release c.tm.core).disarm c else s) (fun _ => [])

/-- Owed results of a lane instruction, one name for each thread, with the flags that come with them (R226), then the group moves on. -/
def State.oweAll (s : State) (c : Iss) (gap : Nat) (f : Nat → List (Reg × Option DWord)) (fl : BitVec 5 := 0) : State :=
  (c.g.tids.foldl (fun (s : State) tid =>
    let (id, s) := s.newId
    s.owe c.t id tid false false (f tid) fl) s).advance c.t c.gid gap

-- LDS and STS.

/-- Bytes and registers of a width code (R163, R224). -/
def widthBytes (w : BitVec 2) : Nat := 2 ^ (w.toNat + 1)
def widthRegs (w : BitVec 2) : Nat := if w.toNat ≤ 1 then 1 else if w = 2 then 2 else 4

/-- The scratch address of LDS and STS (R224). -/
def scrEa (a : Word) (o : BitVec 7) (w : BitVec 2) : Word := a + o.signExtend 32 * BitVec.ofNat 32 (widthBytes w)

/-- Scratch pages that an access of the group must first pin (R87). -/
def State.pinFirst (s : State) (c : Iss) (u : Use) (gap : Nat) (ea : Nat → Nat) (n : Nat) (k : State) (spend : Bool := false) : State :=
  match c.g.tids.flatMap (fun tid => s.unpinned c.t (ea tid) n) with
  | [] => k
  | ps => (s.askRefill c.t ps).defer c u gap spend

def execLds (st w : BitVec 2) (d a o : BitVec 7) (s : State) : Out :=
  let u := (Use.src a.toNat 1).add (Use.dst d.toNat (widthRegs w))
  .next (s.gateMem u (fun s c0 =>
    let n := widthBytes w
    s.splitTraps c0 (fun tid =>
      let ea := scrEa (c0.src s tid a.toNat) o w
      if ea.toNat % n ≠ 0 then some (.align false (ea.setWidth 64)) else s.scrTrap c0.t ea.toNat n) (fun s c =>
      let ea (tid : Nat) : Nat := (scrEa (c.src s tid a.toNat) o w).toNat
      s.pinFirst c u (gapOf st) ea n (s.oweAll c (gapOf st) (fun tid =>
        resultRegs d.toNat (widthRegs w) (w != 3) (some (leNat (s.scrRead c.t (ea tid) n))))))))

/-- The value of n registers from a code: a register, pair or quad, zero, or the thread index (R150). -/
def Iss.srcNat (c : Iss) (s : State) (tid code n : Nat) : Nat :=
  if n = 1 then (c.src s tid code).toNat
  else if n = 2 then (c.src64 s tid code).toNat
  else if code ≤ 119 then (c.src64 s tid code).toNat + (c.src64 s tid (code + 2)).toNat * 2 ^ 64 else 0

def execSts (st w : BitVec 2) (d a o : BitVec 7) (s : State) : Out :=
  let u := (Use.src a.toNat 1).add (Use.src d.toNat (widthRegs w))
  .next (s.gateMem u (fun s c0 =>
    let n := widthBytes w
    s.splitTraps c0 (fun tid =>
      let ea := scrEa (c0.src s tid a.toNat) o w
      if ea.toNat % n ≠ 0 then some (.align true (ea.setWidth 64)) else none) (fun s c =>
      let ea (tid : Nat) : Nat := (scrEa (c.src s tid a.toNat) o w).toNat
      s.pinFirst c u (gapOf st) ea n (s.withRelease c u (gapOf st) c.armed (fun s =>
        ((sortNat c.g.tids).foldl (fun s tid => s.scrWrite c.t (ea tid) (natLe n (c.srcNat s tid d.toNat (widthRegs w)))) s).advance
          c.t c.gid (gapOf st))) true)))

-- Lane atomics.

/-- f of R225 on values of 8n bits. -/
def atomOp (op bytes : Nat) (sr : SysRegs) (v x y : Nat) : Nat × BitVec 5 :=
  let n := 8 * bytes
  match op with
  | 0 => ((v + x) % 2 ^ n, 0)
  | 1 => ((v + 2 ^ n - x % 2 ^ n) % 2 ^ n, 0)
  | 2 => (if sext n v ≤ sext n x then v else x, 0)
  | 3 => (if sext n v ≤ sext n x then x else v, 0)
  | 4 => (min v x, 0)
  | 5 => (max v x, 0)
  | 6 => (v &&& x, 0)
  | 7 => (v ||| x, 0)
  | 8 => (v ^^^ x, 0)
  | 9 => (x, 0)
  | 10 => let r := fAdd f32 (rmOf sr 0) v x; (r.1, r.2)
  | _ => (if v = x then y else v, 0)

/-- Registers of d that an atomic reads, and that it writes (R225). -/
def atomReads (o : BitVec 5) (z : BitVec 2) : Nat := (if o = 11 then 2 else 1) * (z.toNat + 1)
def atomWrites (z : BitVec 2) : Nat := z.toNat + 1

/-- The operands of an atomic in a thread: x, and for cas the new value (R225, R227). -/
def Iss.atomArgs (c : Iss) (s : State) (tid d : Nat) (o : BitVec 5) (z : BitVec 2) : Nat × Nat :=
  let k := z.toNat + 1
  (c.srcNat s tid d k, if o = 11 then c.srcNat s tid (d + k) k else 0)

/-- The combined requests of one execution (R226): addresses in order of the lowest thread that names one, each served in
ascending thread index; the old values and the flags. -/
def State.atomRun (s : State) (sr : SysRegs) (op bytes : Nat) (reqs : List (Nat × Nat × Nat × Nat))
    (rd : State → Nat → Nat) (wr : State → Nat → Nat → State) : State × List (Nat × Nat) × BitVec 5 :=
  (dedup (reqs.map (fun r => r.2.1))).foldl (fun (acc : State × List (Nat × Nat) × BitVec 5) y =>
    let v0 := rd acc.1 y
    let (v, olds, fl) := (reqs.filter (fun r => r.2.1 == y)).foldl (fun (a : Nat × List (Nat × Nat) × BitVec 5) r =>
      let q := atomOp op bytes sr a.1 r.2.2.1 r.2.2.2
      (q.1, a.2.1 ++ [(r.1, a.1)], a.2.2 ||| q.2)) (v0, acc.2.1, acc.2.2)
    (wr acc.1 y v, olds, fl)) (s, [], 0)

/-- The requests of one execution at a scratch bank, applied one after another (R226): a lane out of range reads zero and changes
nothing, no flag either (R227). -/
def State.atomEach (s : State) (sr : SysRegs) (t op bytes : Nat) (reqs : List (Nat × Nat × Nat × Nat)) : State × List (Nat × Nat) × BitVec 5 :=
  reqs.foldl (fun (acc : State × List (Nat × Nat) × BitVec 5) r =>
    let v := leNat (acc.1.scrRead t r.2.1 bytes)
    let q := if (acc.1.scrAt t r.2.1 bytes).isNone then (0, 0) else atomOp op bytes sr v r.2.2.1 r.2.2.2
    (acc.1.scrWrite t r.2.1 (natLe bytes q.1), acc.2.1 ++ [(r.1, v)], acc.2.2 ||| q.2)) (s, [], 0)

/-- What follows the requests: old values owed, flags, the acquire of .acq and .ar, the group on its way. A KRD that issues later sees the flags
(R72), and they are set when d is written (R226). -/
def State.atomDone (s : State) (c : Iss) (gap d : Nat) (z r : BitVec 2) (olds : List (Nat × Nat)) (fl : BitVec 5) : State :=
  let s := if r.getLsbD 0 then s.acquire c.tm.core else s
  (s.raiseFlags c 0 fl).oweAll c gap (fl := fl) (fun tid =>
    resultRegs d (atomWrites z) true (some (((olds.find? (fun o => o.1 == tid)).map Prod.snd).getD 0)))

/-- ATOMS (R225-R227). -/
def execAtoms (st r : BitVec 2) (d a : BitVec 7) (o : BitVec 5) (z : BitVec 2) (s : State) : Out :=
  let u := (Use.src a.toNat 1).add ((Use.src d.toNat (atomReads o z)).add (Use.dst d.toNat (atomWrites z)))
  .next (s.forbidden u (fun s c0 =>
    let n := 4 * (z.toNat + 1)
    s.splitTraps c0 (fun tid =>
      let ea := c0.src s tid a.toNat
      if ea.toNat % n ≠ 0 then some (.align true (ea.setWidth 64)) else s.scrTrap c0.t ea.toNat n) (fun s c =>
      let ea (tid : Nat) : Nat := (c.src s tid a.toNat).toNat
      s.pinFirst c u (gapOf st) ea n (s.withRelease c u (gapOf st) (c.armed || r.getLsbD 1) (fun s =>
        let reqs := (sortNat c.g.tids).map (fun tid => (tid, ea tid, c.atomArgs s tid d.toNat o z))
        let (s, olds, fl) := s.atomEach c.tm.eff.sr c.t o.toNat n reqs
        s.atomDone c (gapOf st) d.toNat z r olds fl)) true)))

/-- The entry of the page a lane names, or its trap: alignment first, then translation and permission (R83, R227, R228);
`fut` asks for a future-capable page. -/
def Iss.lanePage (c : Iss) (s : State) (va : DWord) (n : Nat) (k : Access) (fut store : Bool) : Except Trap Nat :=
  if va.toNat % n ≠ 0 then .error (.align store va)
  else match s.xlate c.tm.xlat true va k with
    | .error perm => .error (.xlat store false perm va)
    | .ok e => if fut && !pteFut e then .error (.xlat store false true va) else .ok e

/-- The same for an access that reads the bytes it names: a data error in them is a machine check (R364). -/
def Iss.laneAddr (c : Iss) (s : State) (va : DWord) (n : Nat) (k : Access) (fut store : Bool) : Except Trap Nat :=
  match c.lanePage s va n k fut store with
  | .error tr => .error tr
  | .ok e => match s.poisoned (paOf e va) n with
    | some str => .error { cause := 10, info := str, eva := va }
    | none => .ok e

/-- The trap of a lane's address, if any. -/
def exceptTrap {α : Type} : Except Trap α → Option Trap
  | .error t => some t
  | .ok _ => none

/-- The physical address and entry of a lane that does not trap. -/
def Iss.lanePa (c : Iss) (s : State) (va : DWord) : Nat × Nat :=
  match s.pte? c.tm.xlat va with
  | some e => (paOf e va, e)
  | none => (0, 0)

/-- A home-slice access of the group's lanes must wait: a D store of the core is on its way to the line, a grant is missing, the granule is
sealed, or the dirty words of the line cannot go home before it (R92, R98, R104, R275). -/
def State.homeWaits (s : State) (core : Nat) (write : Bool) (l : List (Nat × Nat)) : Bool :=
  l.any (fun p => (s.core core).busyD (p.1 / 128) || !s.homeReady (some p.2) p.1 8 write || s.prepWaits core p.1 8)

/-- The grants that a home-slice access of a core, and the write-back before it, are missing are asked for. -/
def State.askHome (s : State) (core : Nat) (pte : Nat) (pa : Nat) (write : Bool) : State :=
  let s := if s.needsGrant (some pte) pa write then s.askGrant pa write else s
  match FMap.get? (s.core core).lines (pa / 128) with
  | some l => s.askLine (pa / 128) l
  | none => s

/-- The same for the lanes of a group. -/
def State.askGrants (s : State) (core : Nat) (write : Bool) (l : List (Nat × Nat)) : State :=
  l.foldl (fun s p => s.askHome core p.2 p.1 write) s

/-- The core's dirty words of the lines go home before its home-slice access (R104), and the translations are kept. -/
def State.prepAll (s : State) (c : Iss) (l : List (DWord × Nat × Nat)) : State :=
  l.foldl (fun s p => ((s.fillTlb c.tm.xlat p.1 p.2.2).homePrep c.tm.core p.2.1 8).noRoute c.tm.dieOf c.tm.ctx p.2.1) s

/-- The translations that the group's lanes issue under are kept (R100). -/
def State.fillAll (s : State) (c : Iss) (l : List (DWord × Nat)) : State := l.foldl (fun s p => s.fillTlb c.tm.xlat p.1 p.2) s

/-- ATOMG (R225-R227). R80 does not name it, or FGET and FPUT, among the accesses to a window address; the model performs them on the structure
there (log 54). -/
def execAtomg (st r : BitVec 2) (d a : BitVec 7) (o : BitVec 5) (z : BitVec 2) (s : State) : Out :=
  let u := (Use.src a.toNat 2).add ((Use.src d.toNat (atomReads o z)).add (Use.dst d.toNat (atomWrites z)))
  .next (s.forbidden u (fun s c0 =>
    let n := 4 * (z.toNat + 1)
    s.splitTraps c0 (fun tid => exceptTrap (c0.laneAddr s (c0.src64 s tid a.toNat) n .rmw false true)) (fun s c =>
      let at_ (tid : Nat) : Nat × Nat := c.lanePa s (c.src64 s tid a.toNat)
      let l := c.g.tids.map at_
      let tr := c.g.tids.map (fun tid => (c.src64 s tid a.toNat, (at_ tid).2))
      if s.homeWaits c.tm.core true l then ((s.askGrants c.tm.core true l).fillAll c tr).defer c u (gapOf st) true
      else s.withRelease c u (gapOf st) (c.armed || r.getLsbD 1) (fun s =>
        let s := s.prepAll c (c.g.tids.map (fun tid => (c.src64 s tid a.toNat, at_ tid)))
        let reqs := (sortNat c.g.tids).map (fun tid => (tid, (at_ tid).1, c.atomArgs s tid d.toNat o z))
        let pteOf (y : Nat) : Option Nat := (l.find? (fun p => p.1 == y)).map Prod.snd
        let (s, olds, fl) := s.atomRun c.tm.eff.sr o.toNat n reqs (fun s y => leNat (s.homeBytes y n))
          (fun s y v => s.homeWrite { core := some c.tm.core, pte := pteOf y, ctx := c.tm.ctx } y (natLe n v))
        s.atomDone c (gapOf st) d.toNat z r olds fl))))

-- Futures (R228, R229).

/-- The deferral entries in use at the slice of an address. -/
def State.deferUsed (s : State) (pa : Nat) : Nat := (s.units.defer.filter (fun e => sliceOf e.1 == sliceOf pa)).length

/-- The registers of a future's result: the predicate first, then the pair. -/
def futRegs (p d : Nat) (neg : Option Bool) (x : Option Nat) : List (Reg × Option DWord) :=
  (.p p, neg.map (fun b => BitVec.ofNat 64 (b2n b))) :: resultRegs d 2 false x

/-- FGET by the lanes of one address: the word, a place in a deferral entry, or a negative acknowledgement. -/
def State.fgetAt (s : State) (c : Iss) (pa d p : Nat) (tids : List Nat) : State :=
  let v := leNat (s.homeBytes pa 8)
  if bit v 63 then
    tids.foldl (fun (s : State) tid =>
      let (id, s) := s.newId
      s.owe c.t id tid false false (futRegs p d (some false) (some v))) (s.acquire c.tm.core)
  else if 256 ≤ s.deferUsed pa then
    tids.foldl (fun (s : State) tid =>
      let (id, s) := s.newId
      s.owe c.t id tid false false [(.p p, some 1)]) s
  else
    let (s, ids) := tids.foldl (fun (acc : State × List (Nat × Nat)) tid =>
      let (id, s) := acc.1.newId
      (s.owe c.t id tid false true (futRegs p d none none), acc.2 ++ [(c.t, id)])) (s, [])
    { s with units := { s.units with defer := s.units.defer ++ [(pa, ids)] } }

def execFget (st : BitVec 2) (d a : BitVec 7) (p : BitVec 3) (s : State) : Out :=
  let u := (Use.src a.toNat 2).add ((Use.dst d.toNat 2).add (Use.pdst p.toNat))
  .next (s.forbidden u (fun s c0 =>
    s.splitTraps c0 (fun tid => exceptTrap (c0.laneAddr s (c0.src64 s tid a.toNat) 8 .read true false)) (fun s c =>
      let at_ (tid : Nat) : Nat × Nat := c.lanePa s (c.src64 s tid a.toNat)
      let tids := sortNat c.g.tids
      let tr := tids.map (fun tid => (c.src64 s tid a.toNat, (at_ tid).2))
      if s.homeWaits c.tm.core false (tids.map at_) then ((s.askGrants c.tm.core false (tids.map at_)).fillAll c tr).defer c u (gapOf st) false true
      else
        let pas := tids.map (fun tid => (tid, (at_ tid).1))
        let s := s.prepAll c (tids.map (fun tid => (c.src64 s tid a.toNat, at_ tid)))
        ((dedup (pas.map Prod.snd)).foldl (fun s pa =>
          s.fgetAt c pa d.toNat p.toNat ((pas.filter (fun x => x.2 == pa)).map Prod.fst)) s).advance c.t c.gid (gapOf st))))

/-- The deferred FGETs of a word are answered with a value; each is an acquire of its core (R106, R131). -/
def State.answerDeferred (s : State) (pa v : Nat) : State :=
  let hits := (s.units.defer.filter (fun e => e.1 == pa)).flatMap Prod.snd
  let s := { s with units := { s.units with defer := s.units.defer.filter (fun e => e.1 != pa) } }
  hits.foldl (fun s h =>
    let s := s.answer h.1 h.2 (fun i => if i = 0 then 0 else BitVec.ofNat 64 (v / 2 ^ (32 * (i - 1)) % 2 ^ 32))
    match s.team? h.1 with
    | some tm => s.acquire tm.core
    | none => s) s

def execFput (st : BitVec 2) (d a : BitVec 7) (p : BitVec 3) (s : State) : Out :=
  let u := (Use.src a.toNat 2).add ((Use.src d.toNat 2).add (Use.pdst p.toNat))
  .next (s.forbidden u (fun s c0 =>
    s.splitTraps c0 (fun tid => exceptTrap (c0.laneAddr s (c0.src64 s tid a.toNat) 8 .write true true)) (fun s c =>
      let at_ (tid : Nat) : Nat × Nat := c.lanePa s (c.src64 s tid a.toNat)
      let tids := sortNat c.g.tids
      let tr := tids.map (fun tid => (c.src64 s tid a.toNat, (at_ tid).2))
      if s.homeWaits c.tm.core true (tids.map at_) then ((s.askGrants c.tm.core true (tids.map at_)).fillAll c tr).defer c u (gapOf st) true
      else s.withRelease c u (gapOf st) true (fun s =>
        let s := s.prepAll c (tids.map (fun tid => (c.src64 s tid a.toNat, at_ tid)))
        (tids.foldl (fun s tid =>
          let (pa, e) := at_ tid
          let was := bit (leNat (s.homeBytes pa 8)) 63
          let v := (c.src64 s tid d.toNat).toNat ||| 2 ^ 63
          let s := (s.homeWrite { core := some c.tm.core, pte := some e, ctx := c.tm.ctx } pa (natLe 8 v)).answerDeferred pa v
          let (id, s) := s.newId
          s.owe c.t id tid false false [(.p p.toNat, some (BitVec.ofNat 64 (b2n was)))]) s).advance c.t c.gid (gapOf st)))))

-- Queue locks (R228, R230).

/-- The lock-unit entries in use at the slice of an address. -/
def State.lockUsed (s : State) (pa : Nat) : Nat :=
  s.units.locks.foldl (fun n e => if sliceOf e.1 = sliceOf pa then n + e.2.length else n) 0

def State.setLock (s : State) (pa : Nat) (l : List (Nat × Nat × Nat)) : State :=
  { s with units := { s.units with locks := if l.isEmpty then FMap.erase s.units.locks pa else FMap.set s.units.locks pa l } }

/-- QLOCK (R230). It never writes the word, and R228 asks for a page that may be read and written: that its alignment and translation traps, and those of
QUNLOCK, count as traps of a store in ecause[8] is the model's choice (log 60). -/
def execQlock (st : BitVec 2) (d a : BitVec 7) (p : BitVec 3) (s : State) : Out :=
  let u := (Use.src a.toNat 2).add ((Use.dst d.toNat 1).add (Use.pdst p.toNat))
  .next (s.forbidden u (fun s c0 =>
    s.splitTraps c0 (fun tid => exceptTrap (c0.lanePage s (c0.src64 s tid a.toNat) 8 .write true true)) (fun s c =>
      let at_ (tid : Nat) : Nat × Nat := c.lanePa s (c.src64 s tid a.toNat)
      let tr := c.g.tids.map (fun tid => (c.src64 s tid a.toNat, (at_ tid).2))
      if s.homeWaits c.tm.core false (c.g.tids.map at_) then ((s.askGrants c.tm.core false (c.g.tids.map at_)).fillAll c tr).defer c u (gapOf st)
      else
      let s := s.prepAll c (c.g.tids.map (fun tid => (c.src64 s tid a.toNat, at_ tid)))
      ((sortNat c.g.tids).foldl (fun s tid =>
        let pa := (at_ tid).1
        let (id, s) := s.newId
        if 1024 ≤ s.lockUsed pa then s.owe c.t id tid false false (futRegs p.toNat 121 (some true) none ++ resultRegs d.toNat 1 false (some 0))
        else
          let tok := 2 ^ 31 + id % 2 ^ 31
          let s := s.setLock pa (FMap.getD s.units.locks pa [] ++ [(c.t, tid, tok)])
          s.owe c.t id tid false false ((.p p.toNat, some 0) :: resultRegs d.toNat 1 false (some tok))) s).advance c.t c.gid (gapOf st))))

/-- The thread holds the lock (R230). -/
def State.holdsLock (s : State) (t tid pa : Nat) : Bool :=
  match FMap.getD s.units.locks pa [] with
  | (u, x, _) :: _ => u == t && x == tid
  | [] => false

def execQunlock (st : BitVec 2) (a : BitVec 7) (s : State) : Out :=
  let u := Use.src a.toNat 2
  .next (s.forbidden u (fun s c0 =>
    s.splitTraps c0 (fun tid => exceptTrap (c0.lanePage s (c0.src64 s tid a.toNat) 8 .write true true)) (fun s c =>
      let pg (tid : Nat) : Nat × Nat := c.lanePa s (c.src64 s tid a.toNat)
      let at_ (tid : Nat) : Nat := (pg tid).1
      let tr := c.g.tids.map (fun tid => (c.src64 s tid a.toNat, (pg tid).2))
      if s.homeWaits c.tm.core false (c.g.tids.map pg) then ((s.askGrants c.tm.core false (c.g.tids.map pg)).fillAll c tr).defer c u (gapOf st)
      else s.withRelease c u (gapOf st) (c.g.tids.any (fun tid => s.holdsLock c.t tid (at_ tid))) (fun s =>
        let s := s.prepAll c (c.g.tids.map (fun tid => (c.src64 s tid a.toNat, pg tid)))
        ((sortNat c.g.tids).foldl (fun s tid =>
          if s.holdsLock c.t tid (at_ tid) then s.setLock (at_ tid) ((FMap.getD s.units.locks (at_ tid) []).drop 1) else s) s).advance
            c.t c.gid (gapOf st)))))

-- Fences and waits.

/-- FENCE (R127, R249): the token at once, with latency 2; the fence completes by its own event. It is no access of R101, so an earlier acquire
does not hold it (R393). -/
def execFence (st : BitVec 2) (cl : BitVec 2) (d : BitVec 7) (e : BitVec 2) (s : State) : Out :=
  .next (s.gateFree (Use.dst d.toNat 1) (fun s c =>
    let ops := if cl.getLsbD 1 then (s.ops.filter (fun o => o.2.team == some c.t && !o.2.done)).map Prod.fst else []
    let owed (tid : Nat) : List Nat :=
      if cl.getLsbD 0 then (c.tm.wbs.filter (fun w => w.tid == some tid && w.val.isNone)).map (fun w => w.id) ++
        (c.tm.laters.filter (fun l => l.isOf [tid])).map (fun l => l.id) else []
    let seq (tid : Nat) : Nat := ((c.tm.thread tid).fseq + 1) % 2 ^ 31
    let ws := c.g.tids.flatMap (fun tid => (dstWrites tid d.toNat (BitVec.ofNat 32 (2 ^ 31 + seq tid))).dropLast)
    let s := s.writeRegs c.t c.gid 2 ws
    let s := s.updTeam c.t (fun tm => c.g.tids.foldl (fun tm tid => tm.updThread tid (fun th =>
      { th with fseq := seq tid, fences := th.fences ++ [⟨seq tid, cl.toNat, e.toNat, ops, owed tid, false, if cl.getLsbD 0 then th.ncs else []⟩] })) tm)
    s.advance c.t c.gid (gapOf st)))

/-- A fence lies at or before a token's sequence number (R250). -/
def Fence.upTo (f : Fence) (n : Nat) : Bool := decide ((n + 2 ^ 31 - f.seq) % 2 ^ 31 < 2 ^ 30)

/-- A thread's PWAIT on a fence token is satisfied (R250). -/
def fenceDone (th : Thread) (tok : Nat) : Bool :=
  !bit tok 31 || decide (2 ^ 30 ≤ (th.fseq + 2 ^ 31 - tok % 2 ^ 31) % 2 ^ 31) || th.fences.all (fun f => f.done || !f.upTo (tok % 2 ^ 31))

/-- A thread's PWAIT on a lock token is satisfied: it holds the grant, or awaits none of that name (R250). -/
def State.lockDone (s : State) (t tid tok : Nat) : Bool :=
  !bit tok 31 || s.units.locks.all (fun l => (l.2.drop 1).all (fun e => e != (t, tid, tok)))

/-- The group goes on from a PWAIT when every thread is satisfied, as an acquire; else it waits in PWAIT (R27, R125, R251). -/
def State.pwaitGo (s : State) (c : Iss) (gap : Nat) (ref : PhRef) (ok : Nat → Bool) (after : Thread → Nat → Thread) : State :=
  if c.g.tids.all ok then
    let s := s.acquire c.tm.core
    let s := s.updTeam c.t (fun tm =>
      let tm := c.g.tids.foldl (fun tm tid => tm.updThread tid (fun th => { (after th tid) with pwait := false })) tm
      { tm with waiter := if tm.waiter = some ref then none else tm.waiter })
    s.advance c.t c.gid gap
  else
    (s.updTeam c.t (fun tm =>
      let tm := c.g.tids.foldl (fun tm tid => tm.updThread tid (fun th => { th with pwait := true })) tm
      { tm with waiter := if ref = .none then tm.waiter else (tm.waiter.orElse (fun _ => some ref)) })).hold c.t c.gid

/-- Kind 0 (R250). Whether an alignment or translation trap of kinds 0 and 1 counts as one of a store in ecause[8] is not said (BINIT, BARRIVE and
BEXPECT count as stores): a wait that only looks at the object counts as none (log 60). -/
def execPwaitS (st : BitVec 2) (k : BitVec 6) (v : BitVec 7) (s : State) : Out :=
  .next (s.forbiddenFree ((Use.ksrc k.toNat 1).add (Use.src v.toNat 1)) (fun s c =>
    let a := (c.k s k.toNat).toNat % 2 ^ 32
    if a % 16 ≠ 0 then s.trapAll c.t c.gid c.g (.align false (BitVec.ofNat 64 a))
    else if let some tr := s.scrTrap c.t a 16 then s.trapAll c.t c.gid c.g tr
    else
      let now := (s.scrAt c.t a 16).map (fun p => Phase.ofNat (s.phGet (.scr p.1 p.2)))
      s.pwaitGo c (gapOf st) (.scratch a) (fun tid => match now with
        | none => true
        | some ph => ph.past (c.src s tid v.toNat).toNat) (fun th _ => th)))

/-- Kind 1 (R250). A page without a route raises its machine check (R387) when the group comes to the wait, and not at each look (log 53). -/
def execPwaitG (st : BitVec 2) (k : BitVec 6) (v : BitVec 7) (s : State) : Out :=
  .next (s.forbiddenFree ((Use.ksrc k.toNat 1).add (Use.src v.toNat 1)) (fun s c =>
    let va := c.k s k.toNat
    match c.laneAddr s va 16 .rmw false false with
    | .error tr => s.trapAll c.t c.gid c.g tr
    | .ok e =>
      let pa := paOf e va
      if s.needsGrant (some e) pa false || s.prepWaits c.tm.core pa 16 then (s.askHome c.tm.core e pa false).hold c.t c.gid
      else
        let s := (s.fillTlb c.tm.xlat va e).homePrep c.tm.core pa 16
        let s := if c.g.tids.all (fun tid => (c.tm.thread tid).pwait) then s else s.noRoute c.tm.dieOf c.tm.ctx pa
        let now := Phase.ofNat (s.phGet (.mem pa e))
        s.pwaitGo c (gapOf st) (.glob va) (fun tid => now.past (c.src s tid v.toNat).toNat) (fun th _ => th)))

/-- Kind 2 (R36, R250). -/
def execPwaitCnt (st : BitVec 2) (cnt : BitVec 2) (thr : BitVec 7) (s : State) : Out :=
  .next (s.forbiddenFree {} (fun s c =>
    s.pwaitGo c (gapOf st) .none (fun _ => decide (FMap.getD c.tm.cnt cnt.toNat 0 ≤ thr.toNat)) (fun th _ => th)))

/-- Kind 3 (R129, R250): a completed fence with release class arms the thread's next store or atomic. -/
def execPwaitFence (st : BitVec 2) (v : BitVec 7) (s : State) : Out :=
  .next (s.forbiddenFree (Use.src v.toNat 1) (fun s c =>
    s.pwaitGo c (gapOf st) .none (fun tid => fenceDone (c.tm.thread tid) (c.src s tid v.toNat).toNat) (fun th tid =>
      let tok := (c.src s tid v.toNat).toNat
      let past (f : Fence) : Bool := bit tok 31 && f.done && f.upTo (tok % 2 ^ 31)
      { th with armed := th.armed || th.fences.any (fun f => past f && f.sem % 2 == 1), fences := th.fences.filter (fun f => !past f) })))

/-- Kind 4 (R250). -/
def execPwaitLock (st : BitVec 2) (v : BitVec 7) (s : State) : Out :=
  .next (s.forbiddenFree (Use.src v.toNat 1) (fun s c =>
    s.pwaitGo c (gapOf st) .none (fun tid => s.lockDone c.t tid (c.src s tid v.toNat).toNat) (fun th _ => th)))

end Sys2Proof.Machine
end

