-- ==== Sys2Proof/Machine/Hash.lean ====
section
/-!
DEFINITION. Hash tables in scratch (R253-R267).
-/

namespace Sys2Proof.Machine

/-- A live table as an operation finds it: the team and offset of B, and the header's fields (R253). -/
structure HTab where
  u : Nat
  b : Nat
  n : Nat
  nlive : Nat
  ntomb : Nat
  sused : Nat
  scap : Nat
  sva : DWord
  deriving DecidableEq, Repr

/-- The table a handle names, none when it is no table (R256 code 8). -/
def State.htab (s : State) (t b : Nat) : Option HTab :=
  if b < 64 then none
  else match s.scrAt t (b - 64) 64 with
    | none => none
    | some (u, off) =>
      let h := leNat (s.scrGet u off 64)
      let n := bits h 3 0
      if bit h 4 && decide (4 ≤ n) && decide (n ≤ 12) then
        some ⟨u, off + 64, n, bits h 63 32, bits h 95 64, bits h 127 96, bits h 159 128, BitVec.ofNat 64 (bits h 223 160)⟩
      else none

/-- The header as bytes. -/
def HTab.header (h : HTab) (live : Bool) : List Byte :=
  natLe 64 (h.n + 16 * b2n live + h.nlive % 2 ^ 32 * 2 ^ 32 + h.ntomb % 2 ^ 32 * 2 ^ 64 + h.sused % 2 ^ 32 * 2 ^ 96 + h.scap * 2 ^ 128 +
    h.sva.toNat * 2 ^ 160)

/-- The counts of the header written back. -/
def State.putHtab (s : State) (h : HTab) : State := s.scrPut h.u (h.b - 64) (h.header true)

/-- The bucket of a key (R254). -/
def hashBucket (k : Word) (n : Nat) : Nat :=
  let h0 := k ^^^ (k >>> 16)
  let h1 := h0 * 0x6A09E667
  let h2 := h1 ^^^ (h1 >>> 13)
  h2.toNat / 2 ^ (32 - n)

/-- A part of a spill entry inside one page: its physical address, its page's entry, its bytes. -/
structure HPart where
  pa : Nat
  pte : Nat
  n : Nat
  deriving DecidableEq, Repr

/-- Where an entry stands: a slot's scratch offset, or a spill entry's parts. -/
inductive HPos where
  | slot (off : Nat)
  | spill (l : List HPart)
  deriving DecidableEq, Repr

/-- Why an operation does not take effect: a trap of its lanes, or a wait for a page and address. -/
inductive HStop where
  | trap (t : Trap)
  | wait (pte pa : Nat)
  deriving DecidableEq, Repr

/-- A spill access is not ordered behind the core's own earlier accesses to the line yet, or its grant or granule is not free (R98, R104, R107,
R275). -/
def State.spillHeld (s : State) (core pte pa n : Nat) : Bool :=
  let st := s.core core
  !s.homeReady (some pte) pa n true || st.busyD (pa / 128) || (FMap.get? st.lines (pa / 128)).any CLine.passed

/-- n bytes of a spill entry inside one page, with the failures of R265. The issuing team's translation serves, also for a table in another
team's scratch, since R264 does not say whose (log 61). A spill access both reads and writes; its trap reports ecause[8] = 0 (log 60). -/
def State.spillPart (s : State) (tm : Team) (va : DWord) (n : Nat) : Except HStop HPart :=
  match s.xlate tm.xlat true va .rmw with
  | .error perm => .error (.trap (.xlat false false perm va))
  | .ok e =>
    let pa := paOf e va
    match s.poisoned pa n with
    | some str => .error (.trap { cause := 10, info := str, eva := va })
    | none => if s.spillHeld tm.core e pa n then .error (.wait e pa) else .ok ⟨pa, e, n⟩

/-- A spill entry's place. After a racing store to sva an entry may cross a page end (R267): it has a part on either page. -/
def State.spillAt (s : State) (tm : Team) (h : HTab) (i : Nat) : Except HStop HPos :=
  let va := h.sva + BitVec.ofNat 64 (8 * i)
  let n := min 8 (4096 - va.toNat % 4096)
  match s.spillPart tm va n with
  | .error e => .error e
  | .ok p =>
    if n = 8 then .ok (.spill [p])
    else match s.spillPart tm (va + BitVec.ofNat 64 n) (8 - n) with
      | .error e => .error e
      | .ok q => .ok (.spill [p, q])

/-- An operation waits at its issue for a spill access, as a trap that a later one takes is precise (R265, log 23): what is missing is asked for, and
the core's own words of the line go home (R104). -/
def State.spillWait (s : State) (c : Iss) (pte pa : Nat) : State :=
  let s := s.askHome c.tm.core pte pa true
  let s := if s.prepWaits c.tm.core pa 1 || (s.core c.tm.core).busyD (pa / 128) then s else s.homePrep c.tm.core pa 1
  s.hold c.t c.gid

/-- An entry's 64 bits: key low, value high. -/
def State.hget (s : State) (h : HTab) (p : HPos) : Nat :=
  match p with
  | .slot off => leNat (s.scrGet h.u off 8)
  | .spill l => leNat (l.flatMap (fun q => s.homeBytes q.pa q.n))

def State.hput (s : State) (h : HTab) (p : HPos) (k v : Nat) : State :=
  let bs := natLe 8 (k + v * 2 ^ 32)
  match p with
  | .slot off => s.scrPut h.u off bs
  | .spill l => (l.foldl (fun (acc : State × List Byte) q => (acc.1.homeWrite { pte := some q.pte } q.pa (acc.2.take q.n), acc.2.drop q.n)) (s, bs)).1

/-- The machine check of an operation that meets a data error in n bytes of table memory from a scratch offset on (R265, R364). -/
def State.tableTrap (s : State) (u off n : Nat) : Option Trap :=
  if s.scrError u off n then some { cause := 10, info := 3 } else none

/-- The table of a handle, a data error in its header first (R265). -/
def State.htabOf (s : State) (t b : Nat) : Except HStop (Option HTab) :=
  match (if b < 64 then none else s.scrAt t (b - 64) 64).bind (fun p => s.tableTrap p.1 p.2 64) with
  | some tr => .error (.trap tr)
  | none => .ok (s.htab t b)

/-- The slots of a bucket (R253). -/
def HTab.slots (h : HTab) (bucket : Nat) : List HPos := (List.range 8).map (fun j => .slot (h.b + 64 * bucket + 8 * j))

/-- The parts of an entry in the spill area. -/
def HPos.parts : HPos → List HPart
  | .slot _ => []
  | .spill l => l

/-- Spill entries accessed by an operation: one without a route raises the machine check of the issuing context (R387). -/
def State.spillRoute (s : State) (tm : Team) (l : List HPart) : State := l.foldl (fun s q => s.noRoute tm.dieOf tm.ctx q.pa) s

/-- The spill entries that a table has: no more than its area holds, whatever a racing store has put into its header (R267). -/
def HTab.spilled (h : HTab) : Nat := min h.sused h.scap

/-- The spill entries from i on that are searched for a key (R259): the parts read, and the entry that holds it. -/
def State.findSpill (s : State) (tm : Team) (h : HTab) (k : Nat) : Nat → Nat → List HPart → Except HStop (List HPart × Option HPos)
  | 0, _, seen => .ok (seen, none)
  | fuel + 1, i, seen =>
    match s.spillAt tm h i with
    | .error e => .error e
    | .ok p =>
      let seen := seen ++ p.parts
      if s.hget h p % 2 ^ 32 = k then .ok (seen, some p) else State.findSpill s tm h k fuel (i + 1) seen

/-- find of R259: the parts of spill entries that it reads, and the slot or entry that holds the key. -/
def State.hfind (s : State) (tm : Team) (h : HTab) (k : Word) : Except HStop (List HPart × Option HPos) :=
  match s.tableTrap h.u (h.b + 64 * hashBucket k h.n) 64 with
  | some tr => .error (.trap tr)
  | none =>
  match (h.slots (hashBucket k h.n)).find? (fun p => s.hget h p % 2 ^ 32 == k.toNat) with
  | some p => .ok ([], some p)
  | none => s.findSpill tm h k.toNat h.spilled 0 []

def emptyKey : Nat := 0xFFFFFFFF
def tombKey : Nat := 0xFFFFFFFE

/-- place of R259: the state, and the status 3 inserted, 4 spilled, 5 full. -/
def State.hplace (s : State) (tm : Team) (h : HTab) (k x : Word) : Except HStop (State × Nat) :=
  match (h.slots (hashBucket k h.n)).find? (fun p => let q := s.hget h p % 2 ^ 32; q == emptyKey || q == tombKey) with
  | some p =>
    let tomb := s.hget h p % 2 ^ 32 == tombKey
    .ok ((s.hput h p k.toNat x.toNat).putHtab { h with nlive := h.nlive + 1, ntomb := if tomb then h.ntomb - 1 else h.ntomb }, 3)
  | none =>
    if h.sused < h.scap then
      match s.spillAt tm h h.sused with
      | .error e => .error e
      | .ok p => .ok (((s.spillRoute tm p.parts).hput h p k.toNat x.toNat).putHtab { h with nlive := h.nlive + 1, sused := h.sused + 1 }, 4)
    else .ok (s, 5)

/-- ⊕ of HACC (R260). -/
def haccOp (u : BitVec 3) (sr : SysRegs) (a b : Word) : Word × BitVec 5 :=
  match u.toNat with
  | 0 => (a + b, 0)
  | 1 => faddW 0 sr a b
  | 2 => (minS a b, 0)
  | 3 => (maxS a b, 0)
  | _ => (a ||| b, 0)

/-- What the lanes of one keyed operation receive: status and value for the first lane and for the others. -/
structure HRes where
  st0 : Nat
  v0 : Word
  st : Nat
  v : Word
  fl : BitVec 5 := 0
  deriving DecidableEq, Repr

/-- One keyed operation (R259, R261): op 0 HINS, 1 HPROBE, 2 HDEL, 3 HACC; xs the lanes' value operands, ascending. At a handle that is no live
table every lane gets notable, those of an HDEL too: R256 and R261, which gives the other lanes of an HDEL absent, leave that open (log 65). -/
def State.keyed (s : State) (tm : Team) (b op : Nat) (u : BitVec 3) (t : Nat) (k : Word) (xs : List Word) : Except HStop (State × HRes) :=
  match s.htabOf t b with
  | .error e => .error e
  | .ok none => .ok (s, ⟨8, 0, 8, 0, 0⟩)
  | .ok (some h) =>
    match s.hfind tm h k with
    | .error e => .error e
    | .ok (seen, found) =>
      let s := s.spillRoute tm seen
      let x0 := xs.headD 0
      let sr := tm.eff.sr
      let comb := (xs.drop 1).foldl (fun (a : Word × BitVec 5) x => let r := haccOp u sr a.1 x; (r.1, a.2 ||| r.2)) (x0, 0)
      match op, found with
      | 0, some p =>
        let v : Word := BitVec.ofNat 32 (s.hget h p / 2 ^ 32)
        .ok (s, ⟨2, v, 2, v, 0⟩)
      | 0, none =>
        match s.hplace tm h k x0 with
        | .error e => .error e
        | .ok (s, st) =>
          let v := if st = 5 then 0 else x0
          .ok (s, ⟨st, v, if st = 5 then 5 else 2, v, 0⟩)
      | 1, some p =>
        let v : Word := BitVec.ofNat 32 (s.hget h p / 2 ^ 32)
        .ok (s, ⟨2, v, 2, v, 0⟩)
      | 1, none => .ok (s, ⟨1, 0, 1, 0, 0⟩)
      | 2, some p =>
        let v : Word := BitVec.ofNat 32 (s.hget h p / 2 ^ 32)
        .ok ((s.hput h p tombKey v.toNat).putHtab { h with nlive := h.nlive - 1, ntomb := h.ntomb + 1 }, ⟨6, v, 1, 0, 0⟩)
      | 2, none => .ok (s, ⟨1, 0, 1, 0, 0⟩)
      | _, some p =>
        let r := haccOp u sr (BitVec.ofNat 32 (s.hget h p / 2 ^ 32)) comb.1
        .ok (s.hput h p k.toNat r.1.toNat, ⟨2, r.1, 2, r.1, comb.2 ||| r.2⟩)
      | _, none =>
        let c := if u = 1 then credFirst 2 comb.1 else (comb.1, 0)
        match s.hplace tm h k c.1 with
        | .error e => .error e
        | .ok (s, st) =>
          let v := if st = 5 then 0 else c.1
          .ok (s, ⟨st, v, st, v, comb.2 ||| c.2⟩)

/-- The status and value registers of a quad as owed (R256). -/
def hashOwed (q st : Nat) (v : Option Word) : List (Reg × Option DWord) :=
  (.v (q + 2), some (BitVec.ofNat 64 st)) :: (match v with | some x => [(.v (q + 3), some (x.setWidth 64))] | none => [])

/-- The keys of an execution in order of the lowest thread that presents each, with the presenting threads (R261). -/
def keyGroups (l : List (Nat × Word)) : List (Word × List Nat) :=
  (dedup (l.map (fun e => e.2.toNat))).map (fun k => (BitVec.ofNat 32 k, (l.filter (fun e => e.2.toNat == k)).map Prod.fst))

def badKey (k : Word) : Bool := k.toNat == emptyKey || k.toNat == tombKey

/-- All operations of an execution one after another (R261, R264): results by thread, traps, flags; or what one of them waits for. -/
def State.keyedAll (s : State) (c : Iss) (b op : Nat) (u : BitVec 3) (q : Nat) :
    Except (Nat × Nat) (State × List (Nat × List (Reg × Option DWord)) × List (Nat × Trap) × BitVec 5) :=
  let keys := (sortNat c.g.tids).map (fun tid => (tid, c.src s tid q))
  let bad := (keys.filter (fun e => badKey e.2)).map (fun e => (e.1, hashOwed q 7 (some 0)))
  (keyGroups (keys.filter (fun e => !badKey e.2))).foldl (fun acc g =>
    match acc with
    | .error w => .error w
    | .ok (s', res, traps, fl) =>
      match s'.keyed c.tm b op u c.t g.1 (g.2.map (fun tid => c.src s tid (q + 1))) with
      | .error (.wait pte pa) => .error (pte, pa)
      | .error (.trap tr) => .ok (s', res, traps ++ g.2.map (fun tid => (tid, tr)), fl)
      | .ok (s', r) =>
        let out := g.2.map (fun tid =>
          let (st, v) := if some tid = g.2.head? then (r.st0, r.v0) else (r.st, r.v)
          (tid, hashOwed q st (if st = 8 then none else some v)))
        .ok (s', res ++ out, traps, fl ||| r.fl)) (.ok (s, bad, [], 0))

/-- A keyed instruction (R259-R261, R265). -/
def State.hashOp (s : State) (st : BitVec 2) (op : Nat) (u : BitVec 3) (k : BitVec 6) (q : BitVec 7) : State :=
  let use : Use := ((Use.ksrc k.toNat 1).add ((Use.src q.toNat (if op = 1 || op = 2 then 1 else 2)).add (Use.dst (q.toNat + 2) 2)))
  s.forbidden use (fun s c0 =>
    let b (c : Iss) : Nat := (c.k s k.toNat).toNat % 2 ^ 32
    match s.keyedAll c0 (b c0) op u q.toNat with
    | .error w => s.spillWait c0 w.1 w.2
    | .ok (_, _, traps, _) =>
      s.splitTraps c0 (fun tid => (traps.find? (fun x => x.1 == tid)).map Prod.snd) (fun s c =>
        match s.keyedAll c (b c) op u q.toNat with
        | .error w => s.spillWait c w.1 w.2
        | .ok (s, res, _, fl) =>
          (s.raiseFlags c 0 fl).oweAll c (gapOf st) (fl := fl) (fun tid => ((res.find? (fun r => r.1 == tid)).map Prod.snd).getD [])))

def execHins (st : BitVec 2) (k : BitVec 6) (q : BitVec 7) (s : State) : Out := .next (s.hashOp st 0 0 k q)
def execHprobe (st : BitVec 2) (k : BitVec 6) (q : BitVec 7) (s : State) : Out := .next (s.hashOp st 1 0 k q)
def execHdel (st : BitVec 2) (k : BitVec 6) (q : BitVec 7) (s : State) : Out := .next (s.hashOp st 2 0 k q)
def execHacc (st : BitVec 2) (u : BitVec 3) (k : BitVec 6) (q : BitVec 7) (s : State) : Out := .next (s.hashOp st 3 u k q)

/-- An unkeyed instruction: each thread's operation in ascending order, on the state the earlier ones leave. -/
def State.hashEach (s : State) (st : BitVec 2) (use : Use) (f : State → Iss → Nat → Except HStop (State × List (Reg × Option DWord))) : State :=
  let all (s : State) (c : Iss) : Except (Nat × Nat) (State × List (Nat × List (Reg × Option DWord)) × List (Nat × Trap)) :=
    (sortNat c.g.tids).foldl (fun acc tid =>
      match acc with
      | .error w => .error w
      | .ok (s', res, traps) =>
        match f s' c tid with
        | .error (.wait pte pa) => .error (pte, pa)
        | .error (.trap tr) => .ok (s', res, traps ++ [(tid, tr)])
        | .ok (s', r) => .ok (s', res ++ [(tid, r)], traps)) (.ok (s, [], []))
  s.forbidden use (fun s c0 =>
    match all s c0 with
    | .error w => s.spillWait c0 w.1 w.2
    | .ok (_, _, traps) =>
      s.splitTraps c0 (fun tid => (traps.find? (fun x => x.1 == tid)).map Prod.snd) (fun s c =>
        match all s c with
        | .error w => s.spillWait c w.1 w.2
        | .ok (s, res, _) => s.oweAll c (gapOf st) (fun tid => ((res.find? (fun r => r.1 == tid)).map Prod.snd).getD [])))

/-- The live entries of a table in the order of R262, and the parts of spill entries read. -/
def State.liveEntries (s : State) (tm : Team) (h : HTab) : Except HStop (List HPart × List Nat) :=
  let inB := (List.range (2 ^ h.n)).flatMap (fun b => (h.slots b).map (fun p => s.hget h p))
  let sp := (List.range h.spilled).foldl (fun (acc : Except HStop (List HPart × List Nat)) i =>
    match acc with
    | .error e => .error e
    | .ok (seen, l) =>
      match s.spillAt tm h i with
      | .error e => .error e
      | .ok p => .ok (seen ++ p.parts, l ++ [s.hget h p])) (.ok ([], []))
  match (s.tableTrap h.u h.b (64 * 2 ^ h.n)).map HStop.trap, sp with
  | some e, _ => .error e
  | none, .error e => .error e
  | none, .ok (seen, l) => .ok (seen, (inB ++ l).filter (fun x => x % 2 ^ 32 != emptyKey && x % 2 ^ 32 != tombKey))

/-- HDRAIN's operands break their limits (R262). -/
def drainRange (tm : Team) (t : Nat) (h : HTab) (d m f : Nat) : Bool :=
  d % 8 != 0 || bit d 31 || decide (tm.tr.scratch * 4096 < d + 8 * m) || decide (1 < f) ||
  (h.u == t && m != 0 && decide (d < h.b + 64 * 2 ^ h.n) && decide (h.b - 64 < d + 8 * m))

/-- A table with every slot empty. -/
def State.clearTable (s : State) (h : HTab) : State :=
  let slot := natLe 8 emptyKey
  ((List.range (8 * 2 ^ h.n)).foldl (fun s j => s.scrPut h.u (h.b + 8 * j) slot) s).putHtab { h with nlive := 0, ntomb := 0, sused := 0 }

def execHdrain (st : BitVec 2) (k : BitVec 6) (q : BitVec 7) (s : State) : Out :=
  .next (s.hashEach st ((Use.ksrc k.toNat 1).add ((Use.src q.toNat 3).add (Use.dst (q.toNat + 2) 2))) (fun s' c tid =>
    let d := (c.src s tid q.toNat).toNat
    let m := (c.src s tid (q.toNat + 1)).toNat
    let f := (c.src s tid (q.toNat + 2)).toNat
    match s'.htabOf c.t ((c.k s k.toNat).toNat % 2 ^ 32) with
    | .error e => .error e
    | .ok none => .ok (s', hashOwed q.toNat 8 none)
    | .ok (some h) =>
      if drainRange c.tm c.t h d m f then .ok (s', hashOwed q.toNat 11 none)
      else match s'.liveEntries c.tm h with
        | .error e => .error e
        | .ok (seen, l) =>
          let out := l.take m
          let s' := (List.range out.length).foldl (fun s i => s.scrPut c.t (d + 8 * i) (natLe 8 ((out[i]?).getD 0))) (s'.spillRoute c.tm seen)
          if m < l.length then .ok (s', hashOwed q.toNat 10 (some (BitVec.ofNat 32 m)))
          else .ok (if f = 1 then s'.clearTable h else s', hashOwed q.toNat 0 (some (BitVec.ofNat 32 l.length)))))

def execHstat (st : BitVec 2) (k : BitVec 6) (q : BitVec 7) (s : State) : Out :=
  .next (s.hashEach st ((Use.ksrc k.toNat 1).add (Use.dst q.toNat 4)) (fun s' c _ =>
    match s'.htabOf c.t ((c.k s k.toNat).toNat % 2 ^ 32) with
    | .error e => .error e
    | .ok none => .ok (s', hashOwed q.toNat 8 none)
    | .ok (some h) => .ok (s', (.v q.toNat, some (BitVec.ofNat 64 h.nlive)) :: (.v (q.toNat + 1), some (BitVec.ofNat 64 h.ntomb)) ::
        hashOwed q.toNat 0 (some (BitVec.ofNat 32 h.sused)))))

/-- HCLAIM's operands break R253 or R257. -/
def claimRange (tm : Team) (k0 k1 k2 : DWord) : Bool :=
  let b := k0.toNat % 2 ^ 32
  let n := bits k0.toNat 35 32
  let lo := (tm.tr.scratch - tm.tr.claim) * 4096
  k0.toNat / 2 ^ 36 != 0 || k2.toNat / 2 ^ 32 != 0 || decide (2 ^ 31 < k2.toNat) || k1.toNat % 8 != 0 || decide (n < 4) || decide (12 < n) ||
  bit b 31 || b % 64 != 0 || decide (b < 64) || decide (tm.tr.scratch * 4096 < b) || decide (b < lo) ||
  decide (tm.tr.scratch * 4096 < b + 64 * 2 ^ n)

def execHclaim (st : BitVec 2) (k : BitVec 6) (q : BitVec 7) (s : State) : Out :=
  .next (s.hashEach st ((Use.ksrc k.toNat 3).add ((Use.dst (q.toNat + 2) 2))) (fun s' c _ =>
    let k0 := c.k s k.toNat
    let k1 := c.k s (k.toNat + 1)
    let k2 := c.k s (k.toNat + 2)
    if claimRange c.tm k0 k1 k2 then .ok (s', hashOwed q.toNat 11 none)
    else
      let b := k0.toNat % 2 ^ 32
      let n := bits k0.toNat 35 32
      if let some tr := s'.tableTrap c.t (b - 64) 64 then .error (.trap tr)
      else if bit (leNat (s'.scrGet c.t (b - 64) 1)) 4 then .ok (s', hashOwed q.toNat 9 none)
      else .ok (s'.clearTable ⟨c.t, b, n, 0, 0, 0, k2.toNat, k1⟩, hashOwed q.toNat 0 (some (BitVec.ofNat 32 (2 ^ n))))))

def execHrel (st : BitVec 2) (k : BitVec 6) (q : BitVec 7) (s : State) : Out :=
  .next (s.hashEach st ((Use.ksrc k.toNat 1).add (Use.dst (q.toNat + 2) 2)) (fun s' c _ =>
    match s'.htabOf c.t ((c.k s k.toNat).toNat % 2 ^ 32) with
    | .error e => .error e
    | .ok none => .ok (s', hashOwed q.toNat 8 none)
    | .ok (some h) => .ok (s'.scrPut h.u (h.b - 64) (h.header false), hashOwed q.toNat 0 (some (BitVec.ofNat 32 h.nlive)))))

end Sys2Proof.Machine
end

