-- ==== Sys2Proof/Machine/Region.lean ====
section
/-!
DEFINITION. Elastic regions (R268-R280): XBEGIN, XEND, XABORT, XRD, XLD, XST, and the slices' side of them: requests that
narrow (R273, R274), narrowing messages (R272), seals and the application of a position (R275, R276).
-/

namespace Sys2Proof.Machine

/-- Open regions on a core (R268). -/
def State.openRegions (s : State) (core : Nat) : Nat :=
  (s.teamsOn core).foldl (fun n e => n + (e.2.threads.filter (fun th => th.region.isSome)).length) 0

/-- XBEGIN (R270, R278, R280). -/
def execXbegin (st : BitVec 2) (e : BitVec 1) (k : BitVec 6) (v : BitVec 7) (s : State) : Out :=
  .next (s.forbiddenFree ((Use.ksrc k.toNat 1).add ⟨[], [], v.toNat + 1, false⟩) (fun s c =>
    if 64 < s.openRegions c.tm.core + c.g.tids.length then s.hold c.t c.gid
    else
      let r : Region := { strict := e == 1, handler := c.k s k.toNat, creg := v.toNat }
      (s.updTeam c.t (fun tm => c.g.tids.foldl (fun tm tid => tm.updThread tid (fun th =>
        { th with region := some r, xlo := BitVec.ofNat 64 s.ordClock, xhi := BitVec.ofNat 64 (2 ^ 63 - 1) })) tm)).advance
          c.t c.gid (gapOf st)))

/-- The threads of a group whose region aborts leave; the others go on in the same issue (R277). -/
def State.splitAborts (s : State) (c : Iss) (f : Nat → Option Nat) (k : State → Iss → State) : State :=
  let bad := c.g.tids.filterMap (fun tid => (f tid).map (fun n => (tid, n)))
  if bad.isEmpty then k s c
  else
    let s := bad.foldl (fun s b => s.abortRegion c.t b.1 b.2 0) s
    match s.iss with
    | none => s.issued c.t
    | some c' => k s c'

/-- XEND (R275): the regions of the group begin to close; the pairs and k[kD] are owed. The commit is a release of what the threads stored
before (R105, R138), which waits, with the commit, for accesses that an acquire holds (R393). -/
def execXend (st : BitVec 2) (k : BitVec 6) (v : BitVec 7) (s : State) : Out :=
  .next (s.gateFree ((Use.dst v.toNat 2).add (Use.kdst k.toNat 1)) (fun s c0 =>
    s.splitTraps c0 (fun tid => if (c0.tm.thread tid).region.isNone then some .illegal else none) (fun s c1 =>
      s.splitAborts c1 (fun tid => if (c1.tm.thread tid).doomed then some 1 else none) (fun s c => s.engineIssue c true (fun s after =>
        let (kid, s) := s.newId
        let s := s.owe c.t kid c.low true false [(.k k.toNat, none)] 0 false c.g.tids
        let s := c.g.tids.foldl (fun (s : State) tid =>
          let (id, s) := s.newId
          (s.owe c.t id tid false false (resultRegs v.toNat 2 false none)).updThread c.t tid (fun th =>
            { th with region := th.region.map (fun r =>
                { r with stage := 1, toSeal := sortNat (dedup (r.reads ++ r.writeSet)), xe := some (id, kid), late := !(after tid).isEmpty }) })) s
        (s.updTeam c.t (fun tm => { tm with xends := FMap.set tm.xends kid (c.g.tids, none) })).advance c.t c.gid (gapOf st))))))

/-- XABORT (R270): no effect for a thread without an open region. It has issued also when every thread of the group leaves (R349). -/
def execXabort (st : BitVec 2) (n : BitVec 7) (s : State) : Out :=
  .next (s.gateFree {} (fun s c =>
    let l := c.g.tids.filter (fun tid => (c.tm.thread tid).region.isSome)
    let s := l.foldl (fun s tid => s.abortRegion c.t tid 6 n.toNat) s
    match s.iss with
    | none => s.issued c.t
    | some _ => s.advance c.t c.gid (gapOf st)))

/-- XRD (R270): the bound as narrowed so far. -/
def execXrd (st : BitVec 2) (e : BitVec 1) (v : BitVec 7) (s : State) : Out :=
  .next (s.gate (Use.dst v.toNat 2) (fun s c => s.oweAll c (gapOf st) (fun tid =>
    let th := c.tm.thread tid
    resultRegs v.toNat 2 false (some (if e = 1 then th.xhi.toNat else th.xlo.toNat)))))

/-- The VA of XLD and XST (R271). -/
def xEa (base : DWord) (o : BitVec 6) (w : BitVec 2) : DWord := base + o.signExtend 64 * BitVec.ofNat 64 (widthBytes w)

/-- The abort that a thread's XLD or XST raises before it takes effect (R268, R277): empty, fault, remote, capacity. An MMIO address, which R277 does
not name, has cause remote as a window has (log 22). -/
def Iss.xAbort (c : Iss) (s : State) (tid : Nat) (va : DWord) (n : Nat) (write : Bool) : Option Nat :=
  let th := c.tm.thread tid
  match th.region with
  | none => none
  | some r =>
    if th.doomed then some 1
    else if va.toNat % n ≠ 0 then some 4
    else match s.xlate c.tm.xlat true va (if write then .write else .read) with
      | .error _ => some 4
      | .ok e =>
        let pa := paOf e va
        let g := pa / 32
        if s.foreign pa || !isMem pa then some 8
        else if write then (if !r.writeSet.contains g && decide (32 ≤ r.writeSet.length) then some 3 else none)
        else
          let own := (List.range n).all (fun i => (FMap.get? r.writes (pa + i)).isSome)
          if !own && !r.reads.contains g && decide (64 ≤ r.reads.length) then some 3 else none

/-- The gate of XLD and XST: ILLEGAL without a region, then the aborts. -/
def State.xGate (s : State) (u : Use) (ea : Iss → State → Nat → DWord) (n : Nat) (write : Bool) (k : State → Iss → State) : State :=
  s.gateFree u (fun s c0 =>
    s.splitTraps c0 (fun tid => if (c0.tm.thread tid).region.isNone then some .illegal else none) (fun s c1 =>
      s.splitAborts c1 (fun tid => c1.xAbort s tid (ea c1 s tid) n write) k))

/-- A region request on its way, carrying the region's bounds (R272). -/
def State.sendReq (s : State) (c : Iss) (tid : Nat) (write : Bool) (va : DWord) (pa pte n : Nat) (own : FMap Byte) (wbs : List Nat) : State :=
  let th := c.tm.thread tid
  let (id, s) := s.newId
  let q : GReq := { id, region := regionNum c.t tid, gran := pa / 32, write, pa, n, va, pte, lo := th.xlo.toNat, hi := th.xhi.toNat, own, wbs }
  { s with units := { s.units with greqs := s.units.greqs ++ [q] } }

/-- XLD (R271): the request goes out at once (R42); the core's own stores to the line, and the grant of the page, come before it acts (R98, R104, R280).
It goes to the granule's slice also when the region wrote every byte read, and then the granule does not join the read set (log 22). -/
def execXld (st w : BitVec 2) (d a : BitVec 7) (o : BitVec 6) (s : State) : Out :=
  let n := widthBytes w
  let ea (c : Iss) (s : State) (tid : Nat) : DWord := xEa (c.src64 s tid a.toNat) o w
  .next (s.xGate ((Use.src a.toNat 2).add (Use.dst d.toNat (widthRegs w))) ea n false (fun s c =>
    let at_ (tid : Nat) : DWord × Nat × Nat := (ea c s tid, c.lanePa s (ea c s tid))
    let s := s.fillAll c (c.g.tids.map (fun tid => ((at_ tid).1, (at_ tid).2.2)))
    (c.g.tids.foldl (fun (s : State) tid =>
      let (va, pa, e) := at_ tid
      let ws := ((c.tm.thread tid).region.map (fun r => r.writes)).getD []
      let own := (List.range n).filterMap (fun i => (FMap.get? ws (pa + i)).map (fun b => (pa + i, b)))
      let (id, s) := s.newId
      let s := if own.length = n then s else
        s.updThread c.t tid (fun th => { th with region := th.region.map (fun r => { r with reads := dedup (r.reads ++ [pa / 32]) }) })
      (s.owe c.t id tid false false (resultRegs d.toNat (widthRegs w) (w != 3) none)).sendReq c tid false va pa e n own [id]) s).advance
        c.t c.gid (gapOf st)))

/-- XST (R271): the bytes are held at the core, and the region keeps the oldest translation generation of a held byte (R100). -/
def execXst (st w : BitVec 2) (d a : BitVec 7) (o : BitVec 6) (s : State) : Out :=
  let n := widthBytes w
  let ea (c : Iss) (s : State) (tid : Nat) : DWord := xEa (c.src64 s tid a.toNat) o w
  .next (s.xGate ((Use.src a.toNat 2).add (Use.src d.toNat (widthRegs w))) ea n true (fun s c =>
    let at_ (tid : Nat) : DWord × Nat × Nat := (ea c s tid, c.lanePa s (ea c s tid))
    let s := s.fillAll c (c.g.tids.map (fun tid => ((at_ tid).1, (at_ tid).2.2)))
    (c.g.tids.foldl (fun (s : State) tid =>
      let (va, pa, e) := at_ tid
      let bs := natLe n (c.srcNat s tid d.toNat (widthRegs w))
      let gen := s.genAt c.tm.xlat va
      let s := s.updThread c.t tid (fun th => { th with region := th.region.map (fun r =>
        { r with
          writes := (List.range n).foldl (fun m i => FMap.set m (pa + i) ((bs[i]?).getD 0)) r.writes
          writeSet := dedup (r.writeSet ++ [pa / 32])
          ptes := FMap.set r.ptes (pa / 32) e
          gen := some (min gen (r.gen.getD gen)) }) })
      s.sendReq c tid true va pa e n [] []) s).advance c.t c.gid (gapOf st)))

-- The slices.

/-- The team and thread of a region's number. -/
def regionOf (r : Nat) : Nat × Nat := (r / 1024, r % 1024)

/-- A region as its thread holds it. -/
def State.regionAt (s : State) (r : Nat) : Option Region := (s.team? (regionOf r).1).bind (fun tm => (tm.thread (regionOf r).2).region)

/-- A conflict with a strict region on either side (R274): another region is recorded at the granule, and one of the two writes it, be it a
region whose place as the pending writer another has taken. -/
def State.strictConflict (s : State) (gr : Gran) (x : Nat) (write : Bool) : Bool :=
  let strict (r : Nat) : Bool := (s.regionAt r).any (fun e => e.strict)
  let writes (r : Nat) : Bool := gr.wrote.contains r
  gr.recs.any (fun e => e.1 != x && (write || writes x || writes e.1) && (strict x || strict e.1))

/-- A bound that a granule's slice has recorded for a region. -/
def Gran.bound (g : Gran) (r : Nat) : Nat × Nat := FMap.getD g.recs r (0, 2 ^ 63 - 1)

/-- The narrowings of R273 for a request, row by row. -/
def State.narrowFor (s : State) (g x : Nat) (write : Bool) : State :=
  let gr := s.gran g
  let lo (s : State) (r : Nat) : Int := ((s.gran g).bound r).1
  let hi (s : State) (r : Nat) : Int := ((s.gran g).bound r).2
  if !write then
    let s := s.narrow g x true gr.wpos
    let s := s.setGran g { s.gran g with readers := dedup (gr.readers ++ [x]) }
    match gr.writer with
    | some w => if w = x then s
      else
        let s := s.narrow g x false (hi s w - 1)
        s.narrow g w true (lo s x + 1)
    | none => s
  else
    let s := s.narrow g x true (max gr.wpos (gr.rpos + 1))
    let s := (gr.readers.filter (· != x)).foldl (fun s y =>
      let s := s.narrow g y false (hi s x - 1)
      s.narrow g x true (lo s y + 1)) s
    let s := match gr.writer with
      | some w => if w = x then s
        else
          let s := s.narrow g x true (lo s w + 1)
          s.narrow g w false (hi s x - 1)
      | none => s
    s.setGran g { s.gran g with writer := some x, wrote := dedup (gr.wrote ++ [x]) }

/-- A region's request arrives at its granule's slice (R271-R274); it waits while the granule is sealed for another region, the page is not granted
(R98), or stores and words of the core in the line cannot go home before it (R104, R280). A request that reads no byte at the home meets no data error there. Where the request carries bounds older
than those that the slice sent last, the slice keeps the narrower of the two, since R272 says last carried or last sent (log 65). -/
def execGranuleRequest (req : Nat) (s : State) : Out :=
  .next (match s.units.greqs.find? (fun q => q.id == req) with
  | none => s
  | some q =>
    let (t, tid) := regionOf q.region
    match s.team? t, s.regionAt q.region with
    | some tm, some _ =>
      if (s.gran q.gran).sealed.any (· != q.region) || tm.earlier [tid] q.id || (s.core tm.core).busyD (q.pa / 128) then s
      else if s.needsGrant (some q.pte) q.pa q.write || s.prepWaits tm.core q.pa q.n then s.askHome tm.core q.pte q.pa q.write
      else
        let s := { s with units := { s.units with greqs := s.units.greqs.filter (fun e => e.id != req) } }
        match (if q.write || q.own.length == q.n then none else s.poisoned q.pa q.n) with
        | some str =>
          let s := q.wbs.foldl (fun (s : State) id => s.answer t id (fun i => (Config.freeWord s.freeCtr (8 * id + i)).setWidth 64)) s
          (s.abortRegion t tid 9 0).updThread t tid (fun th => { th with mcheck := th.mcheck ++ [(str, q.va, q.pa)] })
        | none =>
          let s := s.homePrep tm.core q.pa q.n
          let gr := s.gran q.gran
          if s.strictConflict gr q.region q.write then
            let s := q.wbs.foldl (fun (s : State) id => s.answer t id (fun i => (Config.freeWord s.freeCtr (8 * id + i)).setWidth 64)) s
            s.abortRegion t tid 2 0
          else
            let (lo, hi) := gr.bound q.region
            let s := s.setGran q.gran { gr with recs := FMap.set gr.recs q.region (max lo q.lo, min hi q.hi) }
            let s := s.narrowFor q.gran q.region q.write
            let home := s.homeBytes q.pa q.n
            let v := leNat ((List.range q.n).map (fun i => FMap.getD q.own (q.pa + i) ((home[i]?).getD 0)))
            q.wbs.foldl (fun (s : State) id => s.answer t id (fun i => BitVec.ofNat 64 (v / 2 ^ (32 * i) % 2 ^ 32))) s
    | _, _ => { s with units := { s.units with greqs := s.units.greqs.filter (fun e => e.id != req) } })

/-- A narrowing arrives at its region (R272); one that has chosen its position is narrowed no more (R275). A bound below zero leaves the interval
empty (log 21). -/
def execNarrowing (msg : Nat) (s : State) : Out :=
  .next (match s.units.nmsgs.find? (fun m => m.id == msg) with
  | none => s
  | some m =>
    let (t, tid) := regionOf m.region
    let s := { s with units := { s.units with nmsgs := s.units.nmsgs.filter (fun e => e.id != msg) } }
    (s.updThread t tid (fun th =>
      if !th.region.any (fun r => r.stage != 2) then th
      else if m.isLo then { th with xlo := BitVec.ofNat 64 (max th.xlo.toNat m.val.toNat) }
      else if m.val < 0 then { th with xhi := 0, xlo := BitVec.ofNat 64 (max th.xlo.toNat 1) }
      else { th with xhi := BitVec.ofNat 64 (min th.xhi.toNat m.val.toNat) })).imageRegion t tid none)

/-- A region's record changed. -/
def State.updRegion (s : State) (t tid : Nat) (f : Region → Region) : State :=
  s.updThread t tid (fun th => { th with region := th.region.map f })

/-- The next seal of a closing region arrives, or its position is chosen when all have (R275): it waits while the region's own
requests are on their way, and while another region has the granule sealed. -/
def execSeal (team thread : Nat) (s : State) : Out :=
  .next (match (s.team? team).bind (fun tm => ((tm.thread thread).region.map (fun r => (tm, r)))) with
  | none => s
  | some (tm, r) =>
    let th := tm.thread thread
    let x := regionNum team thread
    if r.stage ≠ 1 || s.units.greqs.any (fun q => q.region == x) then s
    else if r.late then
      if tm.earlier [thread] ((r.xe.map Prod.fst).getD 0) || !s.canRelease tm.core then s
      else (s.release tm.core).updRegion team thread (fun r => { r with late := false })
    else match r.toSeal with
      | g :: rest =>
        let gr := s.gran g
        if gr.sealed.any (· != x) then s
        else
          let (lo, hi) := gr.bound x
          let lo := if r.writeSet.contains g then max lo (max gr.wpos (gr.rpos + 1)) else lo
          (s.setGran g { gr with sealed := some x }).updRegion team thread (fun r =>
            { r with toSeal := rest, sealed := r.sealed ++ [g], lo := max r.lo lo, hi := min r.hi hi })
      | [] =>
        let lo := max th.xlo.toNat r.lo
        let hi := min th.xhi.toNat r.hi
        let s := (s.updThread team thread (fun th => { th with xlo := BitVec.ofNat 64 lo, xhi := BitVec.ofNat 64 hi })).imageRegion team thread none
        if hi < lo then s.abortRegion team thread 1 0
        else s.updRegion team thread (fun r => { r with stage := 2 }))

/-- The bytes of a granule that a region wrote, in runs of consecutive addresses. -/
def Region.runs (r : Region) (g : Nat) : List (Nat × List Byte) :=
  ((r.writes.filter (fun w => w.1 / 32 == g)).foldl (fun (acc : List (Nat × List Byte)) w =>
    match acc with
    | (a, bs) :: rest => if a + bs.length = w.1 then (a, bs ++ [w.2]) :: rest else (w.1, [w.2]) :: acc
    | [] => [(w.1, [w.2])]) []).reverse

/-- A core's clean bytes of a line go, but for a D line: a write at its home has passed them (R104). -/
def State.dropClean (s : State) (core line : Nat) : State :=
  s.updCore core (fun c => { c with lines := FMap.upd c.lines line (fun l =>
    if l.coh = 1 && !l.nc then l else { l with cells := l.cells.filter (fun x => x.2.2) }) })

/-- The dirty words of a core in some granules of a line go home, where nothing holds them (R104); the others stay dirty. -/
def State.writeBackReady (s : State) (core line : Nat) (q : Nat → Bool) : State :=
  match FMap.get? (s.core core).lines line with
  | none => s
  | some l => s.writeBackPart core line (fun i => q i && s.homeReady (some l.pte) (line * 128 + 32 * i) 32 true)

/-- A position reaches one sealed granule (R276). Before the bytes are installed the core's dirty words of the line go home, those of the granule,
for which the seal holds plain writes (R275), when it is gone, and the core keeps no clean byte of the line (R104). A word of another granule
that is sealed stays dirty (log 45). -/
def State.applyAt (s : State) (x : Nat) (r : Region) (core ctx g p : Nat) : State :=
  let wrote := r.writeSet.contains g
  let s := if wrote then s.writeBackReady core (g / 4) (· != g % 4) else s
  let s := if wrote then
      let w : HomeW := { core := some core, plain := false, pte := FMap.get? r.ptes g, ctx }
      let s := (r.runs g).foldl (fun s e => s.homeWrite w e.1 e.2) s
      let gr := s.gran g
      let s := s.setGran g { gr with wpos := p + 1 }
      let s := (gr.readers.filter (· != x)).foldl (fun s y => s.narrow g y false ((p : Int) - 1)) s
      match gr.writer with
      | some v => if v = x then s else s.narrow g v true (p + 1)
      | none => s
    else s
  let s := if r.reads.contains g then
      let gr := s.gran g
      let s := s.setGran g { gr with rpos := max gr.rpos p }
      match gr.writer with
      | some v => if v = x then s else s.narrow g v true (p + 1)
      | none => s
    else s
  let s := s.setGran g ((s.gran g).drop x)
  if wrote then (s.writeBackReady core (g / 4) (· == g % 4)).dropClean core (g / 4) else s

/-- The chosen position reaches the next sealed slice, once its page is granted (R98), or, when all have applied it, the region closes, as an
acquire, and XEND's results arrive (R105, R138, R275). -/
def execCommitApply (team thread : Nat) (s : State) : Out :=
  .next (match (s.team? team).bind (fun tm => ((tm.thread thread).region.map (fun r => (tm, r)))) with
  | none => s
  | some (tm, r) =>
    if r.stage ≠ 2 then s
    else
      let p := (tm.thread thread).xlo.toNat
      match r.sealed with
      | g :: rest =>
        let pte := FMap.get? r.ptes g
        if r.writeSet.contains g && s.needsGrant pte (g * 32) true then s.askGrant (g * 32) true
        else (s.applyAt (regionNum team thread) r tm.core tm.ctx g p).updRegion team thread (fun r => { r with sealed := rest })
      | [] =>
        let s := s.acquire tm.core
        let s := { s with ordClock := max s.ordClock (p + 1) }
        (s.updTeam team (fun tm => (tm.settle thread (some p)).updThread thread (fun th =>
          { th with region := th.region.map (fun r => { r with xe := none }) }))).dropRegion team thread)

end Sys2Proof.Machine
end

