-- ==== Sys2Proof/Machine/Acc.lean ====
section
/-!
DEFINITION. Accumulator memory (R24, R66-R70, R297): elements, partials and counts of a core, promotion, and the operand
slots' contents as exact values (R282, R291).
-/

namespace Sys2Proof.Machine

/-- Element e of an accumulator row of a core (R300). -/
def CoreSt.elem (c : CoreSt) (row e : Nat) : Word := FMap.getD c.acc (row * 64 + e) 0

/-- The bytes of a row from an offset on. -/
def CoreSt.rowBytes (c : CoreSt) (row off n : Nat) : List Byte :=
  (List.range n).map (fun i => BitVec.ofNat 8 ((c.elem row ((off + i) / 4)).toNat / 256 ^ ((off + i) % 4)))

/-- Bytes put into a row; half-lines written whole hold no data error any more (R388). -/
def CoreSt.putRow (c : CoreSt) (row off : Nat) (bs : List Byte) : CoreSt :=
  { c with accBad := c.accBad.filter (fun h => !(decide (row * 256 + off ≤ h * 64) && decide (h * 64 + 64 ≤ row * 256 + off + bs.length))), acc := (List.range bs.length).foldl (fun m i =>
      let k := row * 64 + (off + i) / 4
      let old : Word := FMap.getD m k 0
      FMap.set m k (BitVec.ofNat 32 (setBits old.toNat (8 * ((off + i) % 4)) 8 ((bs[i]?).getD 0).toNat))) c.acc }

/-- Partials and count of a unit cleared (R66). -/
def CoreSt.clearPart (c : CoreSt) (unit : Nat) : CoreSt :=
  { c with part := c.part.filter (fun e => e.1 / 4096 != unit), cnt := FMap.erase c.cnt unit }

/-- A unit's elements, partials and count cleared (R66, R299). -/
def CoreSt.clearUnit (c : CoreSt) (unit : Nat) : CoreSt :=
  { c.clearPart unit with acc := c.acc.filter (fun e => e.1 / 4096 != unit), accBad := c.accBad.filter (fun h => h / 256 != unit) }

/-- Promotion of a unit (R68): every partial is added into its element; the flags. -/
def CoreSt.promote (c : CoreSt) (unit : Nat) : CoreSt × BitVec 5 :=
  let keys := dedup ((c.acc.map Prod.fst ++ c.part.map Prod.fst).filter (fun k => k / 4096 == unit))
  let r := keys.foldl (fun (x : FMap Word × BitVec 5) k =>
    let q := promoteElem (FMap.getD c.acc k 0).toNat (FMap.getD c.part k 0).toNat
    (FMap.set x.1 k (BitVec.ofNat 32 q.1), x.2 ||| q.2)) (c.acc, 0)
  (({ c with acc := r.1 } : CoreSt).clearPart unit, r.2)

/-- Promotion before an access, when the unit's count is nonzero (R69). -/
def CoreSt.settle (c : CoreSt) (unit : Nat) : CoreSt × BitVec 5 := if FMap.getD c.cnt unit 0 = 0 then (c, 0) else c.promote unit

-- Operand slots.

/-- A value of a slot format (R43-R45); i8 by its sign. -/
def slotNum (fmt x : Nat) : Num :=
  if fmt = 2 then Num.ofBits f16 x else if fmt = 3 then Num.ofBits bf16 x
  else if fmt = 4 then decodeE4m3 x else if fmt = 5 then Num.ofBits e5m2 x
  else Num.ofInt (sext 8 x)

/-- Byte o of a slot. -/
def OSlot.byte (s : OSlot) (o : Nat) : Nat := (FMap.getD s.data o 0).toNat

/-- n bytes of a slot as a number. -/
def OSlot.num (s : OSlot) (o n : Nat) : Nat := (List.range n).foldr (fun i a => s.byte (o + i) + 256 * a) 0

/-- Scale of a cb4 slot's row, and its super-scale (R282). -/
def OSlot.scale (s : OSlot) (r : Nat) : Int := sext 8 (s.byte (2048 + r))
def OSlot.super (s : OSlot) : Nat := s.num 2112 4

/-- Slot element (r, c) (R282). -/
def OSlot.elem (s : OSlot) (r c : Nat) : Num :=
  if s.fmt = 9 then
    let b := s.byte (32 * r + c / 2)
    cb4Value (if c % 2 = 0 then b % 16 else b / 16) (s.scale r) s.super
  else if s.fmt = 2 || s.fmt = 3 then slotNum s.fmt (s.num ((64 * r + c) * 2) 2)
  else slotNum s.fmt (s.byte (64 * r + c))

/-- Element (i, j) of the operand that a slot holds, transposed when tr (R291). -/
def OSlot.at (s : OSlot) (i j : Nat) : Num := if s.tr then s.elem j i else s.elem i j

/-- A slot of a core. -/
def CoreSt.slot (c : CoreSt) (n : Nat) : OSlot := FMap.getD c.slots n {}

def CoreSt.setSlot (c : CoreSt) (n : Nat) (s : OSlot) : CoreSt := { c with slots := FMap.set c.slots n s }

/-- A team holds a slot. -/
def CoreSt.holds (c : CoreSt) (t n : Nat) : Bool := (c.slot n).state != 0 && (c.slot n).team == t

/-- The slots that a team holds, as a mask (R286). -/
def CoreSt.heldMask (c : CoreSt) (t : Nat) : Nat := (List.range 16).foldl (fun m n => if c.holds t n then m + 2 ^ n else m) 0

/-- Bytes put into a slot; half-lines written whole hold no data error any more (R388). -/
def CoreSt.putSlot (c : CoreSt) (k off : Nat) (bs : List Byte) : CoreSt :=
  let sl := c.slot k
  let c := { c with slotBad := c.slotBad.filter (fun h =>
    !(h / 128 == k && decide (off ≤ h % 128 * 64) && decide (h % 128 * 64 + 64 ≤ off + bs.length))) }
  c.setSlot k { sl with data := (List.range bs.length).foldl (fun m i => FMap.set m (off + i) ((bs[i]?).getD 0)) sl.data }

/-- A slot becomes free; its bytes stay. -/
def CoreSt.freeSlot (c : CoreSt) (n : Nat) : CoreSt := c.setSlot n { data := (c.slot n).data }

/-- The holder of a slot that no team holds while its fill goes on: the number of no team. -/
def noTeam : Nat := 2 ^ 64

/-- The team loses every slot; one being filled is free once its fill completes (R281, R284). -/
def CoreSt.freeSlots (c : CoreSt) (t : Nat) : CoreSt :=
  (List.range 16).foldl (fun (c : CoreSt) n =>
    if !c.holds t n then c
    else if (c.slot n).state = 2 then c.setSlot n { c.slot n with rel := true, team := noTeam }
    else c.freeSlot n) c

-- Classes.

/-- The class of 4,096 element patterns of a format, row by row, by R305: class, f and cval. -/
def classOf (fmt : Nat) (xs : List Nat) : Nat × Bool × Nat :=
  let f := xs.all (fun x => !fmtSpecial fmt x)
  let x0 := xs.headD 0
  let ident := (xs.zip (List.range 4096)).all (fun p => p.1 == (if p.2 / 64 = p.2 % 64 then fmtOne fmt else 0))
  if xs.all (· == 0) then (1, f, 0)
  else if ident then (3, f, 0)
  else if xs.all (· == x0) then (2, f, x0)
  else (0, f, 0)

end Sys2Proof.Machine
end

