-- ==== Sys2Proof/Machine/Engine.lean ====
section
/-!
DEFINITION. Engine operations as the engines carry them out (R119-R124, R231-R246): layout records and boxes, pieces that land,
fault units, completion and retirement.
-/

namespace Sys2Proof.Machine

-- Reading by an engine or another agent without lanes.

/-- What a read through a translation gives: bytes, a failed translation, a wait for a grant, a data error. -/
inductive Got where
  | ok (bs : List Byte)
  | fail (va : DWord)
  | wait (pa : Nat)
  | data (str : Nat) (va : DWord) (pa : Nat)
  deriving DecidableEq, Repr

/-- n bytes at a VA, page by page, at their home. -/
def State.vread (s : State) (x : Xlat) (va : DWord) (n : Nat) : Nat → Got
  | 0 => .ok []
  | fuel + 1 =>
    if n = 0 then .ok []
    else match s.xlate x false va .read with
      | .error _ => .fail va
      | .ok e =>
        let k := min n (4096 - va.toNat % 4096)
        let pa := paOf e va
        if s.needsGrant (some e) pa false then .wait pa
        else match s.poisoned pa k with
          | some str => .data str va pa
          | none =>
            match State.vread s x (va + BitVec.ofNat 64 k) (n - k) fuel with
            | .ok bs => .ok (s.homeBytes pa k ++ bs)
            | g => g

/-- A read of up to a few pages. -/
def State.vget (s : State) (x : Xlat) (va : DWord) (n : Nat) : Got := s.vread x va n (n / 4096 + 2)

/-- Pages of such a read without a route raise the machine-check interrupt of its context (R387). -/
def State.vroute (s : State) (x : Xlat) (va : DWord) (n : Nat) : State :=
  (List.range ((va.toNat % 4096 + n + 4095) / 4096)).foldl (fun (s : State) i =>
    let a := if i = 0 then va else BitVec.ofNat 64 ((va.toNat / 4096 + i) * 4096)
    match s.pte? x a with
    | some e => s.noRoute x.die x.ctx (paOf e a)
    | none => s) s

/-- The operations of majors 0x3A and 0x3B. -/
def Eng.direct : Eng → Bool
  | .scommit | .sraise | .squery | .sstart | .sstop | .glaunch | .qput => true
  | _ => false

-- Layout records (R181, R233).

/-- A layout record; dimensions at or above ndim read extent 1, box 1. -/
structure Layout where
  base : DWord
  fmt : Nat
  dkind : Nat
  ndim : Nat
  ext : List Nat
  str : List Nat
  box : List Nat
  deriving DecidableEq, Repr

/-- A record's fields; reserved codes read as zero (R7). -/
def Layout.ofBytes (bs : List Byte) : Layout :=
  let x := leNat bs
  let nd := bits x 74 72
  let fmt := bits x 67 64
  { base := BitVec.ofNat 64 (bits x 63 0), fmt := if fmt ≤ 9 then fmt else 0, dkind := if bits x 69 68 = 3 then 0 else bits x 69 68, ndim := nd,
    ext := (List.range 5).map (fun n => if n < nd then bits x (127 + 32 * n) (96 + 32 * n) else 1),
    str := 0 :: (List.range 4).map (fun n => if n + 1 < nd then bits x (303 + 48 * n) (256 + 48 * n) else 0),
    box := (List.range 5).map (fun n => if n < nd then bits x (455 + 8 * n) (448 + 8 * n) + 1 else 1) }

/-- The element of a list of numbers. -/
def nth (l : List Nat) (n : Nat) : Nat := (l[n]?).getD 0

/-- Bytes of n elements of a format; two cb4 elements to the byte (R233). -/
def fmtSize (fmt n : Nat) : Nat := if fmt = 9 then n / 2 else if fmt = 0 then n else n * fmtBytes fmt

/-- The nominal bytes of the box (R233). -/
def Layout.nominal (l : Layout) : Nat := fmtSize l.fmt (l.box.foldl (· * ·) 1)

/-- A place moved on by n bytes. -/
def Loc.add (n : Nat) : Loc → Loc
  | .glob va => .glob (va + BitVec.ofNat 64 n)
  | .scr u off => .scr u (off + n)
  | .slot k off => .slot k (off + n)
  | .acc r off => .acc r (off + n)
  | .imm bs => .imm (bs.drop n)
  | .zero => .zero
  | .skip => .skip
  | .nib va => .nib va
  | .join a k b => if n < k then .join (a.add n) (k - n) b else b.add (n - k)

/-- Bytes from a place to the end of its page. -/
def Loc.room : Loc → Nat
  | .glob va => 4096 - va.toNat % 4096
  | _ => 4096

/-- n bytes from a VA, page by page. -/
def globParts (va : DWord) (n : Nat) : Nat → List (Loc × Nat)
  | 0 => []
  | fuel + 1 =>
    let k := 4096 - va.toNat % 4096
    if n ≤ k then [(.glob va, n)] else (.glob va, k) :: globParts (va + BitVec.ofNat 64 k) (n - k) fuel

/-- The parts of n bytes of a place, each inside one page. -/
def Loc.parts : Loc → Nat → List (Loc × Nat)
  | .join a k b, n => a.parts (min n k) ++ (if k < n then b.parts (n - k) else [])
  | .glob va, n => globParts va n (n / 4096 + 2)
  | l, n => [(l, n)]

/-- The VAs of the parts on the global side. -/
def Loc.vas (l : Loc) (n : Nat) : List (DWord × Nat) :=
  (l.parts n).filterMap (fun p => match p.1 with
    | .glob va => some (va, p.2)
    | .nib va => some (va, 1)
    | _ => none)

/-- The position of a place within the naturally aligned units of 8 bytes. -/
def Loc.phase8 : Loc → Nat
  | .glob va => va.toNat % 8
  | .scr _ off => off % 8
  | .slot _ off => off % 8
  | .acc _ off => off % 8
  | _ => 0

/-- The bytes a unit that must land whole has past a place k bytes into a piece: a naturally aligned unit of 8 bytes of a move (R111), an element
of an addition (R240). -/
def Chunk.over (c : Chunk) (k : Nat) : Nat :=
  match c.how with
  | .move => (c.dst.phase8 + k) % 8
  | .addF => if c.dst.phase8 % 4 = 0 then (c.dst.phase8 + k) % 8 else k % 4
  | .addI => if c.dst.phase8 % 4 = 0 then (c.dst.phase8 + k) % 8 else k % 4
  | .keep => k % 4
  | _ => 0

/-- Elements are added one by one. -/
def How.adds (h : How) : Bool := h == .addF || h == .addI

/-- The bytes of a unit that must land whole: of aligned elements that are added too, it is the aligned unit (R111). -/
def Chunk.unit (c : Chunk) : Nat :=
  match c.how with
  | .move => 8
  | .addF => if c.dst.phase8 % 4 = 0 then 8 else 4
  | .addI => if c.dst.phase8 % 4 = 0 then 8 else 4
  | .keep => 4
  | _ => 8

/-- A piece cut at page boundaries on either side (R236); a unit that lands whole is not cut, so its piece touches both pages. -/
def Chunk.cut (c : Chunk) : Nat → List Chunk
  | 0 => []
  | fuel + 1 =>
    let room := min c.src.room c.dst.room
    if c.n ≤ room then [c]
    else
      let o := c.over room
      let k := if o = 0 then room else if o < room then room - o else min c.n (room + c.unit - o)
      { c with n := k, nom := min k c.nom } ::
        Chunk.cut { c with src := c.src.add k, dst := c.dst.add k, n := c.n - k, nom := c.nom - min k c.nom } fuel

/-- Pieces of a run of n bytes. -/
def pieces (src dst : Loc) (n : Nat) (how : How) : List Chunk :=
  if n = 0 then [] else Chunk.cut ⟨src, dst, n, n, how⟩ (n / 1024 + 6)

/-- Intervals, by start and length, cover the first n bytes. -/
def covers (n : Nat) (ivs : List (Nat × Nat)) : Bool :=
  (sortNat (ivs.map (fun p => p.1 * 2 ^ 20 + p.2))).foldl (fun reach k =>
    if k / 2 ^ 20 ≤ reach then max reach (k / 2 ^ 20 + k % 2 ^ 20) else reach) 0 |> fun reach => decide (n ≤ reach)

/-- The naturally aligned unit of 8 bytes in which a place lies. -/
def Loc.unit8 : Loc → Nat × Nat × Nat
  | .glob va => (0, 0, va.toNat / 8)
  | .scr u off => (1, u, off / 8)
  | .slot k off => (2, k, off / 8)
  | .acc r off => (3, r, off / 8)
  | _ => (4, 0, 0)

/-- n bytes of a piece from the k-th on. -/
def Chunk.part (c : Chunk) (k n : Nat) : Chunk := { c with src := c.src.add k, dst := c.dst.add k, n, nom := min n (c.nom - min k c.nom) }

/-- The first and the last bytes of a move, or of an addition of aligned elements, that lie in an aligned unit of the destination which it does not
fill. -/
def Chunk.ends (c : Chunk) : Nat × Nat :=
  if !(c.how == .move || (c.how.adds && c.dst.phase8 % 4 == 0)) || c.src == .skip || c.dst == .skip then (0, 0)
  else
    let h := min c.n ((8 - c.dst.phase8) % 8)
    (h, if c.n = h then 0 else (c.dst.phase8 + c.n) % 8)

/-- Those bytes as pieces of their own. -/
def Chunk.endParts (c : Chunk) : List Chunk :=
  let (h, t) := c.ends
  (if h = 0 then [] else [c.part 0 h]) ++ (if t = 0 then [] else [c.part (c.n - t) t])

/-- A move without the ends that lie in units of a list. -/
def Chunk.without (c : Chunk) (units : List (Nat × Nat × Nat)) : List Chunk :=
  let (h, t) := c.ends
  let h := if units.contains c.dst.unit8 then h else 0
  let t := if t != 0 && units.contains (c.dst.add (c.n - t)).unit8 then t else 0
  if h = 0 && t = 0 then [c] else if c.n = h + t then [] else [c.part h (c.n - h - t)]

/-- Where the bytes of a unit from byte i on come from: each from the last of the parts that write it. -/
def unitLoc (ps : List Chunk) (i : Nat) : Nat → Loc
  | 0 => .zero
  | fuel + 1 =>
    let of (j : Nat) : Option Chunk := ps.reverse.find? (fun c => decide (c.dst.phase8 ≤ j) && decide (j < c.dst.phase8 + c.n))
    match of i with
    | none => .zero
    | some c =>
      let k := ((List.range (8 - i)).takeWhile (fun j => of (i + j) == some c)).length
      let l := c.src.add (i - c.dst.phase8)
      if 8 ≤ i + k then l else .join l k (unitLoc ps (i + k) fuel)

/-- The piece of an aligned unit that several moves of an operation fill. -/
def unitPiece (ps : List Chunk) : Option Chunk :=
  (ps.find? (fun c => c.dst.phase8 == 0)).map (fun c =>
    ⟨unitLoc ps 0 8, c.dst, 8, ps.foldl (fun n c => n + c.nom) 0, c.how⟩)

/-- The pieces of an operation: an aligned unit of its destination that it covers is in one of them, whatever moves cover it together, so that
the unit lands whole (R111). Additions that meet in one element all stand, so they stay apart (R240). -/
def welded (cs : List Chunk) : List Chunk :=
  let ps := cs.flatMap Chunk.endParts
  let units := ps.foldl (fun (us : List (Nat × Nat × Nat)) c => if us.contains c.dst.unit8 then us else us ++ [c.dst.unit8]) []
  let mine (u : Nat × Nat × Nat) : List Chunk := ps.filter (fun c => c.dst.unit8 == u)
  let full := units.filter (fun u => covers 8 ((mine u).map (fun c => (c.dst.phase8, c.n))) &&
    ((mine u).all (fun c => c.how == .move) || (mine u).foldl (fun n c => n + c.n) 0 == 8))
  if full.isEmpty then cs else cs.flatMap (fun c => c.without full) ++ full.filterMap (fun u => unitPiece (mine u))

/-- The pieces of one row of a box (R233): `ib` in-bounds elements of `b0`, tensor address, near place; a load writes zeros out of
bounds, a store skips. -/
def rowPieces (fmt ib b0 : Nat) (ta : DWord) (near : Loc) (store : Bool) (how : How) : List Chunk :=
  let n := fmtSize fmt ib
  let total := fmtSize fmt b0
  let half := fmt = 9 && ib % 2 == 1
  let rest := total - n - b2n half
  let tn := Loc.glob (ta + BitVec.ofNat 64 n)
  if store then
    pieces near (.glob ta) n how ++
    (if half then [⟨near.add n, tn, 1, 1, .nibble⟩] else []) ++
    (if rest = 0 then [] else [⟨.skip, .skip, 0, rest, .move⟩])
  else
    pieces (.glob ta) near n how ++
    (if half then [⟨.nib (ta + BitVec.ofNat 64 n), near.add n, 1, 1, .move⟩] else []) ++
    pieces .zero (near.add (n + b2n half)) rest .move

/-- The pieces of a box (R233): coordinates c0-c4, near place of element 0. -/
def Layout.pieces (l : Layout) (c : List Nat) (near : Loc) (store : Bool) (how : How) : List Chunk :=
  let b (n : Nat) : Nat := nth l.box n
  let e (n : Nat) : Nat := nth l.ext n
  let cc (n : Nat) : Nat := if n < l.ndim then nth c n else 0
  let row := fmtSize l.fmt (b 0)
  (List.range (b 1 * b 2 * b 3 * b 4)).flatMap (fun r =>
    let j := [0, r % b 1, r / b 1 % b 2, r / (b 1 * b 2) % b 3, r / (b 1 * b 2 * b 3)]
    let i (n : Nat) : Nat := cc n + nth j n
    let inside := [1, 2, 3, 4].all (fun n => decide (i n < e n))
    let ib := if inside then min (b 0) (e 0 - cc 0) else 0
    let ta := l.base + BitVec.ofNat 64 (fmtSize l.fmt (cc 0) + ([1, 2, 3, 4].foldl (fun a n => a + i n * nth l.str n) 0))
    rowPieces l.fmt ib (b 0) ta (near.add (r * row)) store how)

-- Pages and tiles of a tiled access (R84, R85).

/-- The tiles that the bytes of a place touch, by VA. -/
def Loc.tiles (tsz : Nat) (l : Loc) (n : Nat) : List Nat :=
  if n = 0 then [] else (l.vas n).flatMap (fun p => [p.1.toNat / tsz * tsz, (p.1.toNat + p.2 - 1) / tsz * tsz])

/-- The tiles that the tensor side of pieces touches, by VA. -/
def tilesOf (tsz : Nat) (store : Bool) (cs : List Chunk) : List Nat :=
  dedup (cs.flatMap (fun c => (if store then c.dst else c.src).tiles tsz c.n))

/-- The first VA of each page that a tile of a format spans. -/
def tilePages (fmt t : Nat) : List DWord := (List.range (max 1 (tileBytes fmt / 4096))).map (fun k => BitVec.ofNat 64 (t + 4096 * k))

/-- Every page of every tile that translates has the layout's format and a legal geometry, and the pages of a tile agree (R84,
R85). -/
def State.tilesOk (s : State) (x : Xlat) (fmt : Nat) (tiles : List Nat) : Bool :=
  tiles.all (fun t =>
    let es := (tilePages fmt t).filterMap (s.pte? x)
    let tag (e : Nat) : Nat × Nat × Bool := (pteFmt e, pteGeo e, pteTde e)
    es.all (fun e => pteFmt e == fmt && tileLegal fmt (pteGeo e) && some (tag e) == es.head?.map tag))

/-- The tiles that a tiled store writes whole, with their first VA (R304). -/
def wholeTiles (fmt : Nat) (cs : List Chunk) : List Nat :=
  let tsz := tileBytes fmt
  let vas := cs.flatMap (fun c => if c.n = 0 then [] else c.dst.vas c.n)
  (tilesOf tsz true cs).filter (fun t => covers tsz (vas.filterMap (fun p =>
    let a := p.1.toNat
    if a < t + tsz && t < a + p.2 then some (a - t, min (a + p.2) (t + tsz) - max a t) else none)))

-- The translation and phase object of an operation.

/-- How an operation's accesses translate: by the root in force for its team (R375), or of the context when it has none. -/
def State.opXlat (s : State) (o : Op) : Xlat :=
  let root := match o.team.bind s.team? with
    | some tm => tm.eff.root
    | none => (s.ctx o.ctx).root
  ⟨o.core / 192, o.ctx, root.toNat, o.priv⟩

/-- An operation in flight. -/
def State.op? (s : State) (id : Nat) : Option Op := FMap.get? s.ops id

def State.updOp (s : State) (id : Nat) (f : Op → Op) : State := { s with ops := FMap.upd s.ops id f }

/-- An operation's phase object: none, a failed translation, or its place. -/
def State.phaseAt (s : State) (o : Op) : Except DWord (Option PhAt) :=
  match o.phase with
  | .none => .ok none
  | .scratch a => .ok (some (.scr (a / 2 ^ 20) (a % 2 ^ 20)))
  | .glob va =>
    match s.xlate (s.opXlat o) false va .rmw with
    | .error _ => .error va
    | .ok e => .ok (some (.mem (paOf e va) e))

/-- The tiles of a tiled operation that a piece touches (R85). -/
def Op.tiles (o : Op) (c : Chunk) : List Nat :=
  if o.tdir = 0 || c.how == .look then [] else dedup ((if o.tdir = 2 then c.dst else c.src).tiles (tileBytes o.fmt) c.n)

/-- The VA at which a piece's translation fails (R236). A tiled piece compares every page of its tiles (R85), so one of them that does not
translate holds it too (log 36). -/
def State.chunkFault (s : State) (o : Op) (c : Chunk) : Option DWord :=
  let x := s.opXlat o
  let look (k : Access) (p : DWord × Nat) : Option DWord := match s.xlate x false p.1 k with
    | .error _ => some p.1
    | .ok _ => none
  let dstKind : Access := match c.how with
    | .move => .write
    | _ => .rmw
  let sides := ((c.src.vas c.n).findSome? (look .read)).orElse (fun _ => (c.dst.vas c.n).findSome? (look dstKind)) |>.orElse (fun _ =>
    ((o.tiles c).flatMap (tilePages o.fmt)).find? (fun va => (s.pte? x va).isNone))
  match s.phaseAt o with
  | .error va => if c.nom = 0 then sides else some va
  | .ok _ => sides

/-- A piece touches a page, on either side, by a tile or by its phase object. -/
def touches (o : Op) (c : Chunk) (page : Nat) : Bool :=
  ((c.src.vas c.n) ++ (c.dst.vas c.n)).any (fun p => p.1.toNat / 4096 == page) ||
  (o.tiles c).any (fun t => decide (t / 4096 ≤ page) && decide (page < (t + tileBytes o.fmt + 4095) / 4096)) ||
  (c.nom != 0 && (match o.phase with
    | .glob va => va.toNat / 4096 == page
    | _ => false))

/-- The bytes of a place, part by part. -/
def State.locBytes (s : State) (o : Op) (l : Loc) (n : Nat) : List Byte :=
  let at_ (va : DWord) (n : Nat) : List Byte := match s.pte? (s.opXlat o) va with
    | some e => s.homeBytes (paOf e va) n
    | none => List.replicate n 0
  (l.parts n).flatMap (fun p => match p.1 with
    | .glob va => at_ va p.2
    | .nib va => (at_ va 1).map (fun b => b &&& 0x0F)
    | .scr u off => s.scrGet u off p.2
    | .slot k off => (List.range p.2).map (fun i => BitVec.ofNat 8 (((s.core o.core).slot k).byte (off + i)))
    | .acc r off => (s.core o.core).rowBytes r off p.2
    | .imm bs => bs.take p.2
    | .zero => List.replicate p.2 0
    | .skip => []
    | .join _ _ _ => [])

/-- The lines of its issuing core that an operation's access to a range makes ready first (R104). -/
def State.engPrep (s : State) (o : Op) (pa n : Nat) : State := if o.team.isSome then s.homePrep o.core pa n else s

/-- The address of a byte of a core's storage in the window region (R78, R79). -/
def State.windowPa (s : State) (unit core off : Nat) : Nat :=
  s.local (windowBase + core / 192 * 2 ^ 38 + core % 192 / 48 * 2 ^ 36 + core % 48 * 2 ^ 30 + unit * 2 ^ 26 + off)

/-- The window address of a byte of a team's scratch (R79, R382); 0 for a page that no frame holds. -/
def State.scrPa (s : State) (u off : Nat) : Nat :=
  match s.team? u with
  | none => 0
  | some um => match FMap.get? um.pinned (off / 4096) with
    | some f => s.windowPa 1 um.core (f * 4096 + off % 4096)
    | none => 0

/-- Bytes counted toward an operation's phase object (R237), at its home as every engine access is made (R104, R387). A phase object whose page
does not translate takes none. A data error in its half-line is the operation's (R364, R388); the object is updated, and in memory has a new code. -/
def State.count (s : State) (id : Nat) (o : Op) (f : Phase × Nat → Phase × Nat) : State :=
  match s.phaseAt o with
  | .ok (some (.mem pa e)) =>
    let s := (s.engPrep o pa 16).noRoute (o.core / 192) o.ctx pa
    let s := match FMap.get? s.links.poison (pa / 64) with
      | some str => ({ s with links := { s.links with poison := FMap.erase s.links.poison (pa / 64) } }).updOp id (fun o => o.hit (str, match o.phase with
        | .glob va => va
        | _ => 0, pa))
      | none => s
    s.phUpdate (.mem pa e) f o.ctx
  | .ok (some (.scr u off)) =>
    let s := match s.scrErrorAt u off 16 with
      | some a => s.updOp id (fun o => o.hit (3, 0, s.scrPa u a))
      | none => s
    s.phUpdate (.scr u off) f
  | _ => s

/-- Bytes that settle now are counted, and parked bytes that the object still holds are taken back (R237). -/
def State.countLand (s : State) (id : Nat) (o : Op) (n : Nat) : State :=
  (s.count id o (fun x => Phase.land n (Phase.unpark o.debt x))).updOp id (fun o => { o with debt := 0 })

/-- Bytes put at a place by an operation. -/
def State.locPut (s : State) (id : Nat) (o : Op) (l : Loc) (bs : List Byte) : State :=
  ((l.parts bs.length).foldl (fun (acc : State × List Byte) p =>
    let (s, bs) := acc
    let b := bs.take p.2
    (match p.1 with
      | .glob va =>
        match s.pte? (s.opXlat o) va with
        | some e => (s.engPrep o (paOf e va) b.length).homeWriteN { pte := some e, op := id, ctx := o.ctx } (paOf e va) b (b.length / 128 + 2)
        | none => s
      | .scr u off => s.scrPut u off b
      | .slot k off => s.updCore o.core (fun c => c.putSlot k off b)
      | .acc r off => s.updCore o.core (fun c => c.putRow r off b)
      | _ => s, bs.drop p.2)) (s, bs)).1

/-- The translated parts of a place: entry, physical address, length. -/
def State.locPas (s : State) (o : Op) (l : Loc) (n : Nat) : List (Nat × Nat × Nat) :=
  (l.vas n).filterMap (fun p => (s.pte? (s.opXlat o) p.1).map (fun e => (e, paOf e p.1, p.2)))

/-- The place in memory of an operation's phase object, which it writes. -/
def State.phasePlace (s : State) (o : Op) : List ((Nat × Nat × Nat) × Bool) :=
  match s.phaseAt o with
  | .ok (some (.mem pa e)) => [((e, pa, 16), true)]
  | _ => []

/-- What accesses of an operation to places still wait for (R98, R104, R275): a grant that is asked for, or a seal. -/
def State.placesWait (s : State) (o : Op) (sides : List ((Nat × Nat × Nat) × Bool)) : Option State :=
  let waits (w : (Nat × Nat × Nat) × Bool) : Bool :=
    !s.homeReady (some w.1.1) w.1.2.1 w.1.2.2 w.2 || (o.team.isSome && s.prepWaits o.core w.1.2.1 w.1.2.2)
  if sides.any waits then
    some (sides.foldl (fun (s : State) w =>
      let s := if s.needsGrant (some w.1.1) w.1.2.1 w.2 then s.askGrant w.1.2.1 w.2 else s
      if o.team.isSome then
        (linesOf w.1.2.1 w.1.2.2).foldl (fun (s : State) line => match FMap.get? (s.core o.core).lines line with
          | some l => s.askLine line l
          | none => s) s
      else s) s)
  else none

/-- What a piece still waits for (R98, R104, R275): a grant that is asked for, or a seal; its phase object counts as one of its places. -/
def State.chunkWait (s : State) (o : Op) (c : Chunk) : Option State :=
  let sides := (s.locPas o c.src c.n).map (fun p => (p, false)) ++ (s.locPas o c.dst c.n).map (fun p => (p, true)) ++
    (if c.nom = 0 then [] else s.phasePlace o)
  s.placesWait o sides

/-- The first half-line with a data error that a write of n bytes fills only in part: its old code is checked, and its address (R388). -/
def State.partBad (s : State) (pa n : Nat) : Option (Nat × Nat) :=
  (List.range ((pa + n - 1) / 64 + 1 - pa / 64)).findSome? (fun i =>
    let h := pa / 64 + i
    if decide (pa ≤ h * 64) && decide (h * 64 + 64 ≤ pa + n) then none else (FMap.get? s.links.poison h).map (fun str => (str, h * 64)))

/-- The data error that n bytes at a place hold: structure, VA where there is one, physical address (R359, R364, R382). -/
def State.locBad (s : State) (o : Op) (l : Loc) (n : Nat) : Option (Nat × DWord × Nat) :=
  (l.parts n).findSome? (fun p =>
    let at_ (va : DWord) : Option (Nat × DWord × Nat) := match s.pte? (s.opXlat o) va with
      | some e => (s.poisoned (paOf e va) p.2).map (fun str => (str, va, paOf e va))
      | none => none
    match p.1 with
    | .glob va => at_ va
    | .nib va => at_ va
    | .scr u off => (s.scrErrorAt u off p.2).map (fun a => (3, 0, s.scrPa u a))
    | .acc r off => if (s.core o.core).accBad.any (fun h => decide (h * 64 < r * 256 + off + p.2) && decide (r * 256 + off < h * 64 + 64)) then
        some (5, 0, s.windowPa 3 o.core (r * 256 + off)) else none
    | _ => none)

/-- The data error of a half-line of memory that a piece would write in part (R388). -/
def State.locPart (s : State) (o : Op) (l : Loc) (n : Nat) : Option (Nat × DWord × Nat) :=
  (l.vas n).findSome? (fun p => match s.pte? (s.opXlat o) p.1 with
    | some e => (s.partBad (paOf e p.1) p.2).map (fun b => (b.1, p.1, b.2))
    | none => none)

/-- A data error that a piece meets (R235, R364): in what it reads, to which an addition adds its destination, or in a half-line that it writes
in part (R388). Such a piece moves nothing (log 36). A piece that starts a tile reads nothing yet (R285). -/
def State.chunkBad (s : State) (o : Op) (c : Chunk) : Option (Nat × DWord × Nat) :=
  match c.how with
  | .tile => none
  | .addF => (s.locBad o c.src c.n).orElse (fun _ => s.locBad o c.dst c.n)
  | .addI => (s.locBad o c.src c.n).orElse (fun _ => s.locBad o c.dst c.n)
  | .move => (s.locBad o c.src c.n).orElse (fun _ => s.locPart o c.dst c.n)
  | .nibble => (s.locBad o c.src c.n).orElse (fun _ => s.locPart o c.dst c.n)
  | _ => s.locBad o c.src c.n

/-- Elements of 4 bytes added one by one (R240). -/
def addElems (isF : Bool) (old add : List Byte) : List Byte :=
  (List.range (old.length / 4)).flatMap (fun i =>
    let a := leNat ((old.drop (4 * i)).take 4)
    let b := leNat ((add.drop (4 * i)).take 4)
    natLe 4 (if isF then (fAdd f32 .rne a b).1 else (a + b) % 2 ^ 32))

/-- An accumulator unit is settled before a piece touches its rows (R69, R300): promoted, and after a load without partials. -/
def State.settleRow (s : State) (id : Nat) (o : Op) (c : Chunk) : State :=
  let go (row : Nat) (load : Bool) : State :=
    let (k, fl) := (s.core o.core).settle (row / 64)
    (s.updCore o.core (fun _ => if load then k.clearPart (row / 64) else k)).updOp id (fun o => { o with flags := o.flags ||| fl })
  match c.src, c.dst with
  | .acc r _, _ => go r false
  | _, .acc r _ => go r true
  | _, _ => s

/-- The elements of a piece kept for an ordered set, byte k of the element that begins at physical address a under 4a + k, each with its own
physical address (R240). -/
def State.keepPiece (s : State) (id : Nat) (o : Op) (c : Chunk) (bs : List Byte) : State :=
  let pas := (s.locPas o c.dst c.n).flatMap (fun p => (List.range p.2.2).map (fun i => (p.2.1 + i, p.1)))
  let key (i : Nat) : Nat := 4 * ((pas[i / 4 * 4]?).getD (0, 0)).1 + i % 4
  let at_ (i : Nat) : Nat × Nat := (pas[i]?).getD (0, 0)
  let gen := (c.dst.vas c.n).foldl (fun g p => min g (s.genAt (s.opXlat o) p.1)) o.gen
  s.updOp id (fun o => { o with
    gen
    got := (List.range bs.length).foldl (fun m i => FMap.set m (key i) ((bs[i]?).getD 0)) o.got
    pas := (List.range bs.length).foldl (fun m i => FMap.set m (key i) (at_ i).1) o.pas
    ptes := pas.foldl (fun m p => FMap.set m (p.1 / 4096) p.2) o.ptes })

/-- The places of a piece without a route raise the machine check of the operation's context (R387). -/
def State.routes (s : State) (o : Op) (c : Chunk) : State :=
  (s.locPas o c.src c.n ++ s.locPas o c.dst c.n).foldl (fun s p => s.noRoute (o.core / 192) o.ctx p.2.1) s

/-- The lines that an operation reads at a place are made ready (R104). -/
def State.readPrep (s : State) (o : Op) (l : Loc) (n : Nat) : State := (s.locPas o l n).foldl (fun s p => s.engPrep o p.2.1 p.2.2) s

/-- The release of an operation's issue that earlier accesses of its threads have held back (R119, R393) is made once they have performed: of the core at
which it issued, and of the one where its team has resumed since and made them (R140). -/
def State.lateRelease (s : State) (id : Nat) (o : Op) : State :=
  let tm := o.team.bind s.team?
  let cores := dedup (o.core :: (tm.map (fun tm => tm.core)).toList)
  if tm.any (fun tm => tm.earlier o.after id) || !cores.all s.canRelease then s
  else (cores.foldl State.release s).updOp id (fun o => { o with after := [] })

/-- A piece reads its destination too: an addition, and the store of half a byte. -/
def How.readsDst (h : How) : Bool := h.adds || h == .nibble

/-- The effect of one piece that translates, is granted and has no data error: the bytes it moves, and its nominal bytes counted. The lines that it
reads, of its destination too where it adds to that, are ready before it reads them (R104, R110). -/
def State.landPiece (s : State) (id : Nat) (o : Op) (c : Chunk) : State :=
  let s := s.settleRow id o c
  let s := s.routes o c
  let s := s.readPrep o c.src c.n
  let s := if c.how.readsDst then s.readPrep o c.dst c.n else s
  let bs := s.locBytes o c.src c.n
  let s := match c.how with
    | .move => s.locPut id o c.dst bs
    | .nibble => s.locPut id o c.dst [(s.locBytes o c.dst 1).headD 0 &&& 0xF0 ||| (bs.headD 0 &&& 0x0F)]
    | .addF => s.locPut id o c.dst (addElems true (s.locBytes o c.dst c.n) bs)
    | .addI => s.locPut id o c.dst (addElems false (s.locBytes o c.dst c.n) bs)
    | .keep => s.keepPiece id o c bs
    | _ => s
  -- a store of accumulator rows keeps what it stored, for its class
  let s := match c.src with
    | .acc r off => s.updOp id (fun o => { o with got := (List.range bs.length).foldl (fun m i => FMap.set m (r * 256 + off + i) ((bs[i]?).getD 0)) o.got })
    | _ => s
  let s := if c.nom = 0 || c.how = .keep then s else s.countLand id o c.nom
  let moved := match c.how with
    | .move => if c.src = .skip then (if c.dst = .skip then 0 else c.nom) else max c.n c.nom
    | .nibble => 1
    | .addF => c.n
    | .addI => c.n
    | .keep => c.n
    | _ => 0
  s.updOp id (fun o => { o with moved := o.moved + moved, counted := if c.how = .keep then o.counted else o.counted + c.nom })

/-- Older matrix operations of the team, in issue order, are done (R295, R35). -/
def State.matrixTurn (s : State) (id : Nat) (o : Op) : Bool :=
  o.cls != 2 || s.ops.all (fun e => decide (id ≤ e.1) || e.2.team != o.team || e.2.cls != 2 || e.2.done)

end Sys2Proof.Machine
end

