-- ==== Sys2Proof/Machine/Copy.lean ====
section
/-!
DEFINITION. How engine operations are planned from their records, land, park, complete and retire (R232-R244, R284, R285,
R295, R300, R304), as events.
-/

namespace Sys2Proof.Machine

-- Standing sets as SREAD sees them.

/-- The started set whose descriptor lies at a physical address (R242, R330). -/
def State.setAt (s : State) (pa : Nat) : Option (Nat × SSet) := s.sets.find? (fun e => e.2.pa == pa)

/-- The residual that counts for a cell: what it holds, or what it has absorbed while running (R328). -/
def Cell.live (c : Cell) : Word := if c.state = 2 then c.inacc else c.res

/-- The largest live residual of a set, faulted cells left out (R328). -/
def SSet.maxLive (e : SSet) : Word := e.cells.foldl (fun m c => if c.2.state != 4 && decide (m.toNat < c.2.live.toNat) then c.2.live else m) 0

/-- Queued cells are pinned-shadow while their shadow buffer holds a pin (R311). -/
def Cell.norm (c : Cell) : Cell :=
  if c.state = 1 || c.state = 3 then { c with state := if (if c.cur then c.pina else c.pinb) = 0 then 1 else 3 } else c

/-- A set with one cell changed. -/
def State.updCell (s : State) (sid cell : Nat) (f : Cell → Cell) : State :=
  { s with sets := FMap.upd s.sets sid (fun e => { e with cells := FMap.upd e.cells cell f }) }

-- Planning.

/-- What planning an operation from its record gives: a refusal, or its pieces, or a data error that its index list holds. -/
structure Plan where
  status : Nat := 0
  kind : OpKind := .copy
  chunks : List Chunk := []
  nominal : Nat := 0
  phase : PhRef := .none
  fmt : Nat := 0
  bounds : Bool := false
  whole : List (Nat × Nat) := []
  tdir : Nat := 0
  pin : Option (Nat × Nat) := none
  wait : Bool := false
  bad : Option (Nat × DWord × Nat) := none
  deriving DecidableEq, Repr

/-- A phase reference word (R232, R233): malformed, or the reference with its scratch address resolved; `dir` admits the
direction bit. A scratch reference out of range answers none inside. -/
def State.phRef (s : State) (t : Option Nat) (w : DWord) (dir : Bool) : Option (Option PhRef) :=
  let x := w.toNat
  let r := x % 4
  if bit x 3 || (!dir && bit x 2) || r = 3 then none
  else if r = 0 then some (some .none)
  else if r = 2 then some (some (.glob (BitVec.ofNat 64 (x / 16 * 16))))
  else if bits x 31 4 != 0 || bits x 63 32 % 16 != 0 then none
  else match t.bind (fun t => s.scrAt t (bits x 63 32) 16) with
    | some (u, off) => some (some (.scratch (u * 2 ^ 20 + off)))
    | none => some none

/-- The near side of an operation (R232): malformed, out of range, or its place. -/
def State.nearAt (s : State) (t : Option Nat) (dkind : Nat) (w : DWord) (n : Nat) : Option (Option Loc) :=
  let x := w.toNat
  if dkind = 0 then
    if x / 2 ^ 32 != 0 then none
    else match t.bind (fun t => s.scrAt t x n) with
      | some (u, off) => some (some (.scr u off))
      | none => some none
  else if dkind = 1 then (if x / 16 != 0 then none else some (some (.slot x 0)))
  else some (some (.glob w))

/-- A word of an operand block. -/
def arg (args : List DWord) (i : Nat) : DWord := (args[i]?).getD 0

/-- The fill requirements of R234. -/
def fillOk (l : Layout) (c : List Nat) : Bool :=
  let start := l.base.toNat + fmtSize l.fmt (nth c 0) + ([1, 2, 3, 4].foldl (fun a n => a + (if n < l.ndim then nth c n else 0) * nth l.str n) 0)
  let tsz := if l.fmt = 0 then 4096 else tileBytes l.fmt
  decide (2 ≤ l.ndim) && nth l.box 0 == 64 && nth l.box 1 == 64 && [2, 3, 4].all (fun n => nth l.box n == 1) &&
  start % tsz == 0 && nth l.str 1 == fmtSize l.fmt 64 &&
  [0, 1, 2, 3, 4].all (fun n => decide ((if n < l.ndim then nth c n else 0) + nth l.box n ≤ nth l.ext n))

/-- The first tensor address of the box (R233). -/
def Layout.start (l : Layout) (c : List Nat) : DWord :=
  l.base + BitVec.ofNat 64 (fmtSize l.fmt (nth c 0) + ([1, 2, 3, 4].foldl (fun a n => a + (if n < l.ndim then nth c n else 0) * nth l.str n) 0))

/-- An extent of a used dimension is 0 (R235). -/
def Layout.empty (l : Layout) : Bool := (List.range l.ndim).any (fun n => nth l.ext n == 0)

/-- Where the tensor of an ordered contribution starts: its physical address, or context and VA while that does not translate (R240). -/
def State.reduceAt (s : State) (x : Xlat) (start : DWord) : Nat × Nat :=
  match s.pte? x start with
  | some e => (0, paOf e start)
  | none => (x.ctx + 1, start.toNat)

/-- The same as one number: a physical address is itself. -/
def State.reduceKey (s : State) (x : Xlat) (start : DWord) : Nat := (s.reduceAt x start).1 * 2 ^ 64 + (s.reduceAt x start).2

/-- A pending ordered contribution, other than those `skip` names, conflicts with contribution i of n at a start address (R240). -/
def State.reduceClash (s : State) (x : Xlat) (start : DWord) (i n : Nat) (skip : Nat × Op → Bool) : Bool :=
  let at_ := s.reduceAt x start
  s.ops.any (fun e => !skip e && (match e.2.kind with
    | .reduceOrd st j m _ => s.reduceAt (s.opXlat e.2) st == at_ && (m != n || j == i)
    | _ => false))

/-- Pending ordered sets at the slice of a start address, by start address, that have begun to arrive (R240). -/
def State.setsAt (s : State) (pa : Nat) : List Nat :=
  dedup (s.ops.filterMap (fun e => match e.2.kind with
    | .reduceOrd st _ _ _ =>
      if e.2.got.isEmpty then none
      else match s.reduceAt (s.opXlat e.2) st with
        | (0, p) => if sliceOf p = sliceOf pa then some p else none
        | _ => none
    | _ => none))

/-- The first piece of an ordered contribution reaches its slice (R240): it conflicts with one that is there, or waits for room among the 64
pending sets; none when it goes on. -/
def State.joinSet (s : State) (id : Nat) (o : Op) (c : Chunk) : Option State :=
  match c.how, o.kind with
  | .keep, .reduceOrd start i n _ =>
    if !o.got.isEmpty then none
    else
      let x := s.opXlat o
      if s.reduceClash x start i n (fun e => e.1 == id || (e.2.got.isEmpty && decide (id < e.1))) then
        some (s.updOp id (fun o => { o with chunks := [], failed := [], status := 6, kind := .copy, whole := [] }))
      else match s.reduceAt x start with
        | (0, pa) => let l := s.setsAt pa; if 64 ≤ l.length && !l.contains pa then some s else none
        | _ => none
  | _, _ => none

/-- The tiles that an operation's tiled store writes whole (R304); a cb4 tile has no entry. -/
def tilesWritten (store : Bool) (fmt : Nat) (cs : List Chunk) : List (Nat × Nat) :=
  if store && fmt != 0 && fmt != 9 then (wholeTiles fmt cs).map (fun t => (t, 0)) else []

/-- The coordinates of a box in an operand block (R232). -/
def boxAt (args : List DWord) : List Nat :=
  [bits (arg args 3).toNat 31 0, bits (arg args 3).toNat 63 32, bits (arg args 4).toNat 31 0, bits (arg args 4).toNat 63 32, bits (arg args 5).toNat 31 0]

/-- CPY, CPYRED and the fills (R232-R234, R239, R240). -/
def State.planBox (s : State) (o : Op) (e : Eng) (args : List DWord) (l : Layout) : Plan :=
  let ph := arg args 2
  let store := bit ph.toNat 2
  let c := boxAt args
  let i := bits (arg args 5).toNat 47 32
  let n := bits (arg args 5).toNat 63 48
  let nominal := l.nominal
  let fill := e == .cpy && l.dkind == 1 && !store
  let ref := s.phRef o.team ph true
  let near := s.nearAt o.team l.dkind (arg args 1) nominal
  let x := s.opXlat o
  let how : How := match e with
    | .arr => if l.fmt = 8 then .addI else .addF
    | .ord => .keep
    | _ => .move
  let malformed := !(decide (1 ≤ l.ndim) && decide (l.ndim ≤ 5)) || decide (2 ^ 32 ≤ nominal) ||
    (l.fmt == 9 && (nth c 0 % 2 == 1 || nth l.box 0 % 2 == 1)) || (store && l.dkind == 1) || ref.isNone || near.isNone ||
    (o.team.isNone && (l.dkind != 2 || ph.toNat % 4 == 1)) || (e != .cpy && !store) || (e != .ord && (arg args 5).toNat / 2 ^ 32 != 0) || (fill && !fillOk l c)
  if malformed then { status := 5 }
  else if l.empty then { status := 1 }
  else
    let nearLoc := (near.getD none).getD .skip
    let tileFill := fill && l.fmt != 0
    let cs := if fill then [] else welded (l.pieces c nearLoc store how)
    let start := l.start c
    let tiles := if fill then [start.toNat] else tilesOf (tileBytes l.fmt) store cs
    let badFmt := (l.fmt != 0 && !s.tilesOk x l.fmt tiles) || ((e == .arr || e == .ord) && l.fmt != 1 && l.fmt != 8) ||
      (tileFill && (l.fmt == 1 || l.fmt == 7 || l.fmt == 8))
    let phase := (ref.getD none).getD .none
    let base : Plan := { nominal, phase, fmt := l.fmt, tdir := if l.fmt = 0 then 0 else if store then 2 else 1 }
    if badFmt then { base with status := 3 }
    else if (ref.getD none).isNone then { base with status := 4, phase := .none }
    else if (near.getD none).isNone then { base with status := 4 }
    else if fill then
      match nearLoc with
      | .slot k _ =>
        let sl := (s.core o.core).slot k
        if !o.team.any (fun t => (s.core o.core).holds t k) || sl.state == 2 then { base with status := 11 }
        else { base with kind := .fill k start l.fmt, chunks := [⟨.glob start, .slot k 0, 1, nominal, .tile⟩] }
      | _ => { base with status := 11 }
    else match e with
      | .ord =>
        if n = 0 || n ≤ i || s.reduceClash x start i n (fun _ => false) then { base with status := 6 }
        else { base with kind := .reduceOrd start i n (l.fmt == 1), chunks := cs, whole := tilesWritten store l.fmt cs }
      | _ => { base with chunks := cs, whole := tilesWritten store l.fmt cs }

/-- PREF (R243). -/
def State.planPref (s : State) (o : Op) (args : List DWord) (l : Layout) : Plan :=
  let c := boxAt args
  if !(decide (1 ≤ l.ndim) && decide (l.ndim ≤ 5)) || decide (2 ^ 32 ≤ l.nominal) || (l.fmt == 9 && (nth c 0 % 2 == 1 || nth l.box 0 % 2 == 1)) ||
      (arg args 5).toNat / 2 ^ 32 != 0 then { status := 5 }
  else if l.empty then { status := 1 }
  else
    let cs := (l.pieces c .skip false .pref).filter (fun p => p.src != .zero)
    if l.fmt != 0 && !s.tilesOk (s.opXlat o) l.fmt (tilesOf (tileBytes l.fmt) false cs) then { status := 3 }
    else { kind := .prefetch, chunks := cs.map (fun p => { p with nom := 0, how := .pref }), fmt := l.fmt, tdir := if l.fmt = 0 then 0 else 1 }

/-- ICPY and ISCT (R241). The rule gives k[kb+2][63:32] no meaning and does not ask for zero there: the bits are ignored (log 36). Where entries of
a scatter repeat, the bytes of an earlier one are read and count as written, and the later one's stand in the tensor (log 36). A data error in the
list is met when the operation reads it, and no row moves (R235, R364). -/
def State.planRows (s : State) (o : Op) (scatter : Bool) (args : List DWord) (l : Layout) : Plan :=
  let c0 := bits (arg args 3).toNat 31 0
  let m := bits (arg args 4).toNat 63 32
  let b0 := nth l.box 0
  let row := fmtSize l.fmt b0
  let nominal := m * row
  let ref := s.phRef o.team (arg args 2) false
  let near := s.nearAt o.team l.dkind (arg args 1) nominal
  if l.ndim != 2 || l.dkind == 1 || decide (65536 < m) || decide (2 ^ 32 ≤ nominal) || (l.fmt == 9 && (c0 % 2 == 1 || b0 % 2 == 1)) ||
      ref.isNone || near.isNone then { status := 5 }
  else if l.empty || m == 0 then { status := 1 }
  else
    let at_ := o.team.bind (fun t => s.scrAt t (bits (arg args 4).toNat 31 0) (4 * m))
    let list := match at_ with
      | some (u, off) => (List.range m).map (fun k => leNat (s.scrGet u (off + 4 * k) 4))
      | none => []
    let nearLoc := (near.getD none).getD .skip
    let ib := min b0 (nth l.ext 0 - c0)
    let stale (k r : Nat) : Bool := scatter && (list.drop (k + 1)).contains r
    let cs := welded (((List.range m).zip list).flatMap (fun p =>
      if nth l.ext 1 ≤ p.2 then [⟨.skip, .skip, 0, row, .move⟩]
      else
        let r := rowPieces l.fmt ib b0 (l.base + BitVec.ofNat 64 (fmtSize l.fmt c0 + p.2 * nth l.str 1)) (nearLoc.add (p.1 * row)) scatter .move
        if stale p.1 p.2 then r.map (fun c => { c with dst := .skip, how := .move }) else r))
    let base : Plan := { nominal, phase := (ref.getD none).getD .none, fmt := l.fmt, tdir := if l.fmt = 0 then 0 else if scatter then 2 else 1 }
    if l.fmt != 0 && !s.tilesOk (s.opXlat o) l.fmt (tilesOf (tileBytes l.fmt) scatter cs) then { base with status := 3 }
    else if (ref.getD none).isNone then { base with status := 4, phase := .none }
    else if (near.getD none).isNone || at_.isNone then { base with status := 4 }
    else match at_.bind (fun p => (s.scrErrorAt p.1 p.2 (4 * m)).map (fun a => (3, (0 : DWord), s.scrPa p.1 a))) with
    | some b => { base with bad := some b }
    | none => { base with chunks := cs, bounds := list.any (fun r => decide (nth l.ext 1 ≤ r)), whole := tilesWritten scatter l.fmt cs }

/-- SREAD (R242, R328); `wait` while the buffer holds 15 pins. -/
def State.planSread (s : State) (o : Op) (args : List DWord) (desc : List Byte) : Plan :=
  let w := (arg args 1).toNat
  let vsize := bits (leNat desc) 639 608
  let ref := s.phRef o.team (arg args 2) false
  if bits w 31 24 != 0 || ref.isNone then { status := 5, kind := .record .sread args }
  else
    let phase := (ref.getD none).getD .none
    let base : Plan := { nominal := vsize, phase, kind := .record .sread args }
    let dst := o.team.bind (fun t => s.scrAt t (bits w 63 32) vsize)
    let cell := bits w 23 0
    let set := ((s.pte? (s.opXlat o) (arg args 0)).map (fun e => paOf e (arg args 0))).bind s.setAt
    if (ref.getD none).isNone then { base with status := 4, phase := .none }
    else match dst, set with
      | none, _ => { base with status := 4 }
      | some _, none => { base with status := 10 }
      | some (u, off), some (sid, e) =>
        if e.stopping || decide (e.n ≤ cell) then { base with status := 10 }
        else
          let c := FMap.getD e.cells cell {}
          let pins := if c.cur then c.pinb else c.pina
          let buf := if c.cur then c.bufb else c.bufa
          if 15 ≤ pins then { base with wait := true }
          else { base with
            kind := .sread sid cell (b2n c.cur) c.ver c.live e.maxLive
            chunks := pieces (.glob (e.vbase + BitVec.ofNat 64 (buf * e.vsize))) (.scr u off) vsize .move
            pin := some (sid, cell) }

/-- The plan of an operation whose record has been read. -/
def State.plan (s : State) (o : Op) (e : Eng) (args : List DWord) (bs : List Byte) : Plan :=
  match e with
  | .icpy => s.planRows o false args (Layout.ofBytes bs)
  | .isct => s.planRows o true args (Layout.ofBytes bs)
  | .pref => s.planPref o args (Layout.ofBytes bs)
  | .sread => s.planSread o args bs
  | _ => s.planBox o e args (Layout.ofBytes bs)

/-- Bytes of an operation's record. -/
def Eng.recBytes (e : Eng) : Nat := if e == .sread then 256 else 64

/-- A slot that a fill names and that its plan refuses is left failed, unless the slot itself is refused (R284); `tr` is by the page of its tile,
where the fill has one that translates. The slot keeps its bytes: its class stands while its format does, and is G with f = 0 where the bytes are now
taken for another format, since class and f always hold for the bytes (R285; log 36). -/
def State.failSlot (s : State) (o : Op) (e : Eng) (args : List DWord) (bs : List Byte) (status : Nat) : State :=
  let l := Layout.ofBytes bs
  let k := (arg args 1).toNat
  if e == .cpy && l.dkind == 1 && !bit (arg args 2).toNat 2 && status != 0 && status != 11 && decide (k < 16) &&
      o.team.any (fun t => (s.core o.core).holds t k) && ((s.core o.core).slot k).state != 2 then
    let page := s.pte? (s.opXlat o) (l.start (boxAt args))
    let tr := (status == 3 || status == 4) && page.any (fun e => pteGeo e == 2)
    s.updCore o.core (fun c =>
      let sl := { c.slot k with state := 4, fmt := l.fmt, tr }
      c.setSlot k (if (c.slot k).fmt = l.fmt then sl else { sl with cls := 0, f := false, cval := 0 }))
  else s

/-- The pieces of a failing page leave for the fault queue (R236). -/
def State.failOn (s : State) (id : Nat) (va : DWord) : State :=
  s.updOp id (fun o =>
    match o.chunks with
    | [] => o
    | c :: rest =>
      let page := va.toNat / 4096
      { o with failed := o.failed ++ (c :: rest.filter (fun d => touches o d page)), chunks := rest.filter (fun d => !touches o d page) })

/-- The record of an operation is read, and its pieces planned (R233); where it does not translate the whole operation parks, but
PREF is skipped (R236, R243). The spec does not say whether the slot of a fill is filling before the record is read: it keeps its state until
then (R284; log 36). Nor does it say what cls, f and cval of a filling slot are: 0 (R284; log 36). Of an
operation whose record cannot be had no size is known, and it counts no nominal bytes (R237; log 36). -/
def State.openOp (s : State) (id : Nat) (o : Op) (e : Eng) (args : List DWord) : State :=
  let at_ : Loc := .glob (arg args 0)
  match s.placesWait o ((s.locPas o at_ e.recBytes).map (fun p => (p, false))) with
  | some s => s
  | none =>
  let s := s.readPrep o at_ e.recBytes
  match s.vget (s.opXlat o) (arg args 0) e.recBytes with
  | .wait pa => s.askGrant pa false
  | .fail va =>
    if e == .pref then s.updOp id (fun o => { o with kind := .prefetch, chunks := [], faults := 1 }) else s.failOn id va
  | .data str va pa => s.updOp id (fun o => { (o.hit (str, va, pa)) with chunks := [] })
  | .ok bs =>
    let p := s.plan o e args bs
    if p.wait then s
    else
      let s := s.vroute (s.opXlat o) (arg args 0) e.recBytes
      let s := s.failSlot o e args bs p.status
      let s := match p.kind with
        | .fill k _ fmt => s.updCore o.core (fun c => c.setSlot k { c.slot k with state := 2, fmt, tr := false, cls := 0, f := false, cval := 0 })
        | _ => s
      let s := match p.pin with
        | some (sid, cell) => s.updCell sid cell (fun c => if c.cur then { c with pinb := c.pinb + 1 } else { c with pina := c.pina + 1 })
        | none => s
      let hit (o : Op) : Op := match p.bad with
        | some b => o.hit b
        | none => o
      s.updOp id (fun o => { hit o with
        kind := p.kind, chunks := p.chunks, status := p.status, nominal := p.nominal, phase := p.phase, fmt := p.fmt, bounds := p.bounds, whole := p.whole,
        tdir := p.tdir })

-- Landing.

/-- A whole-tile write or scan of a tile begins (R304): the mark at its slice. -/
def State.scanStart (s : State) (id tile : Nat) : State := { s with units := { s.units with scan := s.units.scan ++ [(tile, id, false)] } }

/-- The writes of some of an operation's whole tiles begin, where they have not (R304). -/
def State.scanBegin (s : State) (id : Nat) (o : Op) (ws : List (Nat × Nat)) : State :=
  (ws.filter (fun w => w.2 == 0)).foldl (fun (s : State) w =>
    match s.pte? (s.opXlat o) (BitVec.ofNat 64 w.1) with
    | some e =>
      let pa := paOf e (BitVec.ofNat 64 w.1)
      let s := if pteTde e then s.scanStart id pa else s
      s.updOp id (fun o => { o with whole := o.whole.map (fun v => if v.1 = w.1 then (v.1, pa + 1) else v) })
    | none => s) s

/-- The first byte of a whole tile that an operation writes begins its write (R304); bytes kept for an ordered set are not written yet. -/
def State.scanFirst (s : State) (id : Nat) (o : Op) (c : Chunk) : State :=
  let ts := c.dst.tiles (if o.fmt = 0 then 16384 else tileBytes o.fmt) c.n
  if c.how = .keep then s else s.scanBegin id o (o.whole.filter (fun w => ts.contains w.1))

/-- The shadow addresses of the cb4 block at a VA (R86). -/
def scaleVa (shadow va : DWord) : DWord := shadow + (va >>> 5)
def superVa (shadow va : DWord) : DWord := shadow + BitVec.ofNat 64 (2 ^ 52) + (va >>> 13) * 4

/-- A fill meets the page of its tile (R284, R285): the transposition, the format, and whether the class stands for the bytes. A data error in the
directory entry that it reads is the operation's (R364). -/
def State.fillTile (s : State) (id : Nat) (o : Op) (k : Nat) (va : DWord) (fmt e : Nat) : State :=
  let s := s.updCore o.core (fun c => c.setSlot k { c.slot k with tr := pteGeo e == 2 })
  let stop (st : Nat) : State := s.updOp id (fun o => { o with chunks := [], status := st })
  let tiled := fmt ≠ 0 && fmt ≠ 9 && pteTde e
  if fmt ≠ 0 && !s.tilesOk (s.opXlat o) fmt [va.toNat] then stop 3
  else if let some (str, pa) := (if tiled then (s.poisoned (s.tdAddr (paOf e va)) 8).map (fun str => (str, s.tdAddr (paOf e va))) else none) then
    s.updOp id (fun o => { (o.hit (str, 0, pa)) with chunks := [] })
  else if fmt = 9 then
    let cs := (pieces (.glob (scaleVa o.shadow va)) (.slot k 2048) 64 .look ++ pieces (.glob (superVa o.shadow va)) (.slot k 2112) 4 .look).map (fun c => { c with nom := 0 })
    s.updOp id (fun o => { o with chunks := cs ++ [⟨.skip, .slot k 0, 0, 0, .blocks⟩] })
  else
    let entry := s.tdEntry (paOf e va)
    let sz := fmtBytes fmt
    if fmt ≠ 0 && pteTde e && tdFmt entry == fmt && tdCls entry != 0 then
      let one := fmtOne fmt
      let at_ (n : Nat) : Nat := match tdCls entry with
        | 1 => 0
        | 2 => bits entry 63 32
        | _ => if n / 64 = n % 64 then one else 0
      let bs := (List.range 4096).flatMap (fun n => natLe sz (at_ n))
      let s := s.locPut id o (.slot k 0) bs
      (s.countLand id o o.nominal).updOp id (fun o =>
        { o with chunks := [], moved := o.nominal, counted := o.nominal, whole := [(entry, 1)] })
    else s.updOp id (fun o => { o with chunks := pieces (.glob va) (.slot k 0) (if fmt = 0 then 4096 else tileBytes fmt) .move })

/-- A cb4 fill plans its blocks from the scales it has read (R52, R285): it waits for those that park, and reads no block when some of them are
not to be had. -/
def State.fillBlocks (s : State) (id : Nat) (o : Op) (k : Nat) (va : DWord) : State :=
  let sl := (s.core o.core).slot k
  if !o.failed.isEmpty || o.parked != 0 then s
  else if o.fault || o.bad.isSome then s.updOp id (fun o => { o with chunks := [] })
  else s.updOp id (fun o => { o with chunks := (List.range 64).flatMap (fun r =>
    if sl.scale r = -128 then [⟨.skip, .slot k (32 * r), 0, 32, .move⟩]
    else pieces (.glob (va + BitVec.ofNat 64 (32 * r))) (.slot k (32 * r)) 32 .move) })

/-- TCLASS meets the page of its tile (R244): the checks in the order of R235, the pieces to read, and the start of the scan. -/
def State.classTile (s : State) (id : Nat) (o : Op) (va : DWord) (e : Nat) : State :=
  let fmt := pteFmt e
  let stop (st : Nat) : State := s.updOp id (fun o => { o with chunks := [], status := st })
  if fmt = 0 then stop 3
  else if va.toNat % tileBytes fmt ≠ 0 then stop 5
  else if !tileLegal fmt (pteGeo e) || !pteTde e || !s.tilesOk (s.opXlat o) fmt [va.toNat] then stop 3
  else if fmt = 9 then
    let cs := (pieces (.glob (scaleVa o.shadow va)) .skip 64 .look).map (fun c => { c with nom := 0 })
    s.updOp id (fun o => { o with kind := .tclass va 9, chunks := cs, fmt })
  else
    let cs := (pieces (.glob va) .skip (tileBytes fmt) .look).map (fun c => { c with nom := 0 })
    (s.scanStart id (paOf e va)).updOp id (fun o => { o with kind := .tclass va fmt, chunks := cs, fmt, tdir := 1 })

/-- Pieces of an operation that do not move what they should: the tiles they touch are not written whole (R304). -/
def Op.spoil (o : Op) (cs : List Chunk) : Op :=
  let tsz := if o.fmt = 0 then 16384 else tileBytes o.fmt
  { o with whole := o.whole.filter (fun w => !cs.any (fun c => (c.dst.tiles tsz c.n).contains w.1)) }

/-- A piece adds elements that are not aligned. -/
def Chunk.loose (c : Chunk) : Bool := c.how.adds && c.dst.phase8 % 4 != 0

/-- Two such pieces of which one ends where the other begins: an aligned unit of 8 bytes may be of both (R111). -/
def Chunk.meets (c d : Chunk) : Bool := c.loose && d.loose && (c.dst.add c.n == d.dst || d.dst.add d.n == c.dst)

/-- The pieces of a list that meet one of `got`, and those that meet these, and so on; and the others. -/
def chain (got rest : List Chunk) : Nat → List Chunk × List Chunk
  | 0 => (got, rest)
  | fuel + 1 =>
    let near := rest.filter (fun d => got.any (fun c => c.meets d))
    if near.isEmpty then (got, rest) else chain (got ++ near) (rest.filter (fun d => !near.contains d)) fuel

/-- A piece does not land yet, or does not land at all. -/
def State.unsettled (s : State) (o : Op) (c : Chunk) : Bool :=
  (s.chunkFault o c).isSome || !s.tilesOk (s.opXlat o) o.fmt (o.tiles c) || (s.chunkWait o c).isSome || (s.chunkBad o c).isSome

/-- The pieces that land together next, and the rest: one piece; of unaligned additions all that meet, so that the units of 8 bytes they share land
whole (R111), when each of them can; one that cannot comes by itself before them (R236; log 36). -/
def State.turn (s : State) (o : Op) : List Chunk × List Chunk :=
  match o.chunks with
  | [] => ([], [])
  | c :: rest =>
    if !c.loose then ([c], rest)
    else
      let (got, rest) := chain [c] rest rest.length
      match got.find? (s.unsettled o) with
      | some d => ([d], got.erase d ++ rest)
      | none => (got, rest)

/-- Pieces of an operation land, and whole tiles begin with their first bytes (R304). -/
def State.landAll (s : State) (id : Nat) (cs : List Chunk) : State :=
  cs.foldl (fun (s : State) c => match s.op? id with
    | some o =>
      let s := s.scanFirst id o c
      s.landPiece id ((s.op? id).getD o) c
    | none => s) s

/-- The next piece of an operation, or the next pieces that land together (R119-R122, R236), once its release has been made (R393). -/
def State.landNext (s : State) (id : Nat) : State :=
  match s.op? id with
  | none => s
  | some o =>
    if !o.after.isEmpty then s.lateRelease id o
    else
    let (now, rest) := s.turn o
    let s := s.updOp id (fun o => { o with chunks := now ++ rest })
    match now with
    | [] => s
    | c :: _ =>
      if !s.matrixTurn id o then s
      else match c.how, o.kind with
        | .record, .record e args => s.openOp id o e args
        | .blocks, .fill k va _ => s.fillBlocks id o k va
        | how, kind =>
          match s.chunkFault o c with
          | some va =>
            if how = .pref then
              s.updOp id (fun o => { o with faults := o.faults + 1, chunks := o.chunks.filter (fun d => !touches o d (va.toNat / 4096)) })
            else s.failOn id va
          | none =>
            if how != .tile && !s.tilesOk (s.opXlat o) o.fmt (o.tiles c) then
              s.updOp id (fun o => { (o.spoil (o.chunks ++ o.failed)) with chunks := [], failed := [], status := 3 })
            else match s.joinSet id o c with
            | some s => s
            | none =>
            match s.chunkWait o c with
            | some s => s
            | none =>
              match s.chunkBad o c with
              | some b => s.updOp id (fun o => { ((o.hit b).spoil [c]) with chunks := rest })
              | none =>
                match how, kind, c.src with
                | .tile, .fill k va fmt, .glob a => match s.pte? (s.opXlat o) a with
                  | some e => s.fillTile id o k va fmt e
                  | none => s
                | .tile, .tclass va _, .glob a => match s.pte? (s.opXlat o) a with
                  | some e => s.classTile id o va e
                  | none => s
                | .look, .fill _ _ _, _ =>
                  -- scales go to the slot and count nothing
                  let s := (s.routes o c).readPrep o c.src c.n
                  (s.locPut id o c.dst (s.locBytes o c.src c.n)).updOp id (fun o => { o with chunks := rest })
                | _, _, _ =>
                  (s.updOp id (fun o => { o with chunks := rest })).landAll id now

-- Fault units.

/-- The page at which a failed piece still fails. -/
def State.unitFault (s : State) (o : Op) (c : Chunk) : Option DWord :=
  match c.how, o.kind with
  | .record, .record e args => match s.vget (s.opXlat o) (arg args 0) e.recBytes with
    | .fail va => some va
    | _ => none
  | _, _ => s.chunkFault o c

/-- Fault units in the queue of a team, or of a context for accesses without a team (R236, R394). -/
def State.queued (s : State) (t : Option Nat) (ctx : Nat) : Nat :=
  (s.faults.filter (fun e => e.2.team == t && (t.isSome || e.2.ctx == ctx))).length

/-- FAULT_UNIT_PARK (R236): the failed pieces of one page park together; the unit waits for a free entry, for room in faultb (R247), and until
its phase object can be written (R98, R275); an object whose page does not translate takes no fault bytes (R237). A piece that translates by now
goes on. -/
def execFaultUnitPark (op : Nat) (s : State) : Out :=
  .next (match s.op? op with
  | none => s
  | some o =>
    match o.failed with
    | [] => s
    | c :: rest =>
      match s.unitFault o c with
      | none => s.updOp op (fun o => { o with failed := rest, chunks := c :: o.chunks })
      | some va =>
        let unit := c :: rest.filter (fun d => touches o d (va.toNat / 4096))
        let others := rest.filter (fun d => !touches o d (va.toNat / 4096))
        let n := unit.foldl (fun n c => n + c.nom) 0
        let room := match s.phaseAt o with
          | .ok (some p) => decide ((Phase.ofNat (s.phGet p)).faultb + n < 2 ^ 24)
          | _ => true
        let held := match s.phaseAt o with
          | .ok (some _) => n
          | _ => 0
        if 64 ≤ s.queued o.team o.ctx || !room then s
        else match s.placesWait o (if held = 0 then [] else s.phasePlace o) with
        | some s => s
        | none =>
          let s := if held = 0 then s else s.count op o (Phase.park n)
          let (fid, s) := s.newId
          let u : FaultUnit := { team := o.team, ctx := o.ctx, agent := .engine, op, va, chunks := unit, held }
          { s with faults := FMap.set s.faults fid u }.updOp op (fun o =>
            { o with failed := others, parked := o.parked + 1, faults := o.faults + 1 }))

/-- A piece that moves nothing and only counts bytes toward the phase object (R237): it waits and parks as any piece does. -/
def Chunk.counting (n : Nat) : List Chunk := if n = 0 then [] else [⟨.skip, .skip, 0, n, .move⟩]

/-- The fault bytes of a unit that leaves the queue leave its phase object (R237); where that cannot be written now the operation owes them until
it counts next. -/
def State.unhold (s : State) (u : FaultUnit) (o : Op) : State :=
  if u.held = 0 then s
  else match s.phaseAt o, s.placesWait o (s.phasePlace o) with
    | .ok _, none => s.count u.op o (Phase.unpark u.held)
    | _, _ => s.updOp u.op (fun o => { o with debt := o.debt + u.held })

/-- A parked unit leaves the queue for its agent to try again, or to count its bytes without moving them (R236, R237, R394). An operation refused
since moves nothing, and has not written the tiles of that unit whole (R304). -/
def State.unpark (s : State) (fu : Nat) (u : FaultUnit) (back : Bool) : State :=
  let s := { s with faults := FMap.erase s.faults fu }
  match u.agent with
  | .engine =>
    match s.op? u.op with
    | none => s
    | some o =>
      let own := match o.phase with
        | .glob p => p.toNat / 4096 == u.va.toNat / 4096
        | _ => false
      let again := if o.status = 0 then u.chunks else []
      let rest := if o.status = 0 then Chunk.counting (u.chunks.foldl (fun n c => n + c.nom) 0) else []
      (s.unhold u o).updOp u.op (fun o =>
        let o := { (if o.status = 0 then o else o.spoil u.chunks) with parked := o.parked - 1 }
        if back then { o with chunks := again ++ o.chunks }
        -- of a phase object that is not serviceable the bytes move and count nowhere
        else if own then { o with chunks := again ++ o.chunks, phase := .none, fault := true }
        else { (o.spoil u.chunks) with chunks := rest ++ o.chunks, fault := true })
  | _ => s

-- Completion.

/-- The status of an operation at its completion (R235). -/
def Op.final (o : Op) : Nat :=
  if o.status ≠ 0 then o.status else if o.fault then 2 else if o.bounds then 7 else if o.bad.isSome then 9 else 0

/-- The marks of an operation's whole writes and scan go (R304). -/
def State.unscan (s : State) (id : Nat) : State := { s with units := { s.units with scan := s.units.scan.filter (fun m => m.2.1 != id) } }

/-- The entry of a tile that an operation wrote whole or scanned (R304): by its contents, read page by page from its VA, or G after a
disturbance. -/
def State.closeTile (s : State) (id : Nat) (o : Op) (va : DWord) (pa fmt : Nat) : State × Nat :=
  let own := s.units.scan.any (fun m => m.1 == pa && m.2.1 == id && !m.2.2)
  let sz := fmtBytes fmt
  let bs := s.locBytes o (.glob va) (tileBytes fmt)
  let xs := (List.range 4096).map (fun i => leNat ((bs.drop (i * sz)).take sz))
  let (cls, f, cval) := if own then classOf fmt xs else (0, false, 0)
  let s := s.setTd pa (tdMake cls f fmt cval) id
  ({ s with units := { s.units with scan := s.units.scan.filter (fun m => !(m.1 == pa && m.2.1 == id)) } }, cls)

/-- The tiles that a finished store has written whole, whatever its status (R304). -/
def State.closeTiles (s : State) (id : Nat) (o : Op) : State :=
  let s := o.whole.foldl (fun (s : State) w =>
    if w.2 = 0 then s
    else match s.pte? (s.opXlat o) (BitVec.ofNat 64 w.1) with
      | none => s
      | some e =>
        let ok := pteTde e && (if o.fmt = 0 then (pteFmt e == 1 || pteFmt e == 8) && pteGeo e == 1 else pteFmt e == o.fmt)
        if ok then (s.closeTile id o (BitVec.ofNat 64 w.1) (w.2 - 1) (pteFmt e)).1 else s) s
  s.unscan id

/-- A fill's slot at its completion (R284, R285). -/
def State.closeFill (s : State) (o : Op) (k fmt : Nat) : State :=
  s.updCore o.core (fun c =>
    let sl := c.slot k
    if sl.rel then c.freeSlot k
    else if o.final ≠ 0 then c.setSlot k { sl with state := 4 }
    else match o.whole with
      | (entry, 1) :: _ => c.setSlot k { sl with state := 3, cls := tdCls entry, f := tdF entry, cval := if tdCls entry = 2 then bits entry 63 32 else 0 }
      | _ =>
        if fmt = 0 then c.setSlot k { sl with state := 3, cls := 0, f := false, cval := 0 }
        else if fmt = 9 then
          let dead := (List.range 64).all (fun r => sl.scale r == -128)
          let f := dead || bits sl.super 30 23 != 255
          c.setSlot k { sl with state := 3, cls := b2n dead, f, cval := 0 }
        else
          let sz := fmtBytes fmt
          c.setSlot k { sl with state := 3, cls := 0, f := (List.range 4096).all (fun i => !fmtSpecial fmt (sl.num (i * sz) sz)), cval := 0 })

/-- The token's words (R235, R242, R300): of SREAD two, of AST the class of the rows it has stored, whatever its status (log 46), else the
completion word. -/
def Op.token (o : Op) (i : Nat) : DWord :=
  let st := o.final
  match o.kind with
  | .sread _ _ _ ver res mx =>
    if i = 0 then BitVec.ofNat 64 (ver.toNat + res.toNat * 2 ^ 32) else BitVec.ofNat 64 (mx.toNat + st * 2 ^ 32)
  | .record .sread _ => if i = 0 then 0 else BitVec.ofNat 64 (st * 2 ^ 32)
  | .ald => BitVec.ofNat 64 st
  | .ast first n _ =>
    let sz := o.got.map (fun e => e.2)
    let xs := (List.range (sz.length / 4)).map (fun k => leNat ((sz.drop (4 * k)).take 4))
    let fmt := if o.info = 1 then 8 else 1
    let (cls, _, _) := if n = 64 && first % 64 == 0 && xs.length == 4096 then classOf fmt xs else (0, false, 0)
    let f := xs.all (fun x => !fmtSpecial fmt x)
    BitVec.ofNat 64 (st + cls * 2 ^ 8 + b2n f * 2 ^ 10)
  | _ => BitVec.ofNat 64 (o.moved % 2 ^ 32 + st * 2 ^ 32 + min o.faults 65535 * 2 ^ 40 + o.info * 2 ^ 56)

/-- A machine check for a data error that an operation met: at the issuing thread's next header, or the context's (R235, R364). -/
def State.raiseBad (s : State) (o : Op) : State :=
  match o.bad, o.team with
  | some (str, va), some t =>
    match s.team? t with
    | some tm =>
      if (tm.thread o.tid).exited then s.contextMc (o.core / 192) str o.ctx o.badPa
      else s.updThread t o.tid (fun th => { th with mcheck := th.mcheck ++ [(str, va, o.badPa)] })
    | none => s.contextMc (o.core / 192) str o.ctx o.badPa
  | some (str, _), none => s.contextMc (o.core / 192) str o.ctx o.badPa
  | none, _ => s

/-- A completion that acquires nothing (R123). -/
def State.noAcquire (s : State) (t id : Nat) : State :=
  s.updTeam t (fun tm => { tm with wbs := tm.wbs.map (fun w => if w.id = id then { w with obs := false } else w) })

/-- The nominal bytes that an operation has still to count when its last piece has landed; a status of empty, layout or queue full counts none
(R237). -/
def Op.uncounted (o : Op) : Nat := if [1, 5, 8].contains o.final || o.phase == .none then 0 else o.nominal - o.counted

/-- An operation has still bytes to count (R237); an ordered contribution counts when its set is installed (R240). -/
def Op.counts (o : Op) : Bool := o.uncounted != 0 && (match o.kind with
  | .reduceOrd _ _ _ _ => false
  | _ => true)

/-- What an operation does when its last piece has landed: the scan of a tile, the tiles it wrote whole, a fill's slot, an SREAD's
pin, the machine check, and its token. -/
def State.finish (s : State) (id : Nat) (o : Op) : State :=
  let (s, o) := match o.kind with
    | .tclass va fmt =>
      if o.final ≠ 0 then (s.unscan id, o)
      else match s.pte? (s.opXlat o) va with
        | none => (s, o)
        | some e =>
          if fmt = 9 then
            let sc := s.locBytes o (.glob (scaleVa o.shadow va)) 64
            (s, { o with info := b2n (sc.all (· == 0x80)) })
          else
            let r := s.closeTile id o va (paOf e va) fmt
            (r.1, { o with info := r.2 })
    | .fill k _ fmt => (s.closeFill o k fmt, o)
    | .sread sid cell cur _ _ _ =>
      (s.updCell sid cell (fun c => (if cur = 1 then { c with pinb := c.pinb - 1 } else { c with pina := c.pina - 1 }).norm), o)
    | .ast _ _ va =>
      let i32 := (va.bind (fun a => s.pte? (s.opXlat o) a)).any (fun e => pteFmt e == 8)
      (s.closeTiles id o, { o with info := b2n i32 })
    | _ => (s.closeTiles id o, o)
  -- the directory entries may have met a data error
  let o := match s.op? id with
    | some q => { o with bad := q.bad, badPa := q.badPa }
    | none => o
  let s := s.raiseBad o
  let s := match o.team with
    | some t => o.wbs.foldl (fun (s : State) w => (if o.final = 1 then s.noAcquire t w else s).answer t w o.token) s
    | none => s
  s.updOp id (fun _ => { o with done := true })

/-- Nothing of an operation is outstanding. -/
def Op.landed (o : Op) : Bool := o.chunks.isEmpty && o.failed.isEmpty && o.parked == 0 && o.after.isEmpty

end Sys2Proof.Machine
end

