-- ==== Sys2Proof/Machine/EngineOps.lean ====
section
/-!
DEFINITION. The engine instructions of majors 0x2F, 0x30 and 0x32 (R231, R238-R248), and the completion and retirement of
engine operations (R35, R121, R235, R240).
-/

namespace Sys2Proof.Machine

/-- An operation added, its counter raised (R34), under the translation generation of its context (R100); the answer is its name. -/
def State.addOp (s : State) (o : Op) : Nat × State :=
  let (id, s) := s.newId
  let s := { s with ops := FMap.set s.ops id { o with gen := (s.ctx o.ctx).gen } }
  match o.team with
  | some t => (id, if o.cls < 4 then s.updTeam t (fun tm => { tm with cnt := FMap.set tm.cnt o.cls (FMap.getD tm.cnt o.cls 0 + 1) }) else s)
  | none => (id, s)

/-- Copy-queue entries in use by a team, and by a core (R23, R231). -/
def State.copiesOf (s : State) (t : Nat) : Nat := (s.ops.filter (fun e => e.2.copyq && e.2.team == some t)).length
def State.copiesOn (s : State) (core : Nat) : Nat := (s.ops.filter (fun e => e.2.copyq && e.2.core == core)).length

/-- The issue of one operation for each thread of the group, in ascending index (R165, R231): threads go while there is room, and
the group waits for the rest (R37). -/
def State.issueEach (s : State) (c : Iss) (gap : Nat) (room : State → Bool) (one : State → Nat → State) : State :=
  let s := (sortNat (c.g.tids.filter (fun tid => !(c.tm.thread tid).part))).foldl (fun (acc : State × Bool) tid =>
    if acc.2 || !room acc.1 then (acc.1, true)
    else ((one acc.1 tid).updThread c.t tid (fun th => { th with part := true }), false)) (s, false) |>.1
  match s.team? c.t with
  | none => s
  | some tm =>
    if c.g.tids.all (fun tid => (tm.thread tid).part) then
      (s.updTeam c.t (fun tm => c.g.tids.foldl (fun tm tid => tm.updThread tid (fun th => { th with part := false })) tm)).advance c.t c.gid gap
    else s.hold c.t c.gid

/-- A counter of a team is below its limit (R37). -/
def State.cntRoom (s : State) (t cls : Nat) : Bool :=
  match s.team? t with
  | some tm => decide (FMap.getD tm.cnt cls 0 < 4095)
  | none => false

/-- An operation of the issuing team by a thread. -/
def Iss.newOp (c : Iss) (tid cls : Nat) (kind : OpKind) (wbs : List Nat) : Op :=
  { team := some c.t, ctx := c.tm.ctx, tid, hdr := c.g.hdr, core := c.tm.core, priv := c.tm.eff.priv, cls, kind, wbs,
    shadow := c.tm.eff.sr.shadow }

/-- What the estimator of R349 counts for an operation that has just issued: the nominal bytes of its kind where its operands show them. -/
def State.firstBytes (s : State) (c : Iss) (kind : OpKind) (rec_ : DWord) : Nat :=
  match kind with
  | .record e args =>
    match s.vget c.tm.xlat rec_ e.recBytes with
    | .ok bs => match e with
      | .sread => bits (leNat bs) 639 608
      | .icpy => bits (arg args 4).toNat 63 32 * fmtSize (Layout.ofBytes bs).fmt (nth (Layout.ofBytes bs).box 0)
      | .isct => bits (arg args 4).toNat 63 32 * fmtSize (Layout.ofBytes bs).fmt (nth (Layout.ofBytes bs).box 0)
      | _ => (Layout.ofBytes bs).nominal
    | _ => 0
  | .tclass va _ => ((s.pte? c.tm.xlat va).map (fun e => if pteFmt e = 0 then 0 else tileBytes (pteFmt e))).getD 0
  | _ => 0

/-- One engine copy by a thread (R231, R233, R238): its token registers become pending, and it reads its record at issue. Writing the token is an
acquire (R105, R120). -/
def State.copyOne (s : State) (c : Iss) (cls : Nat) (kd : List Nat) (kind : OpKind) (chunks : List Chunk) (after : List Nat)
    (tid : Nat) : State :=
  let cm := c.tm.eff.sr.cpymode.toNat
  let (wid, s) := s.newId
  let owe (s : State) (obs : Bool) (v : Nat → Option DWord) : State :=
    s.owe c.t wid tid true false ((List.range kd.length).map (fun i => (.k (nth kd i), v i))) 0 obs
  let flag (s : State) (x : DWord) : State := if bit cm 0 then s.writeRegs c.t c.gid 0 [(tid, .p (bits cm 3 1), x)] else s
  if bit cm 0 && decide (128 ≤ s.copiesOn c.tm.core) then
    owe (flag s 1) false (fun i => some (if i + 1 = kd.length then BitVec.ofNat 64 (8 * 2 ^ 32) else 0))
  else
    let s := owe (flag s 0) true (fun _ => none)
    let bytes := s.firstBytes c kind ((chunks.head?.map (fun p => match p.src with
      | .glob va => va
      | _ => 0)).getD 0)
    let (id, s) := s.addOp { c.newOp tid cls kind [wid] with copyq := true, chunks, bytes, after }
    s.landNext id

/-- The engine copies (R119, R231): the issue is a release, then one operation for each thread. A copy that names a pending token register issues,
and its status is written after the earlier one (R252). -/
def State.copies (s : State) (st : BitVec 2) (u : Use) (cls : Nat) (kd : List Nat) (op : Iss → OpKind × List Chunk) : State :=
  let mode := (s.iss.map (fun c => c.tm.eff.sr.cpymode.toNat)).getD 0
  let u := if bit mode 0 then u.add (Use.pdst (bits mode 3 1)) else u
  s.forbiddenFree u (fun s c =>
    let full := bit mode 0 && decide (128 ≤ s.copiesOn c.tm.core)
    s.engineIssue c (!full) (fun s after =>
      s.issueEach c (gapOf st) (fun s => s.cntRoom c.t cls && (bit mode 0 || decide (s.copiesOf c.t < c.tm.tr.copyq)))
        (fun s tid => let (k, cs) := op c; s.copyOne c cls kd k cs (after tid) tid)))

/-- A copy with a record and a block of n registers. -/
def State.recCopy (s : State) (st : BitVec 2) (e : Eng) (cls n : Nat) (kd : List Nat) (a b : BitVec 6) : State :=
  s.copies st ((Use.ksrc a.toNat 1).add (Use.ksrc b.toNat n)) cls kd (fun c =>
    let args := c.k s a.toNat :: (List.range n).map (fun i => c.k s (b.toNat + i))
    (.record e args, [⟨.glob (arg args 0), .skip, e.recBytes, 0, .record⟩]))

/-- CPY (R239). -/
def execCpy (st : BitVec 2) (d a b : BitVec 6) (s : State) : Out := .next (s.recCopy st .cpy 0 5 [d.toNat] a b)
/-- CPYRED.arr (R240). -/
def execCpyredArr (st : BitVec 2) (d a b : BitVec 6) (s : State) : Out := .next (s.recCopy st .arr 3 5 [d.toNat] a b)
/-- CPYRED.ord (R240). -/
def execCpyredOrd (st : BitVec 2) (d a b : BitVec 6) (s : State) : Out := .next (s.recCopy st .ord 3 5 [d.toNat] a b)
/-- ICPY (R241). -/
def execIcpy (st : BitVec 2) (d a b : BitVec 6) (s : State) : Out := .next (s.recCopy st .icpy 1 4 [d.toNat] a b)
/-- ISCT (R241). -/
def execIsct (st : BitVec 2) (d a b : BitVec 6) (s : State) : Out := .next (s.recCopy st .isct 1 4 [d.toNat] a b)
/-- SREAD (R242). -/
def execSread (st : BitVec 2) (d a b : BitVec 6) (s : State) : Out := .next (s.recCopy st .sread 0 2 [d.toNat, d.toNat + 1] a b)
/-- PREF (R243). -/
def execPref (st : BitVec 2) (d a b : BitVec 6) (s : State) : Out := .next (s.recCopy st .pref 0 5 [d.toNat] a b)

/-- TCLASS (R244). -/
def execTclass (st : BitVec 2) (d a : BitVec 6) (s : State) : Out :=
  .next (s.copies st (Use.ksrc a.toNat 1) 0 [d.toNat] (fun c =>
    let va := c.k s a.toNat
    (.tclass va 0, [⟨.glob va, .skip, 1, 0, .tile⟩])))

-- CFLUSH and CINV.

/-- The lines, by physical address over 128, that overlap a range of VAs, lie in a non-coherent range in force and are cached by the issuing core
(R245): page by page as the context maps them; pages that are not mapped are skipped. -/
def Iss.ncLines (c : Iss) (s : State) (va : DWord) (len : Nat) : List (Nat × CLine) :=
  let pages := (List.range ((va.toNat % 4096 + len + 4095) / 4096)).map (fun i => BitVec.ofNat 64 ((va.toNat / 4096 + i) * 4096))
  let hits := pages.flatMap (fun a =>
    if !isNc c.tm.eff.sr a then []
    else match s.pte? c.tm.xlat a with
      | none => []
      | some e => ((List.range 32).filter (fun j =>
          let off := ((a - va).toNat + 128 * j) % 2 ^ 64
          decide (off < len) || decide (2 ^ 64 - 128 < off))).map (fun j => ptePpn e * 32 + j))
  (s.core c.tm.core).lines.filter (fun l => hits.contains l.1)

/-- CFLUSH and CINV (R245): what happens to each line, then a token for each thread, written at the issue (log 23). -/
def State.lineOp (s : State) (st : BitVec 2) (d a b : BitVec 6) (flush : Bool) : State :=
  let u := (Use.ksrc a.toNat 1).add ((Use.ksrc b.toNat 1).add (Use.kdst d.toNat 1))
  s.forbiddenFree u (fun s c => s.inTurn c u (gapOf st) (fun s =>
    let len := (c.k s b.toNat).toNat
    let ls := if len = 0 then [] else c.ncLines s (c.k s a.toNat) len
    if flush && !ls.all (fun l => s.canWriteBack l.1 l.2) then (ls.foldl (fun s l => s.askLine l.1 l.2) s).defer c u (gapOf st)
    else
      let core := c.tm.core
      let s := if flush then ls.foldl (fun s l => if l.2.runs.isEmpty then s else s.writeBack core l.1) s
        else ls.foldl (fun s l => (s.updCore core (fun k => { k with lines := FMap.erase k.lines l.1 })).ncDone core l.1) s
      let token (n : Nat) : DWord := if len = 0 then BitVec.ofNat 64 (2 ^ 32) else BitVec.ofNat 64 (128 * n)
      -- a later thread of the group finds the lines flushed and clean, or gone
      ((sortNat c.g.tids).foldl (fun (acc : State × Nat) tid =>
        let (id, s) := acc.1.newId
        (s.owe c.t id tid true false [(.k d.toNat, some (token acc.2))], if flush then acc.2 else 0)) (s, ls.length)).1.advance c.t c.gid (gapOf st)))

def execCflush (st : BitVec 2) (d a b : BitVec 6) (s : State) : Out := .next (s.lineOp st d a b true)
def execCinv (st : BitVec 2) (d a b : BitVec 6) (s : State) : Out := .next (s.lineOp st d a b false)

-- Phase objects by instruction (R248).

/-- Where BINIT, BARRIVE and BEXPECT find their object: a trap, a wait (with the address and entry of what it waits for), out of range, or its
place. -/
inductive PhFind where
  | trap (t : Trap)
  | wait (pa pte : Nat)
  | none
  | at (p : PhAt)
  deriving DecidableEq, Repr

/-- The object that k[ka] names (R248). `reads` says that the instruction reads it, so that a data error in it is its machine check (R364). -/
def State.findPhase (s : State) (c : Iss) (g : BitVec 1) (x : DWord) (reads : Bool) : PhFind :=
  if g = 0 then
    let a := x.toNat % 2 ^ 32
    if a % 16 ≠ 0 then .trap (.align true (BitVec.ofNat 64 a))
    else match if reads then s.scrTrap c.t a 16 else none with
      | some tr => .trap tr
      | none => match s.scrAt c.t a 16 with
        | some (u, off) => .at (.scr u off)
        | none => .none
  else match if reads then c.laneAddr s x 16 .rmw false true else c.lanePage s x 16 .rmw false true with
    | .error tr => .trap tr
    | .ok e =>
      let pa := paOf e x
      if s.homeReady (some e) pa 16 true && !s.prepWaits c.tm.core pa 16 && !(s.core c.tm.core).busyD (pa / 128) then .at (.mem pa e)
      else .wait pa e

/-- One update of a phase object for each thread, with its token: phase and status (R248). `pre` is the status that refuses the operation before
its address is looked at (R235), `rel` asks for a release, which waits behind a deferred acquire (R393). The core's own words of the object go home
first (R104). -/
def State.phaseOp (s : State) (st : BitVec 2) (u : Use) (d a : BitVec 6) (g : BitVec 1) (reads : Bool) (pre : Iss → Nat)
    (rel : Option (State → PhAt → Bool)) (f : Iss → Phase × Nat → (Phase × Nat) × Nat × Nat) : State :=
  let u := u.add ((Use.ksrc a.toNat 1).add (Use.kdst d.toNat 1))
  s.forbiddenAs rel.isSome u (fun s c => s.inTurn c u (gapOf st) (fun s =>
    let x := c.k s a.toNat
    let refuse (status : Nat) : State :=
      ((sortNat c.g.tids).foldl (fun (s : State) tid =>
        let (id, s) := s.newId
        s.owe c.t id tid true false [(.k d.toNat, some (BitVec.ofNat 64 (status * 2 ^ 32)))]) s).advance c.t c.gid (gapOf st)
    match s.findPhase c g x reads with
    | .trap tr => s.trapAll c.t c.gid c.g tr
    | .wait pa e => ((s.askHome c.tm.core e pa true).fillTlb c.tm.xlat x e).defer c u (gapOf st)
    | .none => refuse (if pre c = 0 then 4 else pre c)
    | .at p =>
      if pre c ≠ 0 then refuse (pre c)
      else
        let s := match p with
          | .mem pa e => ((s.fillTlb c.tm.xlat x e).homePrep c.tm.core pa 16).noRoute c.tm.dieOf c.tm.ctx pa
          | .scr _ _ => s
        s.withRelease c u (gapOf st) (rel.any (fun r => r s p)) (fun s =>
        ((sortNat c.g.tids).foldl (fun (s : State) tid =>
          let now := (Phase.ofNat (s.phGet p), FMap.getD s.units.heldArr p.key 0)
          let r := f c now
          let s := if r.2.2 = 0 then s.phUpdate p (fun y => (f c y).1) c.tm.ctx else s
          let (id, s) := s.newId
          s.owe c.t id tid true false [(.k d.toNat, some (BitVec.ofNat 64 (r.2.1 + r.2.2 * 2 ^ 32)))]) s).advance c.t c.gid (gapOf st))))

/-- BINIT: the object written whole; arrivals held for a later phase go (R248). An expa of 0 is a malformed operand, refused before the range of
the address (R235). -/
def execBinit (st : BitVec 2) (d a b : BitVec 6) (g : BitVec 1) (s : State) : Out :=
  .next (s.phaseOp st (Use.ksrc b.toNat 1) d a g false (fun c => if (c.k s b.toNat).toNat % 2 ^ 12 = 0 then 5 else 0) none (fun c _ =>
    let w := (c.k s b.toNat).toNat
    ((⟨w % 2 ^ 12, 0, 0, 0, 0, bits w 31 16⟩, 0), bits w 31 16, 0)))

/-- BARRIVE: one arrival, a release (R105, R248). An object whose expa is 0 takes none (R247). -/
def execBarrive (st : BitVec 2) (d a : BitVec 6) (g : BitVec 1) (s : State) : Out :=
  .next (s.phaseOp st {} d a g true (fun _ => 0) (some (fun s p => (Phase.ofNat (s.phGet p)).expa != 0)) (fun _ x =>
    if x.1.expa = 0 then (x, 0, 5) else (Phase.arrive x, Phase.toward x, 0)))

/-- BEXPECT (R248). -/
def execBexpect (st : BitVec 2) (d a b : BitVec 6) (g : BitVec 1) (s : State) : Out :=
  .next (s.phaseOp st (Use.ksrc b.toNat 1) d a g true (fun _ => 0) none (fun c x =>
    (({ x.1 with expb := (x.1.expb + (c.k s b.toNat).toNat % 2 ^ 32) % 2 ^ 32 }, x.2), x.1.phase, 0)))

-- Ordered sets.

/-- The pending contributions to a start address, by its number, with count n: operation and index (R240). -/
def State.redSet (s : State) (start n : Nat) : List (Nat × Op × Nat × Bool) :=
  s.ops.filterMap (fun e => match e.2.kind with
    | .reduceOrd st i m f => if m = n && s.reduceKey (s.opXlat e.2) st == start then some (e.1, e.2, i, f) else none
    | _ => none)

/-- The new value of the element at a physical address when a set's contributions are added in index order, as floats or as integers (R240). -/
def setSum (l : List (Nat × Op × Nat × Bool)) (a old : Nat) : Nat :=
  let isF := (l.head?.map (fun e => e.2.2.2)).getD true
  (List.range l.length).foldl (fun v i =>
    match l.find? (fun e => e.2.2.1 == i) with
    | none => v
    | some (_, o, _, _) =>
      let x := leNat ((List.range 4).map (fun k => FMap.getD o.got (4 * a + k) 0))
      if (FMap.get? o.got (4 * a)).isNone then v else if isF then (fAdd f32 .rne v x).1 else (v + x) % 2 ^ 32) old

/-- The elements that a set's contributions touch, by physical address, each with the physical address of its four bytes and the entry of their
page. -/
def setElems (l : List (Nat × Op × Nat × Bool)) : List (Nat × List (Nat × Nat)) :=
  (dedup (l.flatMap (fun e => e.2.1.got.map (fun g => g.1 / 4)))).filterMap (fun a =>
    (l.find? (fun e => (FMap.get? e.2.1.got (4 * a)).isSome)).map (fun e => (a, (List.range 4).map (fun k =>
      let pa := FMap.getD e.2.1.pas (4 * a + k) (a + k)
      (pa, FMap.getD e.2.1.ptes (pa / 4096) 0)))))

/-- A contribution is part of its set's sum: it completes as a copy does, and counts its bytes. The tiles that the set writes whole are with its
first contribution. -/
def State.contributed (s : State) (first : Nat) (e : Nat × Op × Nat × Bool) : State :=
  s.updOp e.1 (fun o => { o with kind := .copy, whole := if e.1 = first then o.whole else [] })

/-- One element of a set takes its sum; one whose destination holds a data error is left, and every contribution reports it (R235, R364). The
destination is read here, once all n contributions have landed: the spec says 'when contribution n - 1 arrives', which names a contribution by its
index or the last to come, and not the instant (log 36). -/
def State.setElem (s : State) (l : List (Nat × Op × Nat × Bool)) (w : Nat × List (Nat × Nat)) : State :=
  match w.2.findSome? (fun p => (s.poisoned p.1 1).map (fun str => (str, p.1))) with
  | some (str, pa) => l.foldl (fun (s : State) e => s.updOp e.1 (fun o => o.hit (str, 0, pa))) s
  | none =>
    let bs := natLe 4 (setSum l w.1 (leNat (w.2.flatMap (fun p => s.homeBytes p.1 1))))
    let id := (l.head?.map Prod.fst).getD 0
    let hw (e : Nat) : HomeW := { pte := some e, op := id, ctx := (l.head?.map (fun e => e.2.1.ctx)).getD 0 }
    match w.2 with
    | [(a, e), (b, _), (c, _), (d, _)] =>
      if b = a + 1 && c = a + 2 && d = a + 3 then s.homeWriteN (hw e) a bs 2
      else (w.2.zip bs).foldl (fun (s : State) p => s.homeWrite (hw p.1.2) p.1.1 [p.2]) s
    | _ => s

/-- The cores whose threads issued a set's contributions. -/
def setCores (l : List (Nat × Op × Nat × Bool)) : List Nat := dedup (l.filterMap (fun e => e.2.1.team.map (fun _ => e.2.1.core)))

/-- A byte that a set writes cannot be written yet: a grant is missing, its granule is sealed, or words of a contributor's core must go home first
and cannot (R98, R104, R275). -/
def State.setWaits (s : State) (l : List (Nat × Op × Nat × Bool)) (p : Nat × Nat) : Bool :=
  !s.homeReady (some p.2) p.1 1 true || (setCores l).any (fun core => s.prepWaits core p.1 1)

/-- Before a set is installed: the contributors' cores write their dirty words of its lines home and drop their copies (R104), and the writes of the
tiles that the set fills begin, with its first contribution (R304). -/
def State.setPrep (s : State) (l : List (Nat × Op × Nat × Bool)) (ps : List (Nat × Nat)) : State :=
  let s := ps.foldl (fun (s : State) p => (setCores l).foldl (fun (s : State) core => s.homePrep core p.1 1) s) s
  match l with
  | [] => s
  | e :: _ =>
    let vas := dedup ((l.filter (fun d => d.2.1.ctx == e.2.1.ctx)).flatMap (fun d => d.2.1.whole.map Prod.fst))
    let ws := vas.map (fun v => (v, 0))
    (s.updOp e.1 (fun o => { o with whole := ws })).scanBegin e.1 { e.2.1 with whole := ws } ws

/-- CPYRED_SET_INSTALL (R240): once all n contributions have arrived, each element takes their sum in index order. -/
def execCpyredSetInstall (start n : Nat) (s : State) : Out :=
  let l := s.redSet start n
  let ws := setElems l
  let ps := ws.flatMap Prod.snd
  if l.length ≠ n || n = 0 || !l.all (fun e => e.2.1.landed) then .next s
  else if ps.any (s.setWaits l) then
    .next (ps.foldl (fun (s : State) p => (setCores l).foldl (fun (s : State) core => s.askHome core p.2 p.1 true) s) s)
  else .next (l.foldl (fun s e => s.contributed ((l.head?.map Prod.fst).getD 0) e) (ws.foldl (fun s w => s.setElem l w) (s.setPrep l ps)))

-- Retirement.

/-- ENGINE_RETIRE (R35, R72, R121): the oldest operation of a class retires when it is done and its status is written; its counter falls and its flags
are set. -/
def execEngineRetire (team cls : Nat) (s : State) : Out :=
  .next (match s.ops.find? (fun e => e.2.team == some team && e.2.cls == cls) with
  | none => s
  | some (id, o) =>
    if !o.done || (s.team? team).any (fun tm => tm.wbs.any (fun w => o.wbs.contains w.id)) then s
    else
      let s := { s with ops := FMap.erase s.ops id }.updTeam team (fun tm => { tm with cnt := FMap.set tm.cnt cls (FMap.getD tm.cnt cls 0 - 1) })
      s.raiseMatrix team o.flags o.hdr o.tid)

end Sys2Proof.Machine
end

