-- ==== Sys2Proof/Machine/Matrix.lean ====
section
/-!
DEFINITION. Operand slots and matrix instructions (R281-R301, R307, R308): SCLAIM, SREL, SCLASS, MMA, MMASP, MMAG, AZERO, ALD,
AST, AWIN, ARD, AWR, APROMO, the release of slots, and the completion of engine and matrix operations.
-/

namespace Sys2Proof.Machine

-- Slots.

/-- One token for each thread of a group, in ascending index (R165). -/
def State.tokens (s : State) (c : Iss) (gap : Nat) (d : Nat) (f : State → Nat → State × DWord) : State :=
  ((sortNat c.g.tids).foldl (fun (s : State) tid =>
    let (s, v) := f s tid
    let (id, s) := s.newId
    s.owe c.t id tid true false [(.k d, some v)]) s).advance c.t c.gid gap

/-- SCLAIM (R284, R286). -/
def execSclaim (st : BitVec 2) (d a : BitVec 6) (s : State) : Out :=
  .next (s.forbiddenFree ((Use.ksrc a.toNat 1).add (Use.kdst d.toNat 1)) (fun s c =>
    let m := (c.k s a.toNat).toNat % 2 ^ 16
    s.tokens c (gapOf st) d.toNat (fun s _ =>
      let k := s.core c.tm.core
      let want := (List.range 16).filter (fun n => bit m n)
      if want.all (fun n => (k.slot n).state == 0 || k.holds c.t n) then
        let k' := want.foldl (fun (k : CoreSt) n => if (k.slot n).state = 0 then k.setSlot n { state := 1, team := c.t, data := (k.slot n).data } else k) k
        (s.updCore c.tm.core (fun _ => k'), BitVec.ofNat 64 (k'.heldMask c.t))
      else (s, BitVec.ofNat 64 (k.heldMask c.t + 2 ^ 16)))))

/-- The matrix instructions of a team that stand held at issue and name a slot, by thread and arrival number (R286). -/
def State.holders (s : State) (t slot : Nat) : List Nat :=
  match s.team? t with
  | none => []
  | some tm => (List.range tm.threads.length).filterMap (fun tid => match (tm.thread tid).mwait with
    | some (n, _, mask) => if bit mask slot then some (slot + 16 * (tid + 1024 * n)) else none
    | none => none)

/-- A held instruction has not issued (R286); it may stand in a parked team. -/
def Team.waitsAt (tm : Team) (w : Nat) : Bool := ((tm.thread (w / 16 % 1024)).mwait.map Prod.fst) == some (w / 16384)

/-- A pending SREL frees the slots whose fill is complete and whose waiting matrix instructions have issued; when none is left its
token is written (R284, R286). -/
def State.tryRel (s : State) (rel : Nat) : State :=
  match FMap.get? s.rels rel with
  | none => s
  | some r =>
    let k := s.core r.core
    let ready (n : Nat) : Bool :=
      bit r.mask n && (!k.holds r.team n || ((k.slot n).state != 2 &&
        r.waits.all (fun w => w % 16 != n || !((s.team? r.team).map (fun tm => tm.waitsAt w)).getD false)))
    let go := (List.range 16).filter ready
    let s := s.updCore r.core (fun k => go.foldl (fun (k : CoreSt) n => if k.holds r.team n then k.freeSlot n else k) k)
    let mask := go.foldl (fun m n => m - 2 ^ n) r.mask
    if mask ≠ 0 then { s with rels := FMap.set s.rels rel { r with mask } }
    else
      { s with rels := FMap.erase s.rels rel }.answer r.team r.wb (fun _ => BitVec.ofNat 64 ((s.core r.core).heldMask r.team))

/-- SREL (R286). -/
def execSrel (st : BitVec 2) (d a : BitVec 6) (s : State) : Out :=
  .next (s.forbiddenFree ((Use.ksrc a.toNat 1).add (Use.kdst d.toNat 1)) (fun s c =>
    let m := (c.k s a.toNat).toNat % 2 ^ 16
    ((sortNat c.g.tids).foldl (fun (s : State) tid =>
      let k := s.core c.tm.core
      let mine := (List.range 16).filter (fun n => bit m n && k.holds c.t n)
      let waits := mine.flatMap (s.holders c.t)
      let (wid, s) := s.newId
      let s := s.owe c.t wid tid true false [(.k d.toNat, none)]
      let (rid, s) := s.newId
      ({ s with rels := FMap.set s.rels rid { core := c.tm.core, team := c.t, mask := mine.foldl (fun m n => m + 2 ^ n) 0, waits, wb := wid } }).tryRel rid) s).advance
        c.t c.gid (gapOf st)))

/-- SLOT_RELEASE (R286). -/
def execSlotRelease (rel : Nat) (s : State) : Out := .next (s.tryRel rel)

/-- A slot's descriptor as a team reads it (R283, R286). -/
def OSlot.desc (o : OSlot) (t : Nat) : Nat :=
  if o.state = 0 || o.team ≠ t then o.state
  else o.state + 8 + o.fmt * 16 + b2n o.tr * 256 + o.cls * 512 + b2n o.f * 2048 + (if o.cls = 2 then o.cval * 2 ^ 32 else 0)

/-- SCLASS (R286). -/
def execSclass (st : BitVec 2) (d a : BitVec 6) (s : State) : Out :=
  .next (s.forbiddenFree ((Use.ksrc a.toNat 1).add (Use.kdst d.toNat 1)) (fun s c =>
    let n := (c.k s a.toNat).toNat % 16
    s.tokens c (gapOf st) d.toNat (fun s _ => (s, BitVec.ofNat 64 (((s.core c.tm.core).slot n).desc c.t)))))

-- Matrix instructions.

/-- The operand pairs of R290; `sp` asks for MMASP's. -/
def pairOk (sp : Bool) (a b : Nat) : Bool :=
  ((a == 4 || a == 5) && (b == 4 || b == 5)) || (a == 2 && b == 2) || (a == 3 && b == 3) || (a == 6 && b == 6) ||
  (!sp && a == 9 && (b == 4 || b == 9 || b == 2 || b == 3))

/-- A matrix instruction's fields. -/
structure Mat where
  cv : Nat
  u : Nat
  a : Nat
  bs : List Nat
  meta? : Option Nat
  fin : Bool
  zi : Bool
  nel : Bool
  deriving DecidableEq, Repr

/-- The slots it names. -/
def Mat.names (m : Mat) : List Nat := m.a :: m.bs ++ m.meta?.toList

/-- The trap that R288 takes first, if any. -/
def Iss.matTrap (c : Iss) (s : State) (m : Mat) : Option Trap :=
  let k := s.core c.tm.core
  let sl (n : Nat) : OSlot := k.slot n
  if c.tm.tr.acc / 64 ≤ m.u then some .window
  else match (List.range 16).find? (fun n => m.names.contains n && (!k.holds c.t n || (sl n).state == 1 || (sl n).state == 4)) with
    | some n => some (.slot n)
    | none =>
      let b0 := m.bs.headD 0
      match m.bs.find? (fun b => (sl b).fmt != (sl b0).fmt || (sl b).tr != (sl b0).tr) with
      | some b => some (.slot b)
      | none =>
        let a := sl m.a
        if m.meta?.isSome && (a.tr || !(decide (2 ≤ a.fmt) && decide (a.fmt ≤ 6))) then some (.slot m.a)
        else match m.meta? with
          | some x => if (sl x).fmt != 0 then some (.slot x) else if pairOk true a.fmt (sl b0).fmt then none else some (.slot b0)
          | none => if pairOk false a.fmt (sl b0).fmt then none else some (.slot b0)

/-- A word is a matrix instruction (R289). -/
def isMatrix (w : BitVec 32) : Bool :=
  match wordInstr w with
  | some (.mma _ _ _ _ _ _ _ _) => true
  | some (.mmasp _ _ _ _ _ _ _ _) => true
  | some (.mmag _ _ _ _ _ _ _ _) => true
  | _ => false

/-- A thread stands at a matrix instruction at which it waits: in a group there, or to re-enter its run there (R288, R360). -/
def Team.atMatrix (tm : Team) (tid : Nat) : Bool :=
  (tm.thread tid).mid.isSome || tm.groups.any (fun g => g.2.tids.contains tid && ((g.2.body[g.2.idx]?).map isMatrix).getD false)

/-- Another instruction of the team that waits on the register reached issue before the group's own did (R288). -/
def Iss.behind (c : Iss) (cv : Nat) : Bool :=
  let mine := c.g.tids.filterMap (fun tid => (c.tm.thread tid).mwait.map Prod.fst)
  (List.range c.tm.threads.length).any (fun tid =>
    !c.g.tids.contains tid && (match (c.tm.thread tid).mwait with
      | some (n, v, _) => v == cv && c.tm.atMatrix tid && mine.all (fun m => decide (n < m))
      | none => false))

/-- The group waits at its matrix instruction; its arrival is noted the first time (R286, R288). -/
def State.holdMatrix (s : State) (c : Iss) (m : Mat) : State :=
  let (n, s) := s.newId
  let mask := (List.range 16).foldl (fun x k => if m.names.contains k then x + 2 ^ k else x) 0
  (s.updTeam c.t (fun tm => c.g.tids.foldl (fun tm tid => tm.updThread tid (fun th =>
    if th.part then th else { th with mwait := some (((th.mwait.map Prod.fst).getD n), m.cv, mask) })) tm)).hold c.t c.gid

/-- The half-line with a data error in a slot that a matrix instruction reads (R364). -/
def CoreSt.slotError (k : CoreSt) (names : List Nat) : Option Nat := k.slotBad.find? (fun h => names.contains (h / 128))

/-- MMA, MMASP and MMAG (R119, R132, R165, R288): each thread's instruction waits for its signatures and for fills, makes its checks,
consumes the signatures, reads its slots whole and issues one operation. -/
def State.matrix (s : State) (st : BitVec 2) (u : Use) (f : Iss → State → Mat) : State :=
  s.gateFree u (fun s c0 =>
    let m := f c0 s
    if c0.tm.tr.cv ≤ m.cv then s.trapAll c0.t c0.gid c0.g .illegal
    else
      let ready (s : State) : Bool :=
        match s.team? c0.t with
        | none => false
        | some tm =>
          let (e, n) := FMap.getD tm.cv m.cv (0, 0)
          n == e && m.names.all (fun k => ((s.core tm.core).slot k).state != 2)
      if !ready s || c0.behind m.cv then s.holdMatrix c0 m
      else s.splitTraps c0 (fun tid => if (c0.tm.thread tid).part then none else c0.matTrap s m) (fun s c =>
        s.engineIssue c true (fun s after =>
          let s := s.issueEach c (gapOf st) (fun s => ready s && s.cntRoom c.t 2) (fun s tid =>
            let k := s.core c.tm.core
            let s := s.updTeam c.t (fun tm =>
              { tm with cv := FMap.set tm.cv m.cv ((FMap.getD tm.cv m.cv (0, 0)).1, 0) }.updThread tid (fun th => { th with mwait := none }))
            (s.addOp { (c.newOp tid 2 (.mma (c.tm.accBase + m.u) c.tm.ival m.zi m.fin m.nel (k.slot m.a) (m.bs.map k.slot) (m.meta?.map k.slot)) []) with
              after := after tid, bad := (k.slotError m.names).map (fun _ => (4, 0)), badPa := ((k.slotError m.names).map (fun h => s.windowPa 2 c.tm.core (h * 64))).getD 0 }).2)
          match s.iss with
          | some c' => if c'.g.tids.any (fun tid => !(c'.tm.thread tid).part) && c'.g.idx = c.g.idx && c'.g.tids.any (fun tid => (c'.tm.thread tid).part)
              then s.holdMatrix c' m else s
          | none => s)))

def execMma (st : BitVec 2) (cv : BitVec 3) (a b u : BitVec 4) (f z n : BitVec 1) (s : State) : Out :=
  .next (s.matrix st {} (fun _ _ => ⟨cv.toNat, u.toNat, a.toNat, [b.toNat], none, f == 1, z == 1, n == 1⟩))

def execMmasp (st : BitVec 2) (cv : BitVec 3) (a b u : BitVec 4) (f z : BitVec 1) (m : BitVec 4) (s : State) : Out :=
  .next (s.matrix st {} (fun _ _ => ⟨cv.toNat, u.toNat, a.toNat, [b.toNat], some m.toNat, f == 1, z == 1, false⟩))

def execMmag (st : BitVec 2) (cv : BitVec 3) (a q u : BitVec 4) (f z n : BitVec 1) (s : State) : Out :=
  .next (s.matrix st (Use.ksrc (48 + q.toNat) 1) (fun c s =>
    ⟨cv.toNat, u.toNat, a.toNat, (List.range 8).map (fun g => bits (c.k s (48 + q.toNat)).toNat (4 * g + 3) (4 * g)), none, f == 1, z == 1, n == 1⟩))

-- The array.

/-- The 64 products of row i of A and column j of B (R64, R291-R294). A product that is not a number is NaN, signalling where it raises nv by R57: of a
signalling NaN, or of zero and an infinity. -/
def matProducts (a : OSlot) (bs : List OSlot) (meta? : Option OSlot) (i j : Nat) : List Num :=
  let b : OSlot := if bs.length = 8 then (bs[i / 8]?).getD {} else bs.headD {}
  let mul (x y : Num) : Num := (mulExact x y).getD (.nan true)
  match meta? with
  | none => (List.range 64).map (fun kk => mul (a.at i kk) (b.at kk j))
  | some m =>
    let w := m.num (8 * i) 8
    (List.range 16).flatMap (fun g =>
      let x := bits w (4 * g + 1) (4 * g)
      let y := bits w (4 * g + 3) (4 * g + 2)
      let zero : Num := .fin false 0 0
      (List.range 4).map (fun q =>
        if y ≤ x then zero
        else if q = x then mul (a.elem i (2 * g)) (b.at (4 * g + q) j)
        else if q = y then mul (a.elem i (2 * g + 1)) (b.at (4 * g + q) j)
        else zero))

/-- An exact value as an integer, for i8 products (R67). -/
def Num.toInt : Num → Int
  | .fin n m e => (if n then -1 else 1) * ((m <<< e.toNat : Nat) : Int)
  | _ => 0

/-- One matrix operation on a unit (R292; elision gives the same values, R307, R308). A signalling NaN among the operands, or a product of zero and
an infinity, raises nv by R57; R65 raises none for it under its own rule (log 38). -/
def CoreSt.matmul (c : CoreSt) (unit ival : Nat) (zi fin : Bool) (a : OSlot) (bs : List OSlot) (meta? : Option OSlot) : CoreSt × BitVec 5 :=
  let c := if zi then c.clearUnit unit else c
  let pos := (List.range 4096).map (fun n => (unit * 4096 + n, n / 64, n % 64))
  if a.fmt = 6 then
    let (c, fl) := c.settle unit
    let acc := pos.foldl (fun m p =>
      let sum := (matProducts a bs meta? p.2.1 p.2.2).foldl (fun (t : Int) x => t + x.toInt) 0
      FMap.set m p.1 (BitVec.ofInt 32 ((FMap.getD m p.1 0).toNat + sum))) c.acc
    ({ c with acc }, fl)
  else
    let (part, fl) := pos.foldl (fun (x : FMap (BitVec 26) × BitVec 5) p =>
      let prods := matProducts a bs meta? p.2.1 p.2.2
      let old := (FMap.getD x.1 p.1 0).toNat
      let r := f26Add old (arraySum prods) (prods.any Num.isNan || (f26Num old).isNan)
      (FMap.set x.1 p.1 (BitVec.ofNat 26 r.1), x.2 ||| r.2 ||| (if prods.any Num.isSnan then flNv else flNone))) (c.part, 0)
    let n := FMap.getD c.cnt unit 0 + 1
    let c := { c with part, cnt := FMap.set c.cnt unit n }
    if fin || decide (ival ≤ n) then
      let (c, fl2) := c.promote unit
      (c, fl ||| fl2)
    else (c, fl)

-- Accumulator instructions.

/-- AZERO (R299). -/
def execAzero (st : BitVec 2) (k : BitVec 6) (s : State) : Out :=
  .next (s.gateFree (Use.ksrc k.toNat 1) (fun s c =>
    let x := (c.k s k.toNat).toNat
    let first := bits x 15 0
    let n := bits x 31 16
    if n ≠ 0 && decide (c.tm.tr.acc / 64 < first + n) then s.trapAll c.t c.gid c.g .window
    else s.engineIssue c true (fun s after =>
      s.issueEach c (gapOf st) (fun s => s.cntRoom c.t 2) (fun s tid =>
        (s.addOp { c.newOp tid 2 (.azero (c.tm.accBase + first) n) [] with after := after tid }).2))))

/-- ALD and AST (R300). -/
def State.accMove (s : State) (st : BitVec 2) (k : BitVec 6) (d : BitVec 7) (store : Bool) : State :=
  s.gateFree ((Use.ksrc k.toNat 2).add (Use.dst d.toNat 1)) (fun s c =>
    let a := c.k s k.toNat
    let y := (c.k s (k.toNat + 1)).toNat
    let f := bits y 15 0
    let m := bits y 31 16
    let glob := bit y 32
    let addr := if glob then a.toNat else a.toNat % 2 ^ 32
    if c.tm.tr.acc < f + m then s.trapAll c.t c.gid c.g .window
    else if addr % 256 ≠ 0 then s.trapAll c.t c.gid c.g (.align store (BitVec.ofNat 64 addr))
    else s.engineIssue c true (fun s after =>
      s.issueEach c (gapOf st) (fun s => s.cntRoom c.t 2) (fun s tid =>
        let mem : Option Loc := if glob then some (.glob a) else (s.scrAt c.t addr (256 * m)).map (fun p => .scr p.1 p.2)
        let status := if m = 0 then 1 else if y / 2 ^ 33 ≠ 0 then 5 else if mem.isNone then 4 else 0
        let rows := (List.range m).map (fun r =>
          let near := (mem.getD .skip).add (256 * r)
          let row := Loc.acc (c.tm.accBase * 64 + f + r) 0
          (⟨if store then row else near, if store then near else row, 256, 0, .move⟩ : Chunk))
        let chunks := if status = 0 then rows else []
        let (wid, s) := s.newId
        let s := s.owe c.t wid tid false false (resultRegs d.toNat 1 false none) 0 true
        let kind : OpKind := if store then .ast f m (if glob then some a else none) else .ald
        let whole := if store && glob && status == 0 then (wholeTiles 1 chunks).map (fun t => (t, 0)) else []
        (s.addOp { c.newOp tid 2 kind [wid] with chunks, status, whole, bytes := 256 * m, after := after tid }).2)))

def execAld (st : BitVec 2) (k : BitVec 6) (d : BitVec 7) (s : State) : Out := .next (s.accMove st k d false)
def execAst (st : BitVec 2) (k : BitVec 6) (d : BitVec 7) (s : State) : Out := .next (s.accMove st k d true)

/-- AWIN (R297). -/
def execAwin (st : BitVec 2) (k : BitVec 6) (s : State) : Out :=
  .next (s.gate (Use.ksrc k.toNat 1) (fun s c =>
    let x := (c.k s k.toNat).toNat
    let base := bits x 15 0
    let lim := bits x 31 16
    if lim < base || c.tm.tr.acc < lim then s.trapAll c.t c.gid c.g .window
    else (s.updTeam c.t (fun tm => { tm with aw := (c.g.tids.map (· / 32)).foldl (fun m w => FMap.set m w (base, lim)) tm.aw })).advance
      c.t c.gid (gapOf st)))

/-- The row of ARD and AWR for a thread, none outside its crew's window (R298). -/
def Iss.accRow (c : Iss) (s : State) (k n tid : Nat) : Option Nat :=
  let (base, lim) := FMap.getD c.tm.aw (tid / 32) (0, 0)
  let r := base + (c.k s k).toNat % 2 ^ 16 + n
  if r < lim then some r else none

/-- An earlier matrix operation of the team still has to write a row of the core (R133). -/
def State.rowBusy (s : State) (t row : Nat) : Bool :=
  s.ops.any (fun e => e.2.team == some t && e.2.cls == 2 && !e.2.done && (match e.2.kind with
    | .mma u _ _ _ _ _ _ _ => u == row / 64
    | .azero first n => decide (first ≤ row / 64) && decide (row / 64 < first + n)
    | .ald => e.2.chunks.any (fun c => match c.dst with
        | .acc r _ => r == row
        | _ => false) || e.2.failed.any (fun c => match c.dst with
        | .acc r _ => r == row
        | _ => false) || e.2.parked != 0
    | _ => false))

/-- ARD and AWR (R133, R298): traps of crews out of their windows, the wait for earlier writes, the machine check of each thread whose own read, of its
element in half `half` of its row, meets a data error (R364), promotion first (R69); `go` is given the flags of the promotion. -/
def State.accElem (s : State) (u : Use) (k n : Nat) (half : Option Nat) (go : State → Iss → (Nat → Nat) → BitVec 5 → State) : State :=
  s.gate u (fun s c0 =>
    let bad (crew : Nat) : Bool := c0.g.tids.any (fun tid => tid / 32 == crew && (c0.accRow s k n tid).isNone)
    s.splitTraps c0 (fun tid => if bad (tid / 32) then some .window else none) (fun s c =>
      let row (tid : Nat) : Nat := c.tm.accBase * 64 + (c.accRow s k n tid).getD 0
      if c.g.tids.any (fun tid => s.rowBusy c.t (row tid)) then s.hold c.t c.gid
      else s.splitTraps c (fun tid => if half.any (fun h => (s.core c.tm.core).accBad.contains (row tid * 4 + 2 * h + tid % 32 / 16)) then some { cause := 10, info := 5 } else none) (fun s c =>
        let units := dedup (c.g.tids.map (fun tid => row tid / 64))
        let r := units.foldl (fun (x : CoreSt × BitVec 5) u => let q := x.1.settle u; (q.1, x.2 ||| q.2)) (s.core c.tm.core, 0)
        go ((s.updCore c.tm.core (fun _ => r.1)).raiseFlags c 0 r.2) c row r.2)))

/-- ARD (R298). The flags of the promotion are set for good when the result is written (R72). -/
def execArd (st : BitVec 2) (k : BitVec 6) (d : BitVec 7) (n : BitVec 6) (h : BitVec 1) (s : State) : Out :=
  .next (s.accElem ((Use.ksrc k.toNat 1).add (Use.dst d.toNat 1)) k.toNat n.toNat (some h.toNat) (fun s c row fl =>
    s.oweAll c (gapOf st) (fl := fl) (fun tid =>
      resultRegs d.toNat 1 true (some ((s.core c.tm.core).elem (row tid) (32 * h.toNat + tid % 32)).toNat))))

/-- AWR (R298). -/
def execAwr (st : BitVec 2) (k : BitVec 6) (d : BitVec 7) (n : BitVec 6) (h : BitVec 1) (s : State) : Out :=
  .next (s.accElem ((Use.ksrc k.toNat 1).add (Use.src d.toNat 1)) k.toNat n.toNat none (fun s c row _ =>
    (s.updCore c.tm.core (fun k => c.g.tids.foldl (fun (k : CoreSt) tid =>
      { k with acc := FMap.set k.acc (row tid * 64 + 32 * h.toNat + tid % 32) (c.src s tid d.toNat) }) k)).advance c.t c.gid (gapOf st)))

/-- APROMO (R301). -/
def execApromo (st : BitVec 2) (n : BitVec 7) (s : State) : Out :=
  .next (s.gate {} (fun s c => (s.updTeam c.t (fun tm => { tm with ival := n.toNat })).advance c.t c.gid (gapOf st)))

end Sys2Proof.Machine
end

