-- ==== Sys2Proof/Machine/Place.lean ====
section
/-!
DEFINITION. Team records (R180, R26), curves (R340, R341), what a core has room for (R22-R24, R28, R29, R343-R345), placing,
parking, saving and restoring a team (R27, R33, R352, R353, R367-R370).
-/

namespace Sys2Proof.Machine

-- Team records.

/-- A team record's fields (R180). -/
def TeamRec.ofBytes (bs : List Byte) : TeamRec :=
  let x := leNat bs
  { entry := BitVec.ofNat 64 (bits x 63 0), yieldPc := BitVec.ofNat 64 (bits x 127 64), resumePc := BitVec.ofNat 64 (bits x 191 128),
    threads := bits x 207 192, regs := bits x 215 208, scratch := bits x 223 216, claim := bits x 231 224, copyq := bits x 239 232,
    cv := bits x 247 240, acc := 64 * bits x 271 256, rst := bit x 248, discard := bits x 319 288 }

/-- The limits of R26 and R180 hold; a yield handler comes with a resume entry (R369). -/
def TeamRec.legal (r : TeamRec) : Bool :=
  decide (1 ≤ r.threads) && decide (r.threads ≤ 1024) && decide (8 ≤ r.regs) && decide (r.regs ≤ 112) && r.regs % 8 == 0 &&
  decide (r.scratch ≤ 128) && decide (r.claim ≤ 64) && decide (r.claim ≤ r.scratch) && decide (1 ≤ r.copyq) && decide (r.copyq ≤ 128) &&
  decide (r.cv ≤ 8) && decide (r.acc ≤ 1024) && decide (r.regBytes ≤ 393216) && (r.yieldPc == 0 || r.resumePc != 0)

-- Curves.

/-- The rounds of hilbert(m) (R340): rounds left, s, x, y, t. -/
def hilbertGo : Nat → Nat → Nat → Nat → Nat → Nat × Nat
  | 0, _, x, y, _ => (x, y)
  | n + 1, s, x, y, t =>
    let rx := t / 2 % 2
    let ry := (t ^^^ rx) % 2
    let (x, y) := if ry = 0 then (if rx = 1 then (s - 1 - y, s - 1 - x) else (y, x)) else (x, y)
    hilbertGo n (2 * s) (x + s * rx) (y + s * ry) (t / 4)

/-- Bits l, l + 2, l + 4, … of m compacted: n of them. -/
def compact (m l n : Nat) : Nat := (List.range n).foldl (fun a i => a + b2n (bit m (l + 2 * i)) * 2 ^ i) 0

/-- The smallest p with 2^p at least max(X, Y) (R340). -/
def curveP (x y : Nat) : Nat := ((List.range 17).find? (fun p => decide (max x y ≤ 2 ^ p))).getD 16

/-- The (x, y) of one z in curve order (R340). -/
def curveOrder (code : Nat) (tab : List Byte) (x y : Nat) : List (Nat × Nat) :=
  let inside (l : List (Nat × Nat)) : List (Nat × Nat) := l.filter (fun p => decide (p.1 < x) && decide (p.2 < y))
  let p := curveP x y
  match code with
  | 0 => (List.range (x * y)).map (fun m => (m % x, m / x))
  | 1 => inside ((List.range (4 ^ p)).map (fun m => (compact m 0 p, compact m 1 p)))
  | 2 => inside ((List.range (4 ^ p)).map (fun m => hilbertGo p 1 0 0 m))
  | _ =>
    let w := ceilDiv x 8
    inside ((List.range (w * ceilDiv y 8)).flatMap (fun t =>
      tab.map (fun b => (8 * (t % w) + bits b.toNat 2 0, 8 * (t / w) + bits b.toNat 5 3))))

/-- A curve table is legal (R341). -/
def curveTabOk (tab : List Byte) : Bool := sortNat (tab.map BitVec.toNat) == List.range 64

-- Room.

/-- The lowest multiple of a step at which n units fit below a limit beside the ranges in use. -/
def lowestFit (limit n : Nat) (used : List (Nat × Nat)) : Option Nat :=
  let free (b : Nat) : Bool := decide (b + n ≤ limit) && used.all (fun u => decide (b + n ≤ u.1) || decide (u.1 + u.2 ≤ b))
  argMin id ((0 :: used.map (fun u => u.1 + u.2)).filter free)

/-- A team runs a cell of a standing set, or belongs to a grid. -/
def Team.standing (tm : Team) : Bool := tm.cell.isSome

/-- The active and the parked teams of a core (R22). -/
def State.activeOn (s : State) (core : Nat) : List (Nat × Team) := (s.teamsOn core).filter (fun e => e.2.active)
def State.parkedOn (s : State) (core : Nat) : List (Nat × Team) := (s.teamsOn core).filter (fun e => !e.2.active)

/-- Active teams of a kind, and the kind's limit (R345). -/
def State.kindActive (s : State) (core : Nat) (standing : Bool) : Nat := ((s.activeOn core).filter (fun e => e.2.standing == standing)).length
def State.kindLimit (s : State) (core : Nat) (standing : Bool) : Nat :=
  let x := (s.core core).share.toNat
  if standing then bits x 12 8 else bits x 4 0

/-- One more team of a kind may be active (R345). -/
def State.shareAllows (s : State) (core : Nat) (standing : Bool) : Bool := decide (s.kindActive core standing < s.kindLimit core standing)

/-- No pre-emption keeps a context's team from becoming active on a core (R348). -/
def State.coreOpen (s : State) (core ctx : Nat) : Bool := !(s.core core).held || (s.die (core / 192)).reqCtx == ctx

/-- The resources of an active team fit (R23, R29): the register base it would get. -/
def State.fitsActive (s : State) (core : Nat) (tr : TeamRec) : Option Nat :=
  let act := s.activeOn core
  if 16 ≤ act.length || decide (128 < act.foldl (fun n e => n + e.2.tr.scratch) tr.scratch) then none
  else lowestFit 393216 tr.regBytes (act.map (fun e => (e.2.regBase, e.2.tr.regBytes)))

/-- A team can become active at once (R344, R346). -/
def State.roomActive (s : State) (core ctx : Nat) (standing : Bool) (tr : TeamRec) : Option Nat :=
  if s.shareAllows core standing && s.coreOpen core ctx then s.fitsActive core tr else none

/-- The lowest free team slot of a core, and the lowest accumulator units that fit (R22, R24). -/
def State.freeSlotOn (s : State) (core : Nat) : Option Nat :=
  (List.range 64).find? (fun n => (s.teamsOn core).all (fun e => e.2.slot != n))
def State.freeAccOn (s : State) (core : Nat) (tr : TeamRec) : Option Nat :=
  lowestFit 16 (tr.acc / 64) ((s.teamsOn core).map (fun e => (e.2.accBase, e.2.tr.acc / 64)))

/-- A core can hold a team, active or parked (R22, R23, R28, R348): none after it has held 48 parked ones, until a team leaves it. -/
def State.roomPlaced (s : State) (core : Nat) (tr : TeamRec) : Bool :=
  let on := s.teamsOn core
  !(s.core core).held && !(s.core core).full && decide ((s.parkedOn core).length < 48) && (s.freeSlotOn core).isSome && (s.freeAccOn core tr).isSome &&
  decide (on.foldl (fun n e => n + e.2.tr.copyq) tr.copyq ≤ 128)

/-- The lowest save area of a die that is free (R28, R367): none before both pool registers are written. -/
def State.freeArea (s : State) (die : Nat) : Option Nat :=
  let d := s.die die
  if d.svpaSet && d.svvaSet then
    let n := d.areas.foldl (fun n a => if a = n then n + 1 else n) 0
    if n < 24576 then some n else none
  else none

/-- The core for a team among some cores, in order (R344). -/
def State.coreFor (s : State) (cores : List Nat) (ctx : Nat) (standing : Bool) (tr : TeamRec) : Option Nat :=
  let ok := cores.filter (fun c => s.roomPlaced c tr)
  match argMin (fun c => (s.activeOn c).length) (ok.filter (fun c => (s.roomActive c ctx standing tr).isSome)) with
  | some c => some c
  | none => argMin (fun c => (s.teamsOn c).length) ok

-- The save area (R367).

/-- A register, or a word of the area, as it is written: offset, bytes, value. -/
abbrev AreaW := Nat × Nat × Nat

/-- A thread's block and eva (R367, R368), given the kind and the st word there now; a kept resume record stays. -/
def Team.blockWords (tm : Team) (kind : Nat) (oldSt : Nat → Nat) (tid : Nat) : List AreaW :=
  let th := tm.thread tid
  let b := 0x1000 + 128 * tid
  let kept := th.kept kind
  let fresh := kind == 1 && tm.tr.yieldPc != 0 && !th.ran
  let mid := if fresh then none else th.mid
  let pc := if fresh then tm.tr.entry else (mid.map (fun m => m.hdr)).getD th.pc
  let state := if th.exited then 2 else if th.pwait then 1 else 0
  let rec_ := if kept then bits (oldSt tid) 7 2 * 4 else (mid.map (fun m => 4 + 8 * m.off)).getD 0
  let st := state + rec_ + b2n th.hm * 2 ^ 8 + b2n th.rr * 2 ^ 9 + b2n th.ran * 2 ^ 10 + th.p.toNat * 2 ^ 16
  let words (o : Nat) (m : Mid) : List AreaW := (o, 4, m.l.toNat) :: (List.range 8).map (fun n => (o + 4 + 4 * n, 4, ((m.t[n]?).getD 0).toNat))
  (if kept then [] else [(b, 8, pc.toNat)]) ++ [(b + 8, 4, st)] ++
  (match mid with
    | some m => if kept then [] else words (b + 0xC) m
    | none => []) ++
  [(b + 0x30, 8, th.epc.toNat), (b + 0x38, 4, th.ecause.toNat), (b + 0x3C, 4, th.rcause.toNat), (b + 0x40, 8, th.xlo.toNat),
    (b + 0x48, 8, th.xhi.toNat), (b + 0x50, 8, ((th.trMid.map (fun m => m.hdr)).getD th.epc).toNat),
    (b + 0x58, 4, (th.trMid.map (fun m => m.off + 32)).getD 0)] ++
  (match th.trMid with
    | some m => words (b + 0x5C) m
    | none => []) ++
  [(0xFE000 + 8 * tid, 8, th.eva.toNat)]

/-- Everything a park (kind 0) or a save (kind 1) writes to the area (R367). The register words of the last crew's unused threads
are free (log 32). -/
def State.areaWords (s : State) (t : Nat) (tm : Team) (kind : Nat) : List AreaW :=
  let n := tm.threads.length
  let oldSt (tid : Nat) : Nat := s.mem.num (s.areaPa tm + 0x1000 + 128 * tid + 8) 4
  let pend := (List.range 64).foldl (fun m k => if tm.wbs.any (fun w => w.reg == .k k) then m + 2 ^ k else m) 0
  let cnt := FMap.getD tm.cnt 0 0 + FMap.getD tm.cnt 1 0 * 2 ^ 16 + FMap.getD tm.cnt 2 0 * 2 ^ 32 + FMap.getD tm.cnt 3 0 * 2 ^ 48
  let w := match tm.waiter with
    | some (.scratch a) => (1, a)
    | some (.glob va) => (3, va.toNat)
    | _ => (0, 0)
  let reg (tid v : Nat) : Nat :=
    if tid < n then (FMap.getD (tm.thread tid).v v 0).toNat else (Config.freeWord s.freeCtr (t + 2 ^ 10 * (tid + 1024 * v))).toNat
  [(0x038, 200, 0), (0x3A8, 3160, 0), (0x000, 4, 1), (0x004, 2, n), (0x006, 1, tm.tr.regs), (0x007, 1, kind), (0x008, 4, tm.regBase), (0x00C, 4, tm.core + tm.slot * 2 ^ 10),
    (0x010, 8, cnt), (0x018, 4, tm.kexc.toNat), (0x01C, 4, tm.kf.toNat), (0x020, 4, tm.ival), (0x024, 4, w.1), (0x028, 8, w.2),
    (0x030, 8, (s.areaVa tm).toNat), (0x3A0, 8, pend)] ++
  ((List.range 64).filter (fun k => !(k == 63 && tm.k63out))).map (fun k => (0x100 + 8 * k, 8, (tm.kreg k).toNat)) ++
  (List.range 8).map (fun c => let x := FMap.getD tm.cv c (0, 0); (0x300 + 4 * c, 4, x.1 + x.2 * 2 ^ 16)) ++
  (List.range 32).map (fun c => let x := FMap.getD tm.aw c (0, 0); (0x320 + 4 * c, 4, x.1 + x.2 * 2 ^ 16)) ++
  (List.range n).flatMap (tm.blockWords kind oldSt) ++
  (List.range (1024 - n)).map (fun i => (0x1000 + 128 * (n + i), 128, 0)) ++
  (List.range (tm.tr.crews * tm.tr.regs * 32)).map (fun i => (0x21000 + 4 * i, 4, reg (i / (32 * tm.tr.regs) * 32 + i % 32) (i / 32 % tm.tr.regs)))

/-- The half-lines with a data error that a write of the area touches, their structure, and whether it fills them only in part (R371, R388). -/
def State.areaErrors (s : State) (t : Nat) (tm : Team) (kind : Nat) : List (Nat × Nat × Bool) :=
  let a := s.areaPa tm
  let mine := s.links.poison.filter (fun e => decide (a ≤ e.1 * 64) && decide (e.1 * 64 < a + 2 ^ 20))
  if mine.isEmpty then []
  else
    let ws := s.areaWords t tm kind
    mine.filterMap (fun e =>
      let lo := e.1 * 64 - a
      let ivs := (ws.filter (fun w => decide (w.1 < lo + 64) && decide (lo < w.1 + w.2.1))).map (fun w =>
        (max w.1 lo - lo, min (w.1 + w.2.1) (lo + 64) - max w.1 lo))
      if ivs.isEmpty then none else some (e.1, e.2, !covers 64 ivs))

/-- The area written (R367); the state's home is the area from then on. Its half-lines have new codes, and a data error under one that is written
in part is the context's (R364, R388). A register with a data error is stored as it is, without a check: the mark stays with the thread (log 68). -/
def State.storeArea (s : State) (t kind : Nat) : State :=
  match s.team? t with
  | none => s
  | some tm =>
    let a := s.areaPa tm
    let bad := s.areaErrors t tm kind
    let m := (s.areaWords t tm kind).foldl (fun m w => m.storeNum (a + w.1) w.2.1 w.2.2) s.mem
    let s := bad.foldl (fun (s : State) b => { s with links := { s.links with poison := FMap.erase s.links.poison b.1 } }) { s with mem := m }
    let s := (bad.filter (fun b => b.2.2)).foldl (fun (s : State) b => s.contextMc tm.dieOf b.2.1 tm.ctx (b.1 * 64)) s
    s.updTeam t (fun tm => { tm with stored := kind + 1, kexc := 0 })

/-- A thread as its block gives it back, by the kind of the area; a kept resume record is not where the thread stands. -/
def State.loadThread (s : State) (a kind : Nat) (tr : TeamRec) (th : Thread) (tid : Nat) : Thread :=
  let b := a + 0x1000 + 128 * tid
  let num (o n : Nat) : Nat := s.mem.num (b + o) n
  let pc : DWord := BitVec.ofNat 64 (num 0 8)
  let st := num 8 4
  let word (o : Nat) : Word := BitVec.ofNat 32 (num o 4)
  let dword (o : Nat) : DWord := BitVec.ofNat 64 (num o 8)
  let mid : Option Mid := if bit st 2 then some ⟨pc, bits st 7 3, (List.range 8).map (fun n => word (0x10 + 4 * n)), word 0xC⟩ else none
  let tw := num 0x58 4
  let trMid : Option Mid := if bit tw 5 then some ⟨dword 0x50, bits tw 4 0, (List.range 8).map (fun n => word (0x60 + 4 * n)), word 0x5C⟩ else none
  let regs := (List.range tr.regs).map (fun v => (v, BitVec.ofNat 32 (s.mem.num (a + 0x21000 + ((tid / 32 * tr.regs + v) * 32 + tid % 32) * 4) 4)))
  let kept := kind == 0 && th.kept 0
  let pc := if kept then th.pc else pc
  { th with
    pc, npc := pc, mid := if kept then th.mid else mid, trMid, v := regs, t := [], p := BitVec.ofNat 7 (bits st 22 16), exited := bits st 1 0 == 2, pwait := bits st 1 0 == 1
    hm := bit st 8, rr := bit st 9, ran := bit st 10, epc := dword 0x30, ecause := word 0x38, rcause := word 0x3C
    xlo := dword 0x40, xhi := dword 0x48, eva := BitVec.ofNat 64 (s.mem.num (a + 0xFE000 + 8 * tid) 8)
    held := false, sent := th.sent && kind == 0, yielded := th.yielded && kind == 0, soft := [] }

/-- A team's state read back from its area (R29, R353, R369, R370). Flags raised meanwhile stay. No thread reads it, so a data error there is the
context's machine check (R364). -/
def State.loadArea (s : State) (t : Nat) : State :=
  match s.team? t with
  | none => s
  | some tm =>
    let a := s.areaPa tm
    let num (o n : Nat) : Nat := s.mem.num (a + o) n
    let w := num 0x24 4
    let waiter : Option PhRef :=
      if !bit w 0 then none else if bit w 1 then some (.glob (BitVec.ofNat 64 (num 0x28 8))) else some (.scratch (num 0x28 8))
    let ks := (List.range 64).map (fun k => (k, BitVec.ofNat 64 (num (0x100 + 8 * k) 8)))
    let ks := if tm.k63out then FMap.set ks 63 (tm.kreg 63) else ks
    let cv := (List.range 8).map (fun c => let x := num (0x300 + 4 * c) 4; (c, bits x 10 0, bits x 26 16))
    let aw := (List.range 32).map (fun c => let x := num (0x320 + 4 * c) 4; (c, bits x 15 0, bits x 31 16))
    let n := tm.threads.length
    let ths := (List.range n).map (fun tid => s.loadThread a (tm.stored - 1) tm.tr (tm.thread tid) tid)
    let s := [(0, 0x400), (0x1000, 128 * n), (0x21000, tm.tr.regBytes), (0xFE000, 8 * n)].foldl (fun (s : State) r =>
      s.readCheck tm.dieOf tm.ctx (a + r.1) r.2) s
    s.updTeam t (fun tm =>
      { tm with
        threads := ths, groups := [], k := ks, kf := BitVec.ofNat 4 (num 0x1C 4), kexc := tm.kexc ||| BitVec.ofNat 5 (num 0x18 4)
        cv, aw, ival := num 0x20 4, waiter, stored := 0, soft := [] })

/-- The resumption of a saved team (R353, R369). -/
def State.resume (s : State) (t : Nat) : State :=
  match s.team? t with
  | none => s
  | some tm =>
    let k63 : DWord := BitVec.ofNat 64 (s.mem.num (s.areaPa tm + 0x2F8) 8)
    let area := s.areaVa tm
    s.updTeam t (fun tm =>
      let sendTo (th : Thread) : Bool := tm.tr.resumePc != 0 && !th.exited && th.ran && !th.hm
      let any := tm.threads.any sendTo
      { tm with
        threads := tm.threads.map (fun th =>
          if sendTo th then { (th.goto tm.tr.resumePc) with rr := true }
          else if tm.tr.resumePc != 0 then { th with rr := false } else th)
        k := FMap.set tm.k 63 (if any then area else k63), k63out := any, proceeds := false })

/-- A team becomes active with a register base, which its area records (R29, R79, R346): its state comes back from its area. -/
def State.activate (s : State) (t base : Nat) (rotated : Bool) : State :=
  match s.team? t with
  | none => s
  | some tm =>
    let s := s.updTeam t (fun tm => { tm with active := true, regBase := base, activeAt := s.clock, rotated, readySince := none })
    let s := s.updCore tm.core (fun c => c.take 0 base tm.tr.regBytes)
    let s := s.putArea tm [(8, 4, base)]
    if tm.stored = 0 then s
    else
      let s := s.loadArea t
      -- what its threads stored before stays visible to them on another core (R102, R140)
      if tm.stored = 2 then (s.resume t).acquire tm.core else s

/-- A result for t0-t7 or L in a mid-run record. -/
def Mid.late (m : Mid) (n : Nat) (x : Word) : Mid := if n = 8 then { m with l := x } else { m with t := m.t.set n x }

/-- A late result of a team whose state lies in its area goes into the image there; a token's pending bit clears with the last one that the
register awaits (R231, R367, R371). Where the thread's block holds its resume record, t0-t7 and L of the run that it stands in are not there but with
the thread (R370). -/
def State.lateWrite (s : State) (t : Nat) (tm : Team) (w : Wb) (more : Bool) (x : DWord) : State :=
  let a := s.areaPa tm
  let tid := w.tid.getD 0
  let b := 0x1000 + 128 * tid
  match w.reg with
  | .k n =>
    let bitsNow := s.mem.num (a + 0x3A0) 8
    s.putArea tm [(0x100 + 8 * n, 8, x.toNat), (0x3A0, 8, if more then bitsNow else setBits bitsNow n 1 0)]
  | .kf => s.putArea tm [(0x1C, 4, x.toNat % 16)]
  | .v n => s.putArea tm [(0x21000 + ((tid / 32 * tm.tr.regs + n) * 32 + tid % 32) * 4, 4, x.toNat % 2 ^ 32)]
  | .t n =>
    if (tm.thread tid).kept (tm.stored - 1) then s.updThread t tid (fun th => { th with mid := th.mid.map (fun m => m.late n (x.setWidth 32)) })
    else s.putArea tm [(if n = 8 then b + 0xC else b + 0x10 + 4 * n, 4, x.toNat % 2 ^ 32)]
  | .p n => s.putArea tm [(b + 8, 4, setBits (s.mem.num (a + b + 8) 4) (16 + n) 1 (x.toNat % 2))]

/-- Every group of a team ends; its threads keep mid-run records (R352). A run of which only the trailer is left ends first. -/
def State.dissolve (s : State) (t : Nat) : State :=
  match s.team? t with
  | none => s
  | some tm =>
    let trailer (g : Group) : List Reg := match g.trl.bind wordInstr with
      | some (.runt c0 c1 c2 cnt) => ([c0, c1, c2].take cnt.toNat).map (fun x => .v x.toNat)
      | _ => []
    let s := tm.groups.foldl (fun s g => if g.2.body.length ≤ g.2.idx && !g.2.body.isEmpty then s.endRun t g.1 (trailer g.2) else s) s
    s.updTeam t (fun tm =>
      let tm := tm.groups.foldl (fun (tm : Team) g => g.2.tids.foldl (fun (tm : Team) tid => tm.updThread tid (fun th =>
        if g.2.body.isEmpty then th else { th with pc := g.2.hdr, mid := some (midOf th tid g.2 g.2.idx) })) tm) tm
      { tm with groups := [], threads := tm.threads.map (fun th => { th with held := false }) })

/-- A core that holds 48 parked teams is closed to admission (R28). -/
def State.noteFull (s : State) (core : Nat) : State :=
  if 48 ≤ (s.parkedOn core).length then s.updCore core (fun c => { c with full := true }) else s

/-- Parking (R27, R28, R370). A core that holds 48 parked teams parks a 49th: R22 gives no place for it, R27 and R346 park before they activate, and
the team keeps its slot (log 39). Since when the parked team has had a ready thread (R346) counts from the park on (log 39). -/
def State.park (s : State) (t : Nat) : State :=
  let s := ((s.dissolve t).storeArea t 0).updTeam t (fun tm =>
    { tm with active := false, pinned := [], refill := [], rotated := false, readySince := none })
  match s.team? t with
  | some tm => s.noteFull tm.core
  | none => s

-- Waits.

/-- The instruction a thread stands at inside a run. -/
def State.standsAt (s : State) (tm : Team) (tid : Nat) : Option (DWord × Instr) :=
  match tm.groupOf tid with
  | some (_, g) => ((g.body[g.idx]?).bind wordInstr).map (fun i => (g.addr, i))
  | none =>
    match (tm.thread tid).mid with
    | none => none
    | some m =>
      match s.fetchWord tm.xlat m.hdr with
      | .error _ => none
      | .ok w => match s.fetchRun tm.xlat m.hdr (bits w.toNat 11 7) (bit w.toNat 12) with
        | .error _ => none
        | .ok (body, _, _) => ((body[m.off]?).bind wordInstr).map (fun i => (bodyAddr m.hdr body m.off, i))

/-- A register operand as it stands. -/
def Team.codeVal (tm : Team) (tid code : Nat) : Nat :=
  if code = 122 then tid else ((codeReg code).map (fun r => (tm.reg tid r).toNat)).getD 0

/-- A thread's own PWAIT would return (R250); none for another instruction. -/
def State.pwaitOver (s : State) (t : Nat) (tm : Team) (tid : Nat) : Instr → Option Bool
  | .pwaitS _ k v => some (match s.scrAt t ((tm.kreg k.toNat).toNat % 2 ^ 32) 16 with
      | none => true
      | some (u, off) => (Phase.ofNat (s.phGet (.scr u off))).past (tm.codeVal tid v.toNat))
  | .pwaitG _ k v => some (match s.xlate tm.xlat true (tm.kreg k.toNat) .rmw with
      | .error _ => true
      | .ok e => (Phase.ofNat (s.phGet (.mem (paOf e (tm.kreg k.toNat)) e))).past (tm.codeVal tid v.toNat))
  | .pwaitCnt _ c m => some (decide (FMap.getD tm.cnt c.toNat 0 ≤ m.toNat))
  | .pwaitFence _ v => some (fenceDone (tm.thread tid) (tm.codeVal tid v.toNat))
  | .pwaitLock _ v => some (s.lockDone t tid (tm.codeVal tid v.toNat))
  | _ => none

/-- The thread is blocked in PWAIT: its own wait, or that of another thread of its group (R251). -/
def State.blocked (s : State) (t : Nat) (tm : Team) (tid : Nat) : Bool :=
  (tm.thread tid).pwait &&
  match s.standsAt tm tid with
  | none => false
  | some (_, i) =>
    match tm.groupOf tid with
    | some (_, g) => g.tids.any (fun x => s.pwaitOver t tm x i == some false)
    | none => s.pwaitOver t tm tid i == some false

/-- The thread waits at a cross-thread instruction, or at the header of a run that holds one it has reached (R193). -/
def State.waitsCross (s : State) (tm : Team) (tid : Nat) : Bool :=
  let th := tm.thread tid
  let waits (a : DWord) : Bool := (th.arrived a).isSome && !tm.complete (tid / 32) a
  match s.standsAt tm tid with
  | some (a, _) =>
    -- a thread whose crew has executed waits there while its group waits for another crew
    let mates := ((tm.groupOf tid).map (fun g => g.2.tids)).getD [tid]
    th.stays a && mates.any (fun x => ((tm.thread x).arrived a).any (fun r => !r.left) && !tm.complete (x / 32) a)
  | none =>
    match s.fetchWord tm.xlat th.pc with
    | .error _ => false
    | .ok w => match s.fetchRun tm.xlat th.pc (bits w.toNat 11 7) (bit w.toNat 12) with
      | .error _ => false
      | .ok (body, _, _) => (crossAddrs th.pc body).any waits

/-- A team meets the first case of R27: every live thread waits, at least one in PWAIT. -/
def State.allWait (s : State) (t : Nat) (tm : Team) : Bool :=
  tm.live.any (s.blocked t tm) && tm.live.all (fun tid => s.blocked t tm tid || s.waitsCross tm tid)

/-- A parked team has a ready thread (R27, R29), as the end of the last clock found (R42): one that would issue if the team were active. -/
def Team.parkedReady (tm : Team) : Bool := tm.readySince.isSome

-- Placement.

/-- The accumulator units of a team are cleared at placement (log 7). -/
def State.clearAcc (s : State) (tm : Team) : State :=
  s.updCore tm.core (fun c => (List.range (tm.tr.acc / 64)).foldl (fun (c : CoreSt) i => c.clearUnit (tm.accBase + i)) c)

/-- A team put on a core (R22-R24, R28, R33, R344): slot, accumulator rows and, for a new one, a save area; active if it can be. -/
def State.putTeam (s : State) (t : Nat) (tm : Team) (core : Nat) (new : Bool) : Option State :=
  match s.freeSlotOn core, s.freeAccOn core tm.tr, (if new then s.freeArea (core / 192) else some tm.area) with
  | some slot, some accBase, some area =>
    let base := s.roomActive core tm.ctx tm.standing tm.tr
    let c := s.ctx tm.ctx
    let tm := { tm with core, slot, accBase, area, active := false, life := .live, proceeds := false, readySince := some s.clock }
    let tm := if new then { tm with eff := c, ival := c.sr.promote.toNat % 128, placedAt := s.clock } else tm
    let s := if new then s.updDie (core / 192) (fun d => { d with areas := insertSorted area d.areas }) else s
    let s := ({ s with teams := FMap.set s.teams t tm }).clearAcc tm
    match base with
    | some b => some (s.activate t b false)
    | none => some (s.noteFull core)
  | _, _, _ => none

/-- A new team's threads (R33). -/
def freshThreads (tr : TeamRec) : List Thread := List.replicate tr.threads { pc := tr.entry, npc := tr.entry }

/-- A team leaves: what R38 and R351 release. Its core is open to admission again; R28 names retirement and saving, and the model takes a discard
with them, as it frees the same reservations (log 39). -/
def State.releaseTeam (s : State) (t : Nat) : State :=
  match s.team? t with
  | none => s
  | some tm =>
    let mine (ids : List (Nat × Nat)) : List (Nat × Nat) := ids.filter (fun e => e.1 != t)
    let locks := (s.units.locks.map (fun l => (l.1, l.2.filter (fun e => e.1 != t)))).filter (fun l => !l.2.isEmpty)
    let u := { s.units with
      defer := (s.units.defer.map (fun d => (d.1, mine d.2))).filter (fun d => !d.2.isEmpty)
      locks
      heldArr := s.units.heldArr.filter (fun e => !(decide (2 ^ 60 + t * 2 ^ 20 ≤ e.1) && decide (e.1 < 2 ^ 60 + (t + 1) * 2 ^ 20))) }
    let s := { s with units := u, teams := FMap.erase s.teams t }
    let s := s.updCore tm.core (fun c => { c.freeSlots t with full := false })
    s.updDie tm.dieOf (fun d => { d with areas := d.areas.filter (· != tm.area), pend := d.pend.filter (· != t) })

end Sys2Proof.Machine
end

