-- ==== Sys2Proof/Machine/Standing.lean ====
section
/-!
DEFINITION. Standing sets (R310-R337): descriptors and records, raises and their absorption, commit, reading, start and stop, the
choice of cells, and the records of quiescence.
-/

namespace Sys2Proof.Machine

-- Sets and cells.

/-- What an operation on a set, a launch or a queue comes to: done with the words of its token, a failed translation, a wait, or a
data error (structure, VA and physical address) in what it reads of its own: its record, table or list (R364). -/
inductive Res where
  | done (s : State) (v : List Nat)
  | fail (va : DWord) (write : Bool)
  | wait (s : State)
  | bad (s : State) (b : Nat × DWord × Nat)

/-- A descriptor's fields and the team shape it declares (R310), started by a die for a context. -/
def SSet.ofBytes (bs : List Byte) (va : DWord) (pa ctx die : Nat) (priv : Bool) : SSet :=
  let x := leNat bs
  let w (h l : Nat) : DWord := BitVec.ofNat 64 (bits x h l)
  let thr := bits x 575 544
  { va, pa, ctx, priv, die, tr := TeamRec.ofBytes (bs.take 64), n := bits x 536 512, thr := if thr = 2 ^ 31 then 0 else BitVec.ofNat 32 thr
    add := bit x 576, cls := bits x 589 584, look := bits x 596 592, vector := bits x 607 600, vsize := bits x 639 608
    table := w 703 640, vbase := w 767 704, adj := w 831 768, tags := w 895 832, pref := w 959 896, qrec := w 1023 960, phase := w 1087 1024
    watch := [], cmask := BitVec.ofNat 192 (bits x 1407 1216), rseq := bits x 1535 1472 }

/-- The limits of R310 and R26; `wa` and `wn` are the watch table's address and entries. -/
def SSet.legal (e : SSet) (wa wn : Nat) : Bool :=
  e.tr.legal && e.va.toNat % 256 == 0 && decide (1 ≤ e.n) && decide (e.n ≤ 2 ^ 24) && decide (e.thr.toNat < 0x7F800000) && decide (e.look ≤ 16) &&
  e.vsize % 64 == 0 && decide (e.vsize ≤ 65536) && e.table.toNat % 32 == 0 && e.vbase.toNat % 64 == 0 && e.tags.toNat % 16 == 0 &&
  e.pref.toNat % 32 == 0 && e.qrec.toNat % 64 == 0 && wa % 16 == 0 && decide (wn ≤ 4096)

/-- combine (R315). -/
def SSet.combine (e : SSet) (x y : Word) : Word :=
  if e.add then BitVec.ofNat 32 (fAdd f32 .rne x.toNat y.toNat).1 else if x.toNat ≤ y.toNat then y else x

/-- A cell of a set; its shadow and current buffer index. -/
def SSet.cell (e : SSet) (c : Nat) : Cell := FMap.getD e.cells c {}
def Cell.shadow (c : Cell) : Nat := if c.cur then c.bufa else c.bufb
def Cell.current (c : Cell) : Nat := if c.cur then c.bufb else c.bufa
def SSet.setCell (e : SSet) (c : Nat) (x : Cell) : SSet := { e with cells := FMap.set e.cells c x.norm }

/-- The VA of a value buffer. -/
def SSet.bufVa (e : SSet) (n : Nat) : DWord := e.vbase + BitVec.ofNat 64 (n * e.vsize)

/-- No queued cell, no running cell, no raise in flight (R329). -/
def SSet.quiet (e : SSet) : Bool := e.raises.isEmpty && e.cells.all (fun c => c.2.state == 0 || c.2.state == 4)

/-- The absorbed sequence (R316). -/
def SSet.aseq (e : SSet) : Nat :=
  match e.raises with
  | [] => e.rseq
  | r :: _ => r.seq - 1

/-- A raise would make its cell queued (R315). -/
def SSet.queues (e : SSet) (r : Raise) : Bool :=
  let c := e.cell r.cell
  c.state == 0 && decide (e.thr.toNat < (e.combine c.res r.amt).toNat)

/-- The absorption of a raise (R315), with the cell's exclusion tags for when it becomes queued. -/
def SSet.absorb (e : SSet) (r : Raise) (tags : List Nat) : SSet :=
  let c := e.cell r.cell
  let c' : Cell :=
    if c.state = 2 then { c with inacc := e.combine c.inacc r.amt }
    else if e.queues r then { c with res := e.combine c.res r.amt, state := 1, age := r.seq, tags }
    else { c with res := e.combine c.res r.amt }
  e.setCell r.cell c'

/-- How the residual dispatch unit translates for a set. -/
def State.setXlat (s : State) (e : SSet) : Xlat := ⟨e.die, e.ctx, (s.ctx e.ctx).root.toNat, e.priv⟩

/-- What keeps a read of a side table from its bytes: a failed translation, or a grant that it waits for. -/
inductive Side where
  | fail (va : DWord)
  | wait (pa : Nat)
  deriving DecidableEq, Repr

/-- What an operation that meets it comes to. -/
def State.sideRes (s : State) (e : Side) : Res :=
  match e with
  | .fail va => .fail va false
  | .wait pa => .wait (s.askGrant pa false)

/-- The machine-check interrupts of a read that has been made: pages without a route, a data error (R364, R387). -/
def State.vseen (s : State) (x : Xlat) (va : DWord) (n : Nat) : State :=
  match s.vget x va n with
  | .data str _ pa => (s.vroute x va n).contextMc x.die str x.ctx pa
  | _ => s.vroute x va n

/-- Where a cell's exclusion tags stand (R313). -/
def SSet.tagVa (e : SSet) (c : Nat) : DWord := e.tags + BitVec.ofNat 64 (16 * c)

/-- A cell's exclusion tags (R313); a data error reads as an empty entry. -/
def State.tagsOf (s : State) (x : Xlat) (e : SSet) (c : Nat) : Except Side (List Nat) :=
  if e.tags = 0 then .ok []
  else match s.vget x (e.tagVa c) 16 with
    | .ok bs => .ok ((List.range 4).map (fun i => leNat ((bs.drop (4 * i)).take 4)))
    | .fail va => .error (.fail va)
    | .wait pa => .error (.wait pa)
    | .data _ _ _ => .ok []

/-- What reading a cell's tags raises. -/
def State.sawTags (s : State) (x : Xlat) (e : SSet) (c : Nat) : State := if e.tags = 0 then s else s.vseen x (e.tagVa c) 16

/-- What reading the tags of the cells that a set's raises in flight make queued raises (R313, R315). -/
def State.sawRaises (s : State) (x : Xlat) (e : SSet) : State :=
  (e.raises.foldl (fun (p : State × SSet) r =>
    if p.2.queues r then (p.1.sawTags x p.2 r.cell, p.2.absorb r []) else (p.1, p.2.absorb r [])) (s, e)).1

/-- Every raise in flight absorbed in order. -/
def State.absorbAll (s : State) (x : Xlat) (e : SSet) : Except Side SSet :=
  match e.raises.foldl (fun (acc : Except Side SSet) r =>
    match acc with
    | .error va => .error va
    | .ok e =>
      if e.queues r then
        match s.tagsOf x e r.cell with
        | .error va => .error va
        | .ok tags => .ok (e.absorb r tags)
      else .ok (e.absorb r [])) (.ok e) with
  | .error va => .error va
  | .ok e => .ok { e with raises := [] }

/-- The started set that a descriptor VA names, for an instruction or a command (R330). -/
def State.findSet (s : State) (x : Xlat) (va : DWord) : Except DWord (Option (Nat × SSet)) :=
  match s.xlate x false va .read with
  | .error _ => .error va
  | .ok e => .ok (s.setAt (paOf e va))

-- SRAISE and SQUERY.

/-- SRAISE and the host's RAISE (R333): sequence, then status. -/
def State.opRaise (s : State) (x : Xlat) (va : DWord) (cell amt : Nat) : Res :=
  match s.findSet x va with
  | .error a => .fail a false
  | .ok none => .done s [0, 5]
  | .ok (some (sid, e)) =>
    if e.stopping then .done s [0, 5]
    else if e.n ≤ cell then .done s [0, 6]
    else .done (s.addRaise sid cell (cleanAmt (BitVec.ofNat 32 amt)).1) [e.rseq + 1, 0]

/-- SQUERY (R334). -/
def State.opQuery (s : State) (x : Xlat) (va : DWord) (cell : Nat) : Res :=
  match s.findSet x va with
  | .error a => .fail a false
  | .ok none => .done s [0, 5 * 2 ^ 32, 0]
  | .ok (some (_, e)) =>
    if e.stopping then .done s [0, 5 * 2 ^ 32, 0]
    else if e.n ≤ cell then .done s [0, 6 * 2 ^ 32, 0]
    else
      let c := e.cell cell
      .done s [c.live.toNat + e.maxLive.toNat * 2 ^ 32, c.ver.toNat + c.state * 2 ^ 40 + b2n e.quiet * 2 ^ 43, e.aseq]

-- SCOMMIT.

/-- A data error that an operation's read of n bytes of scratch meets: structure, VA and window address (R364, R382). -/
def State.scrHit (s : State) (u off n : Nat) : Option (Nat × DWord × Nat) := (s.scrErrorAt u off n).map (fun a => (3, 0, s.scrPa u a))

/-- The raise list of SCOMMIT (R332): no list when it is malformed, and the data error that its read meets (R364). -/
def State.raiseList (s : State) (t : Nat) (w0 w1 : Nat) : Except (Option (Nat × DWord × Nat)) (List (Nat × Word)) :=
  let a := bits w0 31 0
  let n := bits w0 42 32
  if a % 8 ≠ 0 || 1024 < n || bits w0 63 44 ≠ 0 || bits w1 63 24 ≠ 0 then .error none
  else match s.scrAt t a (8 * n) with
    | none => .error none
    | some (u, off) =>
      match s.scrHit u off (8 * n) with
      | some b => .error (some b)
      | none =>
        let es := (List.range n).map (fun i => leNat (s.scrGet u (off + 8 * i) 8))
        if es.any (fun x => bits x 31 24 != 0) then .error none
        else .ok (es.map (fun x => (bits x 23 0, BitVec.ofNat 32 (bits x 63 32))))

/-- The dependents of a cell (R313); a data error reads as an empty entry. -/
def State.dependents (s : State) (x : Xlat) (e : SSet) (c : Nat) : Except Side (List Nat) :=
  match s.vget x (e.adj + BitVec.ofNat 64 (4 * c)) 8 with
  | .fail va => .error (.fail va)
  | .wait pa => .error (.wait pa)
  | .data _ _ _ => .ok []
  | .ok bs =>
    let lo := leNat (bs.take 4)
    let n := leNat (bs.drop 4) - lo
    (match s.vget x (e.adj + BitVec.ofNat 64 (4 * (e.n + 1) + 4 * lo)) (4 * n) with
      | .fail va => .error (.fail va)
      | .wait pa => .error (.wait pa)
      | .data _ _ _ => .ok []
      | .ok cs => .ok (((List.range n).map (fun i => leNat ((cs.drop (4 * i)).take 4))).filter (fun d => decide (d < e.n))))

/-- What reading a cell's dependents raises: the row's bounds, then its columns (R364, R387). -/
def State.sawDependents (s : State) (x : Xlat) (e : SSet) (c : Nat) : State :=
  let row := e.adj + BitVec.ofNat 64 (4 * c)
  match s.vget x row 8 with
  | .ok bs =>
    let lo := leNat (bs.take 4)
    (s.vseen x row 8).vseen x (e.adj + BitVec.ofNat 64 (4 * (e.n + 1) + 4 * lo)) (4 * (leNat (bs.drop 4) - lo))
  | _ => s.vseen x row 8

/-- The cell's own part of the commit of R327, with the raises that it makes in flight. -/
def SSet.committed (e : SSet) (cell : Nat) (res : Word) (raises : List (Nat × Word)) (tags : List Nat) : SSet :=
  let c := e.cell cell
  let r := e.combine res c.inacc
  let q := decide (e.thr.toNat < r.toNat)
  let first := if raises.isEmpty then e.rseq else e.rseq + 1
  let c' : Cell := { c with cur := !c.cur, ver := c.ver + 1, res := r, inacc := 0, state := b2n q, age := if q then first else c.age, tags }
  let new := (raises.zip (List.range raises.length)).map (fun p => (⟨e.rseq + 1 + p.2, p.1.1, (cleanAmt p.1.2).1⟩ : Raise))
  let e := e.setCell cell c'
  { e with raises := e.raises ++ new, rseq := e.rseq + raises.length, ncommit := e.ncommit + 1, due := true }

/-- A commit with this residual queues its cell anew. -/
def SSet.requeues (e : SSet) (cell : Nat) (res : Word) : Bool := decide (e.thr.toNat < (e.combine res (e.cell cell).inacc).toNat)

/-- The commit of R327: the cell's new state, then its raises, absorbed in order. -/
def State.commitCell (s : State) (x : Xlat) (e : SSet) (cell : Nat) (res : Word) (raises : List (Nat × Word)) : Except Side SSet :=
  match (if e.requeues cell res then s.tagsOf x e cell else .ok []) with
  | .error va => .error va
  | .ok tags => s.absorbAll x (e.committed cell res raises tags)

/-- Tags of the running cells of a set. -/
def SSet.running (e : SSet) : List Nat := (e.cells.filter (fun c => c.2.state == 2)).flatMap (fun c => c.2.tags)

/-- The eligible cells of a set on a die (R318). -/
def SSet.eligible (e : SSet) (die : Nat) : List (Nat × Cell) :=
  let busy := e.running
  e.cells.filter (fun c => cellDie e.n c.1 == die && c.2.state == 1 && !c.2.tags.any (fun t => t != 0 && busy.contains t))

-- The first candidates (R321).

/-- The first L candidates of a set on a die, by the order of R319. -/
def SSet.firsts (e : SSet) (die : Nat) : List Nat :=
  ((sortNat ((e.eligible die).map (fun c => (2 ^ 32 - 1 - c.2.res.toNat) * 2 ^ 24 + c.1))).take e.look).map (· % 2 ^ 24)

/-- A region read into L2, as PREF reads (R243, R321): page by page, the translation is kept and a missing grant asked for; pages that do not
translate are skipped; a page without a route raises its machine check (R387). -/
def State.prefetchRange (s : State) (x : Xlat) (va : DWord) (n : Nat) : State :=
  (List.range (if n = 0 then 0 else (va.toNat % 4096 + n + 4095) / 4096)).foldl (fun (s : State) i =>
    let a : DWord := if i = 0 then va else BitVec.ofNat 64 ((va.toNat / 4096 + i) * 4096)
    match s.xlate x false a .read with
    | .error _ => s
    | .ok e =>
      let s := (s.fillTlb x a e).noRoute x.die x.ctx (paOf e a)
      if s.needsGrant (some e) (paOf e a) false then s.askGrant (paOf e a) false else s) s

/-- The prefetch regions of a cell are read (R313, R321); whether they have been: a read of the entry may wait for a grant. An entry with a nonzero
bit where R313 asks for zeros, in either region, is treated as empty. One whose own page does not translate is skipped as the faults of the
prefetch are (R321), although R394 parks the reads of side tables; so is one with a data error (log 42). -/
def State.prefetchCell (s : State) (x : Xlat) (e : SSet) (c : Nat) : State × Bool :=
  match s.vget x (e.pref + BitVec.ofNat 64 (32 * c)) 32 with
  | .wait pa => (s.askGrant pa false, false)
  | .ok bs =>
    let s := s.vroute x (e.pref + BitVec.ofNat 64 (32 * c)) 32
    let w := leNat bs
    if bits w 127 96 ≠ 0 || bits w 255 224 ≠ 0 then (s, true)
    else ((s.prefetchRange x (BitVec.ofNat 64 (bits w 63 0)) (bits w 95 64)).prefetchRange x (BitVec.ofNat 64 (bits w 191 128)) (bits w 223 192), true)
  | .fail _ => (s, true)
  | .data _ _ _ => (s, true)

/-- The cells that have entered the first L candidates of a set on their die have their prefetch regions read, once (R321). Each change of a cell
asks this, and each clock again, for the cells whose entry waits for a grant. -/
def State.lookAhead (s : State) (sid : Nat) : State :=
  match FMap.get? s.sets sid with
  | none => s
  | some e =>
    if e.look = 0 || e.pref = 0 || e.stopping then s
    else
      let now := [0, 1, 2, 3].flatMap e.firsts
      let r := (e.toRead ++ now.filter (fun c => !e.front.contains c)).foldl (fun (acc : State × List Nat) c =>
        match acc.1.prefetchCell (s.setXlat e) e c with
        | (s, true) => (s, acc.2)
        | (s, false) => (s, acc.2 ++ [c])) (s, [])
      { r.1 with sets := FMap.upd r.1.sets sid (fun e => { e with front := now, toRead := r.2 }) }

/-- ENGINE_COMPLETE (R121, R235, R292, R295, R299): an operation whose pieces have all landed and whose bytes are counted is finished (R237); a
matrix operation acts on its unit when its turn comes; a cell whose pin an SREAD releases may become a candidate (R321). -/
def execEngineComplete (op : Nat) (s : State) : Out :=
  .next (match s.op? op with
  | none => s
  | some o =>
    if o.done || !o.landed || !s.matrixTurn op o then s
    else if o.counts then s.updOp op (fun o => { o with chunks := Chunk.counting o.uncounted })
    else match o.kind with
      | .reduceOrd _ _ _ _ => s
      | .record e _ => if e.direct then s else s.finish op o
      | .mma unit ival zi fin _ a bs m =>
        if s.ops.any (fun e => decide (e.1 < op) && e.2.core == o.core && !e.2.done && (match e.2.kind with
            | .mma _ _ _ _ _ _ _ _ => true
            | _ => false)) then s
        else
          let bad := if zi then none else (s.core o.core).accBad.find? (fun h => h / 256 == unit)
          let (k, fl) := (s.core o.core).matmul unit ival zi fin a bs m
          let o := match bad with
            | some h => o.hit (5, 0, s.windowPa 3 o.core (h * 64))
            | none => o
          (s.updCore o.core (fun _ => k)).finish op { o with flags := o.flags ||| fl }
      | .azero first n => (s.updCore o.core (fun k => (List.range n).foldl (fun (k : CoreSt) i => k.clearUnit (first + i)) k)).finish op o
      | .sread sid _ _ _ _ _ => (s.finish op o).lookAhead sid
      | _ => s.finish op o)

/-- SCOMMIT by a team (R332): the token's word; flags are the caller's. A cell that is no longer running is not the team's (R322, R337). -/
def State.opCommit (s : State) (x : Xlat) (t : Nat) (a w0 w1 : Nat) : Res :=
  let st (n : Nat) : Res := .done s [n * 2 ^ 32, 0]
  match s.team? t with
  | none => st 1
  | some tm =>
    match tm.cell with
    | none => st 1
    | some (sid, cell) =>
      if tm.committed then st 2
      else match FMap.get? s.sets sid with
        | none => st 1
        | some e =>
          let dep := bit w0 43
          if (e.cell cell).state ≠ 2 then st 1
          else if bits w1 23 0 ≠ (e.cell cell).shadow then st 3
          else match s.raiseList t w0 w1 with
            | .error none => st 4
            | .error (some b) => .bad s b
            | .ok l =>
              if dep && e.adj == 0 then st 4
              else if l.any (fun r => decide (e.n ≤ r.1)) then st 6
              else match (if dep then s.dependents x e cell else .ok []) with
                | .error r => s.sideRes r
                | .ok ds =>
                  let amt : Word := BitVec.ofNat 32 (a / 2 ^ 32)
                  let res := cleanAmt (BitVec.ofNat 32 (a % 2 ^ 32))
                  let rs := l ++ ds.map (fun d => (d, amt))
                  match s.commitCell x e cell res.1 rs with
                  | .error r => s.sideRes r
                  | .ok e' =>
                    let nv := res.2 || (dep && (cleanAmt amt).2) || l.any (fun r => (cleanAmt r.2).2)
                    let s := if dep then s.sawDependents x e cell else s
                    let s := if e.requeues cell res.1 then s.sawTags x e cell else s
                    let s := s.sawRaises x (e.committed cell res.1 rs [])
                    let s := ({ s with sets := FMap.set s.sets sid e' }).updTeam t (fun tm => { tm with committed := true })
                    .done (s.lookAhead sid) [((e.cell cell).ver + 1).toNat + min rs.length (2 ^ 24 - 1) * 2 ^ 40, b2n nv]

-- SSTART.

/-- A write of the residual dispatch unit at its home; it raises no watch. -/
def State.unitWrite (s : State) (x : Xlat) (va : DWord) (bs : List Byte) : Except (Option DWord) State :=
  match s.xlate x false va .write with
  | .error _ => .error (some va)
  | .ok e =>
    let pa := paOf e va
    if s.homeReady (some e) pa bs.length true then .ok ((s.homeWriteN { watch := false, pte := some e, ctx := x.ctx } pa bs (bs.length / 128 + 2)).noRoute x.die x.ctx pa)
    else .error none

/-- Such a write, or nothing when its page has been declared unserviceable (R394). -/
def State.deadWrite (s : State) (dead : List Nat) (x : Xlat) (va : DWord) (bs : List Byte) : Except (Option DWord) State :=
  match s.unitWrite x va bs with
  | .error (some a) => if dead.contains (a.toNat / 4096) then .ok s else .error (some a)
  | r => r

/-- The grant that a write of the unit waits for is asked for (R98). -/
def State.unitAsk (s : State) (x : Xlat) (va : DWord) : State :=
  match s.pte? x va with
  | some e => if s.needsGrant (some e) (paOf e va) true then s.askGrant (paOf e va) true else s
  | none => s

/-- A cell as SSTART reads it (R335). -/
def Cell.start (thr : Word) (x : Nat) : Cell :=
  let res := (cleanAmt (BitVec.ofNat 32 (bits x 31 0))).1
  let c : Cell :=
    { res, ver := BitVec.ofNat 32 (bits x 95 64), bufa := bits x 119 96, bufb := bits x 143 120, cur := bit x 144, lastc := bits x 233 224, lastv := bit x 234 }
  if thr.toNat < res.toNat then { c with state := 1 } else { c with age := bits x 223 160 }

/-- The watch entries of a set (R313, R317): physical page, cell, amount. -/
def State.watchTable (s : State) (x : Xlat) (n : Nat) (bs : List Byte) : Except DWord (List (Nat × Nat × Word)) :=
  (List.range (bs.length / 16)).foldl (fun (acc : Except DWord (List (Nat × Nat × Word))) i =>
    match acc with
    | .error va => .error va
    | .ok l =>
      let w := leNat ((bs.drop (16 * i)).take 16)
      let va : DWord := BitVec.ofNat 64 (bits w 63 0)
      if bits w 11 0 ≠ 0 || bits w 95 88 ≠ 0 || n ≤ bits w 87 64 then .ok l
      else match s.pte? x va with
        | none => .error va
        | some e => if pteWatch e then .ok (l ++ [(paOf e va / 4096, bits w 87 64, BitVec.ofNat 32 (bits w 127 96))]) else .ok l) (.ok [])

/-- The cells of a set read at its start, tags included; a cell whose record has a data error is faulted (R322). -/
def State.startCells (s : State) (x : Xlat) (e : SSet) : Except Res (FMap Cell × List (Nat × Nat)) :=
  (List.range e.n).foldl (fun (acc : Except Res (FMap Cell × List (Nat × Nat))) c =>
    match acc with
    | .error r => .error r
    | .ok (m, bad) =>
      match s.vget x (e.table + BitVec.ofNat 64 (32 * c)) 32 with
      | .fail va => .error (.fail va false)
      | .wait pa => .error (.wait (s.askGrant pa false))
      | .data str _ pa => .ok (m ++ [(c, { state := 4 })], bad ++ [(str, pa)])
      | .ok bs =>
        let cell := Cell.start e.thr (leNat bs)
        if cell.state = 0 then .ok (m ++ [(c, cell)], bad)
        else match s.tagsOf x e c with
          | .error r => .error (s.sideRes r)
          | .ok tags => .ok (m ++ [(c, { cell with tags })], bad)) (.ok ([], []))

/-- What SSTART reads of a set's tables: the cells, the tags of the queued ones, the watches (R335). Pages without a route raise the machine check
(R387). -/
def State.sawStart (s : State) (x : Xlat) (e : SSet) (cells : FMap Cell) (wa : DWord) (wn : Nat) : State :=
  let tables := (s.vroute x wa (16 * wn)).vroute x e.table (32 * e.n)
  if e.tags = 0 then tables else (cells.filter (fun c => c.2.state == 1)).foldl (fun (s : State) c => s.vseen x (e.tagVa c.1) 16) tables

/-- A started set takes its id (R335); a write of its descriptor fields that was declared unserviceable is dropped (R394). -/
def State.begin (s : State) (x : Xlat) (e : SSet) (cells : FMap Cell) (bad : List (Nat × Nat)) (watch : List (Nat × Nat × Word)) (dead : List Nat) : Res :=
  match (List.range 256).find? (fun n => (FMap.get? s.sets n).isNone) with
  | none => .done s [7 * 2 ^ 32]
  | some sid =>
    match s.deadWrite dead x (e.va + 176) [BitVec.ofNat 8 sid, 1] with
    | .error (some va) => .fail va true
    | .error none => .wait (s.unitAsk x (e.va + 176))
    | .ok s =>
      match s.deadWrite dead x (e.va + 192) (natLe 8 0) with
      | .error (some va) => .fail va true
      | .error none => .wait (s.unitAsk x (e.va + 192))
      | .ok s =>
        let s := bad.foldl (fun (s : State) b => s.contextMc e.die b.1 e.ctx b.2) s
        .done (({ s with sets := FMap.set s.sets sid { e with cells, watch, due := true } }).lookAhead sid) [sid]

/-- A descriptor is in memory of this package, as R310 asks. -/
def State.ownMem (s : State) (pa : Nat) : Bool := isMem pa && !s.foreign pa

/-- SSTART and START_SET (R335). A set is started already when it is one of this package's, or when its run bit says so; a descriptor that is not in
this package's memory has status shape, since R310 asks for it (log 42). -/
def State.opStart (s : State) (x : Xlat) (va : DWord) (dead : List Nat) : Res :=
  if !(s.ctx x.ctx).v then .done s [8 * 2 ^ 32]
  else match s.vget x va 256 with
  | .fail a => .fail a false
  | .wait pa => .wait (s.askGrant pa false)
  | .data str va pa => .bad s (str, va, pa)
  | .ok bs =>
    let s := s.vroute x va 256
    let pa := ((s.pte? x va).map (fun e => paOf e va)).getD 0
    let e := SSet.ofBytes bs va pa x.ctx x.die x.priv
    let wa := bits (leNat bs) 1151 1088
    let wn := bits (leNat bs) 1164 1152
    if !e.legal wa wn then .done s [8 * 2 ^ 32]
    else if (s.setAt pa).isSome || bit (leNat bs) 1416 || 256 ≤ s.sets.length then .done s [7 * 2 ^ 32]
    else if !s.ownMem pa then .done s [8 * 2 ^ 32]
    else match s.vget x (BitVec.ofNat 64 wa) (16 * wn) with
      | .fail a => .fail a false
      | .wait pa => .wait (s.askGrant pa false)
      | .data str va pa => .bad s (str, va, pa)
      | .ok ws =>
        match s.watchTable x e.n ws with
        | .error a => .fail a false
        | .ok watch =>
          match s.startCells x e with
          | .error r => r
          | .ok (cells, bad) => (s.sawStart x e cells (BitVec.ofNat 64 wa) wn).begin x e cells bad watch dead

-- SSTOP.

/-- SSTOP and STOP_SET (R336): a status at once, or none while the set stops. -/
def State.opStop (s : State) (x : Xlat) (va : DWord) (wb : Option (Nat × Nat)) (cmd : Option Nat) : Res :=
  match s.findSet x va with
  | .error a => .fail a false
  | .ok (some (sid, e)) =>
    if e.stopping then .done s [7 * 2 ^ 32]
    else .done { s with sets := FMap.set s.sets sid { e with stopping := true, stopWb := wb, stopCmd := cmd } } []
  | .ok none =>
    match s.vget x (va + 177) 1 with
    | .fail a => .fail a false
    | .wait pa => .wait (s.askGrant pa false)
    | .data str va pa => .bad s (str, va, pa)
    | .ok bs => .done s [(if (bs.headD 0).getLsbD 0 then 5 else 7) * 2 ^ 32]

-- The residual dispatch unit's own accesses (R394).

/-- An access of the unit waits for one that is parked for the same set. -/
def State.setHeld (s : State) (sid : Nat) : Bool := s.faults.any (fun f => f.2.agent == .set && f.2.op == sid)

/-- A failed access of the unit parks as one fault unit of the set's context, or waits for an entry. -/
def State.parkSet (s : State) (sid : Nat) (e : SSet) (va : DWord) : State :=
  if 64 ≤ s.queued none e.ctx then s
  else
    let (fid, s) := s.newId
    { s with faults := FMap.set s.faults fid { team := none, ctx := e.ctx, agent := .set, op := sid, va } }

/-- A page of a set whose parked access was declared unserviceable: reads give zero and writes are dropped until the unit's present
work is done. -/
def SSet.isDead (e : SSet) (va : DWord) : Bool := e.dead.contains (va.toNat / 4096)

/-- A write of the unit for a set: the new state, or the state in which it waits. -/
def State.setWrite (s : State) (sid : Nat) (e : SSet) (va : DWord) (bs : List Byte) : Except State State :=
  match s.unitWrite (s.setXlat e) va bs with
  | .ok s => .ok s
  | .error none => .error (s.unitAsk (s.setXlat e) va)
  | .error (some a) => if e.isDead a then .ok s else .error (s.parkSet sid e a)

/-- Writes of the unit, in order. -/
def State.setWrites (s : State) (sid : Nat) (e : SSet) (l : List (DWord × List Byte)) : Except State State :=
  l.foldl (fun (acc : Except State State) w =>
    match acc with
    | .error s => .error s
    | .ok s => s.setWrite sid e w.1 w.2) (.ok s)

/-- RAISE_ABSORB (R315): the oldest raise in flight is absorbed. -/
def execRaiseAbsorb (sid : Nat) (s : State) : Out :=
  .next (match FMap.get? s.sets sid with
  | none => s
  | some e =>
    match e.raises with
    | [] => s
    | r :: rest =>
      if s.setHeld sid || (e.out.isSome && !e.dead.isEmpty) then s
      else
        let put (s : State) (tags : List Nat) : State :=
          ({ s with sets := FMap.set s.sets sid { e.absorb r tags with raises := rest, dead := if e.queues r then [] else e.dead } }).lookAhead sid
        if e.queues r then
          match s.tagsOf (s.setXlat e) e r.cell with
          | .ok tags => put (s.sawTags (s.setXlat e) e r.cell) tags
          | .error (.wait pa) => s.askGrant pa false
          | .error (.fail va) => if e.isDead va then put s [] else s.parkSet sid e va
        else put s [])

-- Dispatch (R318-R324).

/-- The sets that a die may dispatch from. -/
def State.openSets (s : State) : List (Nat × SSet) := s.sets.filter (fun e => !e.2.stopping && !s.setHeld e.1 && (s.ctx e.2.ctx).v)

/-- The cell with the largest key, the lower index on ties (R319). -/
def bestCell (l : List (Nat × Cell)) : Option (Nat × Cell) := argMax (fun c => c.2.res.toNat) l

/-- The oldest-raised choice of a class (R323): the smallest age, then the larger key, the lower set id, the lower cell. -/
def oldestCell (l : List (Nat × Nat × Cell)) : Option (Nat × Nat × Cell) :=
  argMin (fun (c : Nat × Nat × Cell) => c.2.2.age * 2 ^ 32 + (2 ^ 32 - 1 - c.2.2.res.toNat)) l

/-- The cores of the home die that a set's mask admits (R310). -/
def SSet.cores (e : SSet) (die : Nat) : List Nat :=
  ((List.range 192).filter (fun i => e.cmask == 0 || e.cmask.getLsbD i)).map (fun i => die * 192 + i)

/-- The core for a dispatched team (R320): the last one when it can take the team, else another with room. -/
def State.standCore (s : State) (e : SSet) (die : Nat) (c : Cell) : Option Nat :=
  let ok := (e.cores die).filter (fun k => s.shareAllows k true)
  if c.lastv && ok.contains c.lastc && s.roomPlaced c.lastc e.tr then some c.lastc else s.coreFor ok e.ctx true e.tr

/-- The dispatch of a cell (R320); none when no core can take it. -/
def State.dispatch (s : State) (die sid : Nat) (e : SSet) (cell : Nat) (c : Cell) : Option State :=
  match s.standCore e die c with
  | none => none
  | some core =>
    let k : FMap DWord := [(0, e.va), (1, BitVec.ofNat 64 (cell + c.ver.toNat * 2 ^ 32)), (2, c.res.setWidth 64), (3, e.bufVa c.current),
      (4, e.bufVa c.shadow), (5, BitVec.ofNat 64 c.shadow)]
    let tm : Team := { ctx := e.ctx, core, slot := 0, cell := some (sid, cell), tr := e.tr, threads := freshThreads e.tr, k }
    let (t, s) := s.newId
    match s.putTeam t tm core true with
    | none => none
    | some s =>
      let e' := e.setCell cell { c with disp := c.res, res := 0, inacc := 0, state := 2, lastc := core, lastv := true }
      some ((({ s with sets := FMap.set s.sets sid { e' with due := true } }).lookAhead sid).acquire core)

/-- The credits of a die after a slot went to a class (R323). -/
def slotCredits (credit w : FMap Int) (classes : List Nat) (c : Nat) : FMap Int :=
  let up := classes.foldl (fun m x => FMap.set m x (FMap.getD m x 0 + FMap.getD w x 0)) credit
  FMap.set up c (FMap.getD up c 0 - classes.foldl (fun n x => n + FMap.getD w x 0) 0)

/-- The class that a slot goes to: the largest credit after the weights are added, the lower class on ties; a class of weight 0
only when no other has an eligible cell (R323). -/
def slotClass (credit w : FMap Int) (classes : List Nat) : Option Nat :=
  let heavy := classes.filter (fun c => FMap.getD w c 0 != 0)
  let pool := if heavy.isEmpty then classes else heavy
  pool.foldl (fun (best : Option Nat) c =>
    match best with
    | none => some c
    | some b => if FMap.getD credit b 0 + FMap.getD w b 0 < FMap.getD credit c 0 + FMap.getD w c 0 then some c else some b) none

/-- One try of a slot with the classes left (R323). Classes tried in vain are in E no more, so a class of weight 0 gets the slot when no cell of the
others can be placed (log 66). -/
def State.slotTry (s : State) (die : Nat) (w : FMap Int) : Nat → List Nat → Option State
  | 0, _ => none
  | fuel + 1, classes =>
    let d := s.die die
    match slotClass d.credit w classes with
    | none => none
    | some c =>
      let ss := s.openSets.filter (fun e => e.2.cls == c && !(e.2.eligible die).isEmpty)
      let n := FMap.getD d.nslots c 0 + 1
      let last := FMap.get? d.lastSet c
      let after := match last with
        | some l => ss.filter (fun (e : Nat × SSet) => decide (l < e.1)) ++ ss.filter (fun (e : Nat × SSet) => decide (e.1 ≤ l))
        | none => ss
      let pick : Option (Nat × SSet × Nat × Cell) :=
        if n % 8 = 0 then
          (oldestCell (ss.flatMap (fun (e : Nat × SSet) => (e.2.eligible die).map (fun x => (e.1, x.1, x.2))))).bind (fun p =>
            (FMap.get? s.sets p.1).map (fun (e : SSet) => (p.1, e, p.2.1, p.2.2)))
        else
          match after with
          | [] => none
          | e :: _ => (bestCell (e.2.eligible die)).map (fun (x : Nat × Cell) => (e.1, e.2, x.1, x.2))
      match pick.bind (fun p => (s.dispatch die p.1 p.2.1 p.2.2.1 p.2.2.2).map (fun s' => (p.1, s'))) with
      | some (sid, s') =>
        some (s'.updDie die (fun d =>
          { d with credit := slotCredits d.credit w classes c, nslots := FMap.set d.nslots c n,
                   lastSet := if n % 8 = 0 then d.lastSet else FMap.set d.lastSet c sid }))
      | none => State.slotTry s die w fuel (classes.filter (· != c))

/-- DISPATCH_SLOT (R323, R326). -/
def execDispatchSlot (die : Nat) (s : State) : Out :=
  .next (
    let s' := s.fwTake die
    let w : FMap Int := (s'.die die).w.map (fun e => (e.1, (e.2 : Int)))
    let classes := sortNat (dedup ((s'.openSets.filter (fun e => !(e.2.eligible die).isEmpty)).map (fun e => e.2.cls)))
    (s'.slotTry die w classes.length classes).getD s)

/-- A team's running cell is settled without a commit (R322): faulted after a retirement, queued after a discard. -/
def State.settleCell (s : State) (tm : Team) (fault : Bool) : State :=
  match tm.cell with
  | none => s
  | some (sid, c) =>
    if tm.committed then s
    else ({ s with sets := FMap.upd s.sets sid (fun e =>
      let x := e.cell c
      if x.state ≠ 2 then e
      else e.setCell c { x with res := e.combine x.disp x.inacc, inacc := 0, state := if fault then 4 else 1 }) }).lookAhead sid

/-- An uncorrectable data error in a half-line of the cell cache, by physical address over 64 (R322): the cells whose records lie there are
faulted, with the machine check of the context that started their set. A set that was quiescent gets no further record by it (R329). -/
def State.cellError (s : State) (h : Nat) : State :=
  s.sets.foldl (fun (s : State) p =>
    let e := p.2
    let at_ (c : Nat) : DWord := e.table + BitVec.ofNat 64 (32 * c)
    (e.cells.filter (fun c => c.2.state != 4 && (s.pte? (s.setXlat e) (at_ c.1)).any (fun t => paOf t (at_ c.1) / 64 == h))).foldl
      (fun (s : State) c =>
        (({ s with sets := FMap.upd s.sets p.1 (fun e => { e.setCell c.1 { c.2 with state := 4 } with due := e.due || !e.quiet }) }).lookAhead
          p.1).contextMc e.die 6 e.ctx (h * 64)) s) s

-- Quiescence and the end of a stop.

/-- The records of a set as they go back to memory; `stop` as SSTOP leaves them (R336). -/
def SSet.image (e : SSet) (stop : Bool) : List (DWord × List Byte) :=
  e.cells.map (fun c =>
    let x : Cell := if stop then
        { c.2 with inacc := 0, pina := 0, pinb := 0, state := if c.2.state = 1 || c.2.state = 3 then b2n (decide (e.thr.toNat < c.2.res.toNat)) else c.2.state }
      else c.2
    (e.table + BitVec.ofNat 64 (32 * c.1), natLe 32 x.record))

/-- The largest res of a cell that is not faulted, and the faulted cells (R329). -/
def SSet.maxRes (e : SSet) : Nat := e.cells.foldl (fun m c => if c.2.state != 4 then max m c.2.res.toNat else m) 0
def SSet.nfault (e : SSet) : Nat := (e.cells.filter (fun c => c.2.state == 4)).length

/-- A phase arrival of the device at a VA, for a translation (R247, R394): failed, waiting, or made. -/
def State.arriveAt (s : State) (x : Xlat) (va : DWord) : Except (Option DWord) State :=
  let va := va &&& ~~~ 0xF
  match s.xlate x false va .rmw with
  | .error _ => .error (some va)
  | .ok e =>
    if s.homeReady (some e) (paOf e va) 16 true then
      let p : PhAt := .mem (paOf e va) e
      let s := s.noRoute x.die x.ctx (paOf e va)
      if (Phase.ofNat (s.phGet p)).expa = 0 then .ok s else .ok (s.phUpdate p Phase.arrive x.ctx)
    else .error none

/-- Such an arrival, or none when its page has been declared unserviceable (R394). -/
def State.deadArrive (s : State) (dead : List Nat) (x : Xlat) (va : DWord) : Except (Option DWord) State :=
  match s.arriveAt x va with
  | .error (some a) => if dead.contains (a.toNat / 4096) then .ok s else .error (some a)
  | r => r

/-- Writes of the unit in order, up to one that must wait: the state, and the writes left. -/
def State.writesOut (s : State) (sid : Nat) (e : SSet) : List (DWord × List Byte) → State × List (DWord × List Byte)
  | [] => (s, [])
  | w :: rest =>
    match s.setWrite sid e w.1 w.2 with
    | .ok s => State.writesOut s sid e rest
    | .error s => (s, w :: rest)

/-- A set changed. -/
def State.updSet (s : State) (sid : Nat) (f : SSet → SSet) : State := { s with sets := FMap.upd s.sets sid f }

/-- What is left of a record that a set has begun to write: its writes, then the arrival at the phase object and the vector (R329). What waits or is
parked is kept and goes on later (R394). -/
def State.signalSet (s : State) (sid : Nat) (e : SSet) (l : List (DWord × List Byte)) : State :=
  let (s, rest) := s.writesOut sid e l
  let s := s.updSet sid (fun e => { e with out := some rest })
  if !rest.isEmpty then s
  else
    let fin (s : State) : State :=
      let s := s.updSet sid (fun e => { e with out := none, dead := [] })
      if e.vector = 0 then s else s.interrupt e.die 1 e.vector e.ctx sid
    if e.phase = 0 then fin s
    else match s.deadArrive e.dead (s.setXlat e) e.phase with
      | .ok s => fin s
      | .error none => s.unitAsk (s.setXlat e) e.phase
      | .error (some a) => s.parkSet sid e a

/-- The number of faulted cells as a record holds it; 2^24 of them do not fit its field, of which the spec says nothing, and give 2^24 - 1 (log 66). -/
def SSet.nfaultField (e : SSet) : Nat := min e.nfault (2 ^ 24 - 1)

/-- QUIESCENCE_RECORD (R329, R311): the record of a set that has become quiescent is made up, and the cells' records, the quiescence record and rgen
are written, then the phase object and the vector are signalled. A raise accepted from then on is for the next record. One that is accepted before,
after the set has become quiescent, leaves it not quiescent, so that this record waits and covers it; and a record that is owed when an SSTOP reaches
the set is not written: of both the spec says nothing (log 42). -/
def execQuiescenceRecord (sid : Nat) (s : State) : Out :=
  .next (match FMap.get? s.sets sid with
  | none => s
  | some e =>
    if s.setHeld sid then s
    else match e.out with
      | some l => s.signalSet sid e l
      | none =>
        if !e.due || !e.quiet || e.stopping then s
        else
          let g := e.rgen + 1
          let rec_ := g + e.aseq * 2 ^ 64 + e.ncommit * 2 ^ 128 + e.maxRes * 2 ^ 192 + sid * 2 ^ 224 + e.nfaultField * 2 ^ 232 + s.timeNs % 2 ^ 64 * 2 ^ 256
          let e' := { e with due := false, rgen := g, ncommit := 0 }
          (s.updSet sid (fun _ => e')).signalSet sid e' (e.image false ++ [(e.qrec, natLe 64 rec_), (e.va + 192, natLe 8 g)]))

/-- The commands and tokens that end with a set's stop. -/
def State.stopDone (s : State) (e : SSet) : State :=
  let s := match e.stopWb with
    | some (t, wb) => s.answer t wb (fun _ => 0)
    | none => s
  match e.stopCmd with
  | some q => { s with cmds := FMap.upd s.cmds q (fun c => { c with stage := 3, status := 0 }) }
  | none => s

/-- SSTOP_COMPLETE (R336). -/
def execSstopComplete (sid : Nat) (s : State) : Out :=
  .next (match FMap.get? s.sets sid with
  | none => s
  | some e =>
    if !e.stopping || !e.raises.isEmpty || e.out.isSome || e.cells.any (fun c => c.2.state == 2 || c.2.pina != 0 || c.2.pinb != 0) || s.setHeld sid then s
    else match s.setWrites sid e (e.image true ++ [(e.va + 184, natLe 8 e.rseq), (e.va + 177, [0])]) with
      | .error s => s
      | .ok s =>
        -- a team that has committed and still runs no longer names a set
        let teams := s.teams.map (fun (x : Nat × Team) =>
          (x.1, match x.2.cell with
            | some (i, c) => if i = sid then { x.2 with cell := some (2 ^ 32 + sid, c) } else x.2
            | none => x.2))
        ({ s with sets := FMap.erase s.sets sid, teams }).stopDone e)

end Sys2Proof.Machine
end

