-- ==== Sys2Proof/Machine/Launch.lean ====
section
/-!
DEFINITION. Grid launches and queues as instructions reach them (R338-R343, R354-R358), and the instructions of majors 0x3A and
0x3B: SCOMMIT, SRAISE, SQUERY, SSTART, SSTOP, GLAUNCH, QPUT.
-/

namespace Sys2Proof.Machine

-- Launches.

/-- A team of a launch is still to be placed. -/
def Launch.open (l : Launch) : Bool := !l.requeue.isEmpty || decide (l.next < l.total)

/-- What a launch asks for (R355, R380). -/
structure Ask where
  rec_ : DWord
  ext : Nat × Nat × Nat
  curve : Nat
  cohort : Nat
  prio : Nat
  table : DWord
  block : DWord := 0
  cmd : Option Nat := none

/-- A launch accepted or refused as a whole by a die (R26, R338, R341, R355, R375): identifier and status. The 64 bytes of the team record are
read where they lie, whatever the alignment of its VA (log 36). -/
def State.opLaunch (s : State) (x : Xlat) (a : Ask) : Res :=
  let st (n : Nat) : Res := .done s [0, n]
  if a.ext.1 = 0 || a.ext.2.1 = 0 || a.ext.2.2 = 0 || 48 < a.cohort || a.block.toNat % 32 ≠ 0 then st 5
  else if !(s.ctx x.ctx).v then st 8
  else match s.vget x a.rec_ 64 with
    | .fail va => .fail va false
    | .wait pa => .wait (s.askGrant pa false)
    | .data str va pa => .bad s (str, va, pa)
    | .ok bs =>
      let s := s.vroute x a.rec_ 64
      let tr := TeamRec.ofBytes bs
      if !tr.legal then st 8
      else match (if a.curve = 3 then s.vget x a.table 64 else .ok []) with
        | .fail va => .fail va false
        | .wait pa => .wait (s.askGrant pa false)
        | .data str va pa => .bad s (str, va, pa)
        | .ok tab =>
          let s := if a.curve = 3 then s.vroute x a.table 64 else s
          if a.curve = 3 && !curveTabOk tab then st 5
          else if 256 ≤ (s.launches.filter (fun l => l.2.die == x.die && l.2.open)).length then st 1
          else
            let order := curveOrder a.curve tab a.ext.1 a.ext.2.1
            let total := order.length * a.ext.2.2
            let num := (s.die x.die).nlaunch
            let (id, s) := s.newId
            let l : Launch := { ctx := x.ctx, die := x.die, prio := a.prio, tr, ext := a.ext, order, cohort := a.cohort, total, left := total,
                                num, block := a.block, cmd := a.cmd }
            let s := { s with launches := FMap.set s.launches id l }
            .done (s.updDie x.die (fun d => { d with nlaunch := num + 1 })) [num % 2 ^ 32, 0]

/-- The grid coordinates of the team at a curve index (R340). -/
def Launch.coord (l : Launch) (q : Nat) : Nat × Nat × Nat :=
  let p := (l.order[q % l.order.length]?).getD (0, 0)
  (p.1, p.2, q / l.order.length)

/-- The curve index of a team. -/
def Launch.index (l : Launch) (g : Nat × Nat × Nat) : Nat := g.2.2 * l.order.length + l.order.findIdx (fun p => p == (g.1, g.2.1))

/-- Cores of a cluster, numbered over the package (R12). -/
def clusterCores (cl : Nat) : List Nat := (List.range 48).map (fun i => cl * 48 + i)

/-- A team of a launch placed in a cluster (R344); its placement is an acquire (R357). -/
def State.putGrid (s : State) (lid : Nat) (l : Launch) (cl q : Nat) : Option State :=
  match s.coreFor (clusterCores cl) l.ctx false l.tr with
  | none => none
  | some core =>
    let tm : Team := { ctx := l.ctx, core, slot := 0, launch := some lid, grid := l.coord q, prio := l.prio, tr := l.tr, threads := freshThreads l.tr }
    let (t, s) := s.newId
    (s.putTeam t tm core true).map (fun s => s.acquire core)

/-- Several teams of a launch placed in one cluster, or none (R32, R343). -/
def State.putAll (s : State) (lid : Nat) (l : Launch) (cl : Nat) (qs : List Nat) : Option State :=
  qs.foldl (fun (acc : Option State) q => acc.bind (fun s => s.putGrid lid l cl q)) (some s)

/-- The clusters in the order in which a launch tries them (R343). -/
def Launch.clusters (l : Launch) : List Nat := (List.range 16).map (fun i => (l.cluster + i) % 16)

/-- The next team or cohort of a launch placed (R339, R342, R343); a team placed again stays with its cohort's cluster (R32). -/
def State.placeLaunch (s : State) (lid : Nat) (l : Launch) : Option State :=
  match l.requeue with
  | q :: rest =>
    let cls := match (if l.cohort = 0 then none else FMap.get? l.homes (q / l.cohort)) with
      | some cl => [cl]
      | none => l.clusters
    cls.findSome? (fun cl => (s.putGrid lid l cl q).map (fun s =>
      { s with launches := FMap.set s.launches lid { l with requeue := rest, cluster := if l.cohort = 0 then cl else l.cluster } }))
  | [] =>
    let n := if l.cohort = 0 then 1 else min l.cohort (l.total - l.next)
    let qs := (List.range n).map (fun i => l.next + i)
    l.clusters.findSome? (fun cl => (s.putAll lid l cl qs).map (fun s =>
      let homes := if l.cohort = 0 then l.homes else FMap.set l.homes (l.next / l.cohort) cl
      { s with launches := FMap.set s.launches lid { l with next := l.next + n, cluster := cl, homes } }))

/-- A saved team placed again on its die (R339, R353). -/
def State.placeSaved (s : State) (t : Nat) (tm : Team) : Option State :=
  (List.range 4).findSome? (fun i =>
    (s.coreFor (clusterCores (tm.dieOf * 4 + i)) tm.ctx tm.standing tm.tr).bind (fun core => s.putTeam t tm core false))

/-- The launches and saved teams of all dies in the order in which admission takes them (R339): by priority, saved teams before unplaced ones,
the launch accepted first. Of several saved teams of one priority the spec gives no order: the one first placed goes first (log 39). -/
def State.placeOrder (s : State) : List Nat :=
  let key (prio late id : Nat) : Nat := (prio * 2 + late) * 2 ^ 64 + id
  let ls := (s.launches.filter (fun l => l.2.open && (s.ctx l.2.ctx).v)).map (fun l => key l.2.prio 1 l.1)
  let ts := (s.teams.filter (fun t => t.2.life == .saved && (s.ctx t.2.ctx).v)).map (fun t => key t.2.prio 0 t.1)
  ((ls ++ ts).foldr insertSorted []).map (· % 2 ^ 64)

/-- A launch's next team or cohort, or a saved team, placed: its die, and the state after. -/
def State.placeId (s : State) (id : Nat) : Option (Nat × State) :=
  match FMap.get? s.launches id, s.team? id with
  | some l, _ => (s.placeLaunch id l).map (fun s' => (l.die, s'))
  | none, some tm => (s.placeSaved id tm).map (fun s' => (tm.dieOf, s'))
  | none, none => none

/-- TEAM_PLACE (R339): the first in that order that fits somewhere is placed, at its own die's event; admission looks again after a placement. -/
def execTeamPlace (die : Nat) (s : State) : Out :=
  .next (match s.placeOrder.findSome? s.placeId with
  | some (d, s') => if d = die then { s' with agenda := .teamPlace die :: s'.agenda } else s
  | none => s)

/-- The completion of a launch whose last team has retired (R355, R380): its command ends, or its completion block is written and
takes an arrival; a failed access parks (R394). -/
def State.finishLaunch (s : State) (lid : Nat) : State :=
  match FMap.get? s.launches lid with
  | none => s
  | some l =>
    let gone (s : State) : State := { s with launches := FMap.erase s.launches lid }
    let status := if l.tfaults = 0 then 0 else 12
    let count := min l.tfaults (2 ^ 24 - 1)
    if l.left ≠ 0 || s.faults.any (fun f => f.2.agent == .launch && f.2.op == lid) then s
    else match l.cmd with
      | some q => gone { s with cmds := FMap.upd s.cmds q (fun c => { c with stage := 3, status, count }) }
      | none =>
        if l.block = 0 then gone s
        else
          let x : Xlat := ⟨l.die, l.ctx, (s.ctx l.ctx).root.toNat, (s.ctx l.ctx).priv⟩
          let park (va : DWord) : State :=
            if 64 ≤ s.queued none l.ctx then s
            else
              let (fid, s) := s.newId
              { s with faults := FMap.set s.faults fid { team := none, ctx := l.ctx, agent := .launch, op := lid, va } }
          match s.deadWrite l.dead x (l.block + 16) (natLe 16 (status + count * 2 ^ 8)) with
          | .error none => s.unitAsk x (l.block + 16)
          | .error (some va) => park va
          | .ok s' =>
            match s'.deadArrive l.dead x l.block with
            | .ok s' => gone s'
            | .error none => s.unitAsk x l.block
            | .error (some va) => park va

/-- The launches whose last team has retired try again what they wait for (R355, R394). -/
def State.finishLaunches (s : State) : State :=
  s.launches.foldl (fun s l => if l.2.left = 0 then s.finishLaunch l.1 else s) s

-- QPUT.

/-- The queue whose record lies at a physical address (R377). -/
def State.queueOf (s : State) (pa : Nat) : Option Nat :=
  let base := s.queueAt 0
  if base ≤ pa && (pa - base) % 128 == 0 && (pa - base) / 128 < 1024 then some ((pa - base) / 128) else none

/-- wp and rp as a die sees them: the owner by the record, another by its replica, or the record fetched into one (R378). -/
def State.qview (s : State) (die q : Nat) : State × Nat × Nat :=
  if s.qfield q 97 96 = die then (s, s.qfield q 191 128, s.qfield q 255 192)
  else
    let bs := (FMap.get? (s.die die).replicas q).getD (s.mem.bytes (s.queueAt q) 48)
    (s.updDie die (fun d => { d with replicas := FMap.set d.replicas q bs }), bits (leNat bs) 191 128, bits (leNat bs) 255 192)

/-- A command as QPUT takes it from scratch: 1 and its eight dwords, or 0 when it is out of range; or the data error that the read meets (R364). -/
def State.command (s : State) (t a : Nat) : Except (Nat × DWord × Nat) (List DWord) :=
  match s.scrAt t a 64 with
  | none => .ok [0]
  | some (u, off) =>
    match s.scrHit u off 64 with
    | some b => .error b
    | none => .ok (1 :: (List.range 8).map (fun i => BitVec.ofNat 64 (leNat (s.scrGet u (off + 8 * i) 8))))

/-- The operands of an operation as it starts: QPUT reads its command then, once, after the release that it is (log 49). -/
def State.startArgs (s : State) (o : Op) (e : Eng) (args : List DWord) : Except (Nat × DWord × Nat) (List DWord) :=
  match e, args, o.team with
  | .qput, [va, w], some t => (s.command t (w.toNat % 2 ^ 32)).map (fun l => va :: w :: l)
  | _, _, _ => .ok args

/-- QPUT (R356, R379) of a command: identifier and status. A write of the ring that was declared unserviceable is dropped (R394). A data error in the
queue record that it updates is the operation's (R364, R388; log 42). -/
def State.opQput (s : State) (x : Xlat) (va : DWord) (w : Nat) (cmd : List DWord) (dead : List Nat) : Res :=
  let st (n : Nat) : Res := .done s [0, n]
  match s.xlate x false va .read with
  | .error _ => .fail va false
  | .ok e =>
    match bits w 63 32 ≠ 0 || bits w 31 0 % 64 ≠ 0 || cmd.headD 0 = 0, s.queueOf (paOf e va) with
    | true, _ => st 5
    | _, none => st 5
    | false, some q =>
      if s.qfield q 74 74 = 0 || s.qfield q 75 75 = 0 || s.qfield q 90 80 ≠ x.ctx || !s.qRlogOk q then st 2
      else if let some str := s.poisoned (s.queueAt q) 48 then .bad s (str, va, s.queueAt q)
      else
        let n := 2 ^ s.qfield q 68 64
        let (s, wp, rp) := s.qview x.die q
        if n ≤ wp - rp then .done s [0, 1]
        else
          let slot := wp % n
          let at_ : DWord := BitVec.ofNat 64 (s.qfield q 63 0 + 64 * slot)
          match s.deadWrite dead x at_ (cmd.tail.flatMap (fun w => natLe 8 w.toNat)) with
          | .error (some va) => .fail va true
          | .error none => .wait (s.unitAsk x at_)
          | .ok s => .done (s.qUpdate q 128 64 (wp + 1)) [slot, 0]

-- The instructions.

/-- The words of a token whose access was declared unserviceable (R330, R354). -/
def Eng.faultWords : Eng → List Nat
  | .sraise => [0, 9 * 2 ^ 32]
  | .squery => [0, 9 * 2 ^ 32, 0]
  | .glaunch => [9 * 2 ^ 32, 0]
  | .qput => [9 * 2 ^ 32, 0]
  | _ => [9 * 2 ^ 32]

/-- What such an operation comes to: token words, then whether it sets nv. -/
def State.tryOp (s : State) (o : Op) (e : Eng) (args : List DWord) : Res × Bool :=
  let x := s.opXlat o
  let va := arg args 0
  let w := (arg args 1).toNat
  match e with
  | .sraise =>
    match s.opRaise x va (bits w 23 0) (bits w 63 32) with
    | .done s [q, st] => (.done s [q, st * 2 ^ 32], st == 0 && (cleanAmt (BitVec.ofNat 32 (bits w 63 32))).2)
    | r => (r, false)
  | .squery => (s.opQuery x va (bits w 23 0), false)
  | .scommit =>
    match o.team.map (fun t => s.opCommit x t va.toNat w (arg args 2).toNat) with
    | some (.done s [v, nv]) => (.done s [v], nv == 1)
    | some r => (r, false)
    | none => (.done s [2 ^ 32], false)
  | .sstart => (s.opStart x va o.dead, false)
  | .sstop => (s.opStop x va (o.team.bind (fun t => o.wbs.head?.map (fun w => (t, w)))) none, false)
  | .glaunch =>
    let d := w
    let m := (arg args 2).toNat
    let bad := bits d 63 48 != 0 || m / 2 ^ 10 != 0 || (m % 4 != 3 && arg args 3 != 0)
    let a : Ask := { rec_ := va, ext := (bits d 15 0, bits d 31 16, bits d 47 32), curve := m % 4, cohort := bits m 7 2, prio := bits m 9 8
                     table := arg args 3, block := arg args 4 }
    match (if bad then .done s [0, 5] else s.opLaunch x a) with
    | .done s [id, st] => (.done s [id + st * 2 ^ 32, b2n (st == 1)], false)
    | r => (r, false)
  | .qput =>
    match s.opQput x va w (args.drop 2) o.dead with
    | .done s [id, st] => (.done s [id + st * 2 ^ 32, b2n (st == 1)], false)
    | r => (r, false)
  | _ => (.wait s, false)

/-- The token of such an operation is written and the operation is over. -/
def State.endOp (s : State) (id : Nat) (o : Op) (v : List Nat) (nv : Bool) : State :=
  let s := { s with ops := FMap.erase s.ops id }
  match o.team with
  | none => s
  | some t =>
    let s := if v.isEmpty then s else o.wbs.foldl (fun (s : State) w => s.answer t w (fun i => BitVec.ofNat 64 (nth v i))) s
    if !nv then s
    else match s.team? t with
      | none => s
      | some tm => (s.updTeam t (fun tm => tm.flag s.clock 0 1)).crumb tm (enabled tm.eff.sr 1) false o.hdr o.tid

/-- A try of such an operation (R330, R354, R394). A data error in what it reads has the status of a read declared unserviceable, and is its issuer's
machine check (R364, log 42). -/
def State.directNext (s : State) (id : Nat) (o : Op) (e : Eng) (args : List DWord) : State :=
  if o.fault then s.endOp id o e.faultWords false
  else match s.startArgs o e args with
    | .error b => (s.raiseBad (o.hit b)).endOp id o e.faultWords false
    | .ok args =>
      match (s.updOp id (fun o => { o with kind := .record e args })).tryOp o e args with
      | (.done s v, nv) => s.endOp id o v nv
      | (.wait s, _) => s
      | (.bad s b, _) => (s.raiseBad (o.hit b)).endOp id o e.faultWords false
      | (.fail va w, _) =>
        let c : Chunk := if w then ⟨.skip, .glob va, 1, 0, .move⟩ else ⟨.glob va, .skip, 1, 0, .look⟩
        s.updOp id (fun o => { o with kind := .record e args, chunks := [], failed := [c] })

/-- The next part of any operation. One of a group's operations that proceed in ascending thread index waits for the one before it (R330, R354). -/
def State.opNext (s : State) (id : Nat) : State :=
  match s.op? id with
  | none => s
  | some o =>
    match o.kind with
    | .record e args =>
      if !e.direct then s.landNext id
      else if o.prev.any (fun p => (s.op? p).isSome) then s
      else if !o.after.isEmpty then s.lateRelease id o
      else if o.chunks.isEmpty then s
      else s.directNext id o e args
    | _ => s.landNext id

/-- ENGINE_BYTES_LAND (R121). -/
def execEngineBytesLand (op : Nat) (s : State) : Out := .next (s.opNext op)

/-- One operation for each thread of the group in ascending index (R165, R330, R354), after the release that some of them are; its
token registers, and the failure predicate, become pending. -/
def State.direct (s : State) (st : BitVec 2) (u : Use) (rel : Bool) (e : Eng) (kd : List Nat) (pd : Option Nat) (args : State → Iss → List DWord) :
    State :=
  let w : Use := ⟨[], kd.map Reg.k ++ (pd.map Reg.p).toList, 0, false⟩
  s.forbiddenFree (u.add w) (fun s c => s.engineIssue c rel (fun s after =>
    let as := args s c
    ((sortNat c.g.tids).foldl (fun (acc : State × Option Nat) tid =>
      let (wid, s) := acc.1.newId
      let s := s.owe c.t wid tid true false (kd.map (fun k => (.k k, none)))
      let s := match pd with
        | some p => s.owe c.t wid tid false false [(.p p, none)]
        | none => s
      let (id, s) := s.addOp { c.newOp tid 5 (.record e as) [wid] with chunks := [⟨.skip, .skip, 0, 0, .record⟩], after := after tid, prev := acc.2 }
      (s.opNext id, some id)) (s, none)).1.advance c.t c.gid (gapOf st)))

/-- The registers of an operation: the one of ka, and n from kb. -/
def Use.pairBlock (a b : BitVec 6) (n : Nat) : Use := (Use.ksrc a.toNat 1).add (Use.ksrc b.toNat n)
def Iss.block (c : Iss) (s : State) (a b : BitVec 6) (n : Nat) : List DWord := c.k s a.toNat :: (List.range n).map (fun i => c.k s (b.toNat + i))

/-- SCOMMIT (R332). -/
def execScommit (st : BitVec 2) (d a b : BitVec 6) (s : State) : Out :=
  .next (s.direct st (Use.pairBlock a b 2) true .scommit [d.toNat] none (fun s c => c.block s a b 2))
/-- SRAISE (R333). -/
def execSraise (st : BitVec 2) (d a b : BitVec 6) (s : State) : Out :=
  .next (s.direct st (Use.pairBlock a b 1) true .sraise [d.toNat, d.toNat + 1] none (fun s c => c.block s a b 1))
/-- SQUERY (R334). -/
def execSquery (st : BitVec 2) (d a b : BitVec 6) (s : State) : Out :=
  .next (s.direct st (Use.pairBlock a b 1) false .squery [d.toNat, d.toNat + 1, d.toNat + 2] none (fun s c => c.block s a b 1))
/-- SSTART (R335). -/
def execSstart (st : BitVec 2) (d a : BitVec 6) (s : State) : Out :=
  .next (s.direct st (Use.ksrc a.toNat 1) false .sstart [d.toNat] none (fun s c => [c.k s a.toNat]))
/-- SSTOP (R336). -/
def execSstop (st : BitVec 2) (d a : BitVec 6) (s : State) : Out :=
  .next (s.direct st (Use.ksrc a.toNat 1) false .sstop [d.toNat] none (fun s c => [c.k s a.toNat]))
/-- GLAUNCH (R355). -/
def execGlaunch (st : BitVec 2) (d a b : BitVec 6) (p : BitVec 3) (s : State) : Out :=
  .next (s.direct st (Use.pairBlock a b 4) true .glaunch [d.toNat] (some p.toNat) (fun s c => c.block s a b 4))
/-- QPUT (R356). -/
def execQput (st : BitVec 2) (d a b : BitVec 6) (p : BitVec 3) (s : State) : Out :=
  .next (s.direct st (Use.pairBlock a b 1) true .qput [d.toNat] (some p.toNat) (fun s c => c.block s a b 1))

end Sys2Proof.Machine
end

