-- ==== Sys2Proof/Machine/Sched.lean ====
section
/-!
DEFINITION. The events of scheduling: results and fences (R127, R158), pages and waiters (R87, R251), parked fault units (R236,
R394), activation, parking, rotation and retirement (R27, R38, R346), pre-emption (R348-R352, R382).
-/

namespace Sys2Proof.Machine

-- Results, fences, pages, waiters.

/-- RESULT_WRITEBACK (R158): an owed result with its value is written once no earlier one to the same register is owed; that of a
team whose state is in its area goes there (R367). Writing the token of an engine operation is an acquire of the core, which the observer by
that token needs (R105, R120); a saved team acquires when it resumes. A result of a run, or a write of L, that a later one has overtaken goes
nowhere (R158, R160). -/
def execResultWriteback (team i : Nat) (s : State) : Out :=
  .next (match s.team? team with
  | none => s
  | some tm =>
    match tm.wbs[i]? with
    | none => s
    | some w =>
      match w.val with
      | none => s
      | some x =>
        if (tm.wbs.take i).any (fun o => o.reg == w.reg && o.tid == w.tid) then s
        else
          let s := if w.obs && tm.life != .saved then s.acquire tm.core else s
          if tm.stored = 0 then s.updTeam team (fun tm => tm.writeWb s.clock w)
          else
            let rest := tm.wbs.take i ++ tm.wbs.drop (i + 1)
            let s := s.updTeam team (fun tm => { tm with wbs := rest }.flag s.clock 0 w.fl)
            let th := tm.thread (w.tid.getD 0)
            let dead := match w.reg with
              | .t n => th.stamp != w.stamp || (n == 8 && th.lver != w.ver)
              | _ => false
            if dead then s else s.lateWrite team tm w (rest.any (fun o => o.reg == w.reg && o.tid == w.tid)) x)

/-- FENCE_COMPLETE (R127, R249): the thread's oldest fence completes once what it covers has performed at its home; a store to a non-coherent
range does so at its CFLUSH (R103). -/
def execFenceComplete (team thread : Nat) (s : State) : Out :=
  .next (match s.team? team with
  | none => s
  | some tm =>
    match (tm.thread thread).fences.find? (fun f => !f.done) with
    | none => s
    | some f =>
      let mem := f.cls % 2 == 1
      let ops := f.ops.all (fun id => ((s.op? id).map (fun o => o.done)).getD true)
      if !ops || tm.wbs.any (fun w => w.val.isNone && f.owed.contains w.id) || tm.laters.any (fun l => f.owed.contains l.id) || (mem && (!s.canRelease tm.core || !f.ncs.isEmpty)) then s
      else
        let s := if mem then s.release tm.core else s
        s.updThread team thread (fun th => { th with fences := th.fences.map (fun g => if g.seq = f.seq then { g with done := true } else g) }))

/-- SCRATCH_PAGE_REFILL (R87): the page is pinned into a free frame, the lowest, as R87 names none (log 39). -/
def execScratchPageRefill (team page : Nat) (s : State) : Out :=
  .next (match s.team? team with
  | none => s
  | some tm =>
    if !tm.active || !tm.refill.contains page then s
    else match (List.range 128).find? (fun f => (frameAt s tm.core f).isNone) with
      | none => s
      | some f => (s.updCore tm.core (fun c => c.take 1 (f * 4096) 4096)).updTeam team (fun tm => { tm with pinned := FMap.set tm.pinned page f, refill := tm.refill.filter (· != page) }))

/-- WAITER_REEVALUATE (R251): the waiting groups look again. -/
def execWaiterReevaluate (team : Nat) (s : State) : Out :=
  .next (s.updTeam team (fun tm =>
    { tm with reeval := s.clock, groups := tm.groups.map (fun g => (g.1, { g.2 with held := false })) }))

-- Fault units.

/-- FAULT_REPLAY (R236, R394): the unit leaves the queue and its agent tries again. -/
def execFaultReplay (fu : Nat) (s : State) : Out :=
  .next (match FMap.get? s.faults fu with
  | none => s
  | some u =>
    let s := s.unpark fu u true
    if u.agent = .launch then s.finishLaunch u.op else s)

/-- The status of a command whose access was declared unserviceable (R394). -/
def Cmd.faultStatus (c : Cmd) : Nat := if (c.bytes.headD 0).toNat ≤ 4 then 9 else 2

/-- FAULT_DECLARE_UNSERVICEABLE (R236, R394): an engine's bytes are not moved; an operation of a set, launch or queue, and a command
that was reading, get status fault; a device's read gives zero and its write is dropped. -/
def execFaultDeclareUnserviceable (fu : Nat) (s : State) : Out :=
  .next (match FMap.get? s.faults fu with
  | none => s
  | some u =>
    let page := u.va.toNat / 4096
    let write := u.chunks.any (fun c => c.dst != .skip)
    let s := s.unpark fu u false
    match u.agent with
    | .engine =>
      match s.op? u.op with
      | some o => match o.kind with
        | .record e _ =>
          if e.direct then (s.updOp u.op (fun o =>
            { o with chunks := [⟨.skip, .skip, 0, 0, .record⟩], fault := !write, dead := if write then page :: o.dead else o.dead })).opNext u.op
          else s
        | _ => s
      | none => s
    | .set => { s with sets := FMap.upd s.sets u.op (fun e => { e with dead := page :: e.dead }) }
    | .launch => ({ s with launches := FMap.upd s.launches u.op (fun l => { l with dead := page :: l.dead }) }).finishLaunch u.op
    | .command => { s with cmds := FMap.upd s.cmds u.op (fun c =>
        if c.stage = 3 || write then { c with dead := page :: c.dead } else { c with stage := 3, status := c.faultStatus }) })

-- Activation, parking, rotation.

/-- The parked teams of a core that wait to become active (R27): ready, and of a kind that one more may be active of. -/
def State.waiting (s : State) (core : Nat) : List (Nat × Team) :=
  (s.parkedOn core).filter (fun e => (e.2.life == .live || e.2.life == .saving) && s.shareAllows core e.2.standing && e.2.parkedReady)

/-- The team that has been ready longest, the lower slot on ties (R346). -/
def longest (clock : Nat) (l : List (Nat × Team)) : Option (Nat × Team) := argMin (fun e => (e.2.readySince.getD clock) * 64 + e.2.slot) l

/-- The team that has been active longest, the lower slot on ties (R27, R346). -/
def eldest (l : List (Nat × Team)) : Option (Nat × Team) := argMin (fun e => e.2.activeAt * 64 + e.2.slot) l

/-- TEAM_ACTIVATE (R29, R346, R348). -/
def execTeamActivate (core : Nat) (s : State) : Out :=
  .next (match longest s.clock ((s.waiting core).filter (fun e => s.coreOpen core e.2.ctx && (s.fitsActive core e.2.tr).isSome)) with
  | none => s
  | some (t, tm) =>
    match s.fitsActive core tm.tr with
    | none => s
    | some base => s.activate t base false)

/-- TEAM_PARK (R27): while a team waits to become active and does not fit, one team all of whose threads wait parks, after the waiting teams that can
become active have done so. -/
def execTeamPark (core : Nat) (s : State) : Out :=
  .next (
    let w := s.waiting core
    let fits (e : Nat × Team) : Bool := (s.fitsActive core e.2.tr).isSome
    if w.all fits || w.any (fun e => fits e && s.coreOpen core e.2.ctx) then s
    else match eldest ((s.activeOn core).filter (fun e => (e.2.life == .live || e.2.life == .saving) && s.allWait e.1 e.2)) with
      | none => s
      | some (t, _) => s.park t)

/-- 100 microseconds in clocks (R1). -/
def rotationClocks : Nat := 125000

/-- The active team that rotation parks next for a waiting one (R346), whatever its state: of its kind when the kind is at its share limit. -/
def State.victim (s : State) (core : Nat) (tm : Team) : Option (Nat × Team) :=
  let full := !s.shareAllows core tm.standing
  eldest ((s.activeOn core).filter (fun e => (!full || e.2.standing == tm.standing) &&
    !(e.2.rotated && decide (s.clock < e.2.activeAt + rotationClocks))))

/-- Active teams park, one at a time, until the waiting team fits, and then it becomes active (R346); none when it never fits. -/
def State.rotate (s : State) (core t : Nat) (tm : Team) : Nat → Option State
  | 0 => none
  | fuel + 1 =>
    match (if s.shareAllows core tm.standing then s.fitsActive core tm.tr else none) with
    | some base => some (s.activate t base true)
    | none =>
      match s.victim core tm with
      | none => none
      | some (v, _) => State.rotate (s.park v) core t tm fuel

/-- The first of some waiting teams, longest ready first, for which rotation succeeds (R346). -/
def State.rotateFirst (s : State) (core : Nat) : Nat → List (Nat × Team) → Option State
  | 0, _ => none
  | fuel + 1, l =>
    match longest s.clock l with
    | none => none
    | some (t, tm) => (s.rotate core t tm 17).orElse (fun _ => State.rotateFirst s core fuel (l.filter (fun e => e.1 != t)))

/-- ROTATION (R346): a team parked and ready for 100 microseconds becomes active, active teams parking for it. No team parks for one that
would not fit even then (log 62). -/
def execRotation (core : Nat) (s : State) : Out :=
  .next (
    let due := (s.parkedOn core).filter (fun e => (e.2.life == .live || e.2.life == .saving) && decide (0 < s.kindLimit core e.2.standing) && e.2.parkedReady &&
      e.2.readySince.any (fun c => decide (c + rotationClocks ≤ s.clock)))
    if (s.core core).held then s
    else (s.rotateFirst core due.length due).getD s)

-- Retirement.

/-- A held access is one of the operations that the retirement of its team awaits (R38). -/
def Later.awaited (l : Later) : Bool :=
  match l.instr with
  | .fput _ _ _ _ => true
  | .qlock _ _ _ _ => true
  | .qunlock _ _ => true
  | .barrive _ _ _ _ => true
  | _ => false

/-- Every operation of a team is complete (R38): counters zero, every result owed has its value, deferred FGETs apart. An access that an unanswered
FGET holds goes with it, unless it is one that R38 awaits (log 23). -/
def State.finished (s : State) (tm : Team) : Bool :=
  let deferred := s.units.defer.flatMap (fun d => d.2.map Prod.snd)
  (List.range 4).all (fun c => FMap.getD tm.cnt c 0 == 0) && 
    tm.wbs.all (fun w => w.val.isSome || deferred.contains w.id || tm.laters.any (fun l => l.id == w.id && !l.awaited)) &&
    tm.laters.all (fun l => !l.awaited && !(tm.acquires (l.threads.map Prod.fst)).isEmpty)

/-- The means of R349 take in a retired team, and its launch counts it. -/
def State.tally (s : State) (tm : Team) : State :=
  let clk := s.clock - tm.placedAt
  match tm.launch with
  | some l => { s with launches := FMap.upd s.launches l (fun e => { e with
      retired := e.retired + 1, sumRet := e.sumRet + tm.ret, sumClk := e.sumClk + clk, left := e.left - 1,
      tfaults := e.tfaults + b2n (tm.life == .faulted) }) }
  | none =>
    match tm.cell with
    | some (sid, _) => { s with sets := FMap.upd s.sets sid (fun e => { e with
        retired := e.retired + 1, sumRet := e.sumRet + tm.ret, sumClk := e.sumClk + clk }) }
    | none => s

/-- A region of the team has chosen its position and is being applied (R275). -/
def Team.applying (tm : Team) : Bool := tm.threads.any (fun th => th.region.any (fun r => r.stage == 2))

/-- TEAM_RETIRE (R38, R322): its accesses have performed, for the arrival that may follow (R357); a commit under way ends first (R141). -/
def execTeamRetire (team : Nat) (s : State) : Out :=
  .next (match s.team? team with
  | none => s
  | some tm =>
    if tm.life == .discarding || tm.life == .saved || !tm.live.isEmpty || !s.finished tm || !s.canRelease tm.core || tm.applying then s
    else
      let s := ((s.release tm.core).dropRegions team).settleCell tm true
      let s := (s.tally tm).releaseTeam team
      match tm.launch with
      | some l => s.finishLaunch l
      | none => s)

-- Pre-emption.

/-- PREEMPTION_REQUEST (R348, R349). -/
def execPreemptionRequest (die : Nat) (s : State) : Out := .next (s.preempt die)

/-- DISCARD_REQUEUE (R351, R322): once its counters read zero, its accesses have been made and no commit of it is under way (R141), a discarded team's resources go; a grid team waits for its place
again, a cell is queued again. -/
def execDiscardRequeue (team : Nat) (s : State) : Out :=
  .next (match s.team? team with
  | none => s
  | some tm =>
    if tm.life != .discarding || (List.range 4).any (fun c => FMap.getD tm.cnt c 0 != 0) || !tm.laters.isEmpty || tm.applying then s
    else
      let s := s.settleCell tm false
      let s := match tm.launch with
        | some l => { s with launches := FMap.upd s.launches l (fun e => { e with requeue := e.requeue ++ [e.index tm.grid] }) }
        | none => s
      s.releaseTeam team)

/-- The save has proceeded, or may: every live thread has yielded or is exempt (R352, R368). -/
def State.mayWrite (s : State) (t : Nat) (tm : Team) : Bool :=
  tm.proceeds || tm.tr.yieldPc == 0 || tm.live.all (fun tid =>
    let th := tm.thread tid
    th.yielded || !th.ran || (!th.sent && s.blocked t tm tid))

/-- What of a team's state has to be written when it is saved: its core's stores are home, what its area holds is back, open regions have aborted
(R279), and no group is left. -/
def State.gather (s : State) (t : Nat) (tm : Team) : State :=
  let s := s.release tm.core
  let s := if tm.stored = 0 then s else s.loadArea t
  ((List.range tm.threads.length).foldl (fun s tid => s.abortRegion t tid 5 0) s).dissolve t

/-- The first data error that the save's write to the area meets: in a half-line that it fills only in part (R371, R388). -/
def State.saveError (s : State) (t : Nat) : Option (Nat × Nat) :=
  (s.team? t).bind (fun tm => ((s.areaErrors t tm 1).find? (fun b => b.2.2)).map (fun b => (b.2.1, b.1 * 64)))

/-- TEAM_SAVE (R352, R367-R369): once the save may proceed, the threads blocked in PWAIT are exempt and nothing of the team issues any more; when its
matrix operations are done the area is written and the reservations go. A data error that the write meets discards the team instead (R371).
A team without a live thread is not written: it stays until its copies are done and retires (log 44). -/
def execTeamSave (team : Nat) (s : State) : Out :=
  .next (match s.team? team with
  | none => s
  | some tm =>
    if tm.life != .saving || tm.live.isEmpty || !s.mayWrite team tm then s
    else if FMap.getD tm.cnt 2 0 != 0 || !s.canRelease tm.core || tm.threads.any (fun th => th.region.any (fun r => r.stage != 0)) then
      s.updTeam team (fun tm => { tm with proceeds := true })
    else
      let s := s.gather team tm
      match s.saveError team with
      | some (str, pa) => (s.contextMc tm.dieOf str tm.ctx pa).startDiscard team
      | none =>
        let s := s.storeArea team 1
        let s := s.updCore tm.core (fun c => { c.freeSlots team with full := false })
        let s := s.updTeam team (fun tm => { tm with life := .saved, active := false, pinned := [], refill := [], rotated := false, proceeds := true })
        s.updDie tm.dieOf (fun d => { d with pend := d.pend.filter (· != team), late := d.late || decide (d.goAt + d.reqDl < s.clock) }))

/-- The cores of a die that a pre-emption has held are free again (R348). -/
def State.freeCores (s : State) (die : Nat) : State :=
  (List.range 192).foldl (fun (s : State) i =>
    if (s.core (die * 192 + i)).held then s.updCore (die * 192 + i) (fun c => { c with held := false }) else s) s

/-- PREEMPTION_COMPLETE (R348, R382, R383): every outcome is complete; the cores are free again. -/
def execPreemptionComplete (die : Nat) (s : State) : Out :=
  .next (
    let d := s.die die
    if !d.busy || !d.pend.isEmpty then s
    else ((s.freeCores die).updDie die (fun d => { d with busy := false })).interrupt die 3 0 d.reqCtx 0)

/-- PRQ_LATE_CLEAR (R382). -/
def execPrqLateClear (die : Nat) (s : State) : Out := .next (s.updDie die (fun d => { d with late := false }))

end Sys2Proof.Machine
end

