-- ==== Sys2Proof/Machine/Fabric.lean ====
section
/-!
DEFINITION. Coherence as events: D lines (R92, R93), write-backs (R94), pages shared between packages (R97, R98), shootdowns
(R100, R372), flits, host writes and failures (R387-R389), and the privileged instructions SRD, SWR and TLBI.
-/

namespace Sys2Proof.Machine

-- D lines.

/-- A core joins the sharers; the fifth switches the entry to coarse mode (R92). -/
def DEnt.join (d : DEnt) (core : Nat) : DEnt :=
  if d.crs then { d with grp := dedup (d.grp ++ [core / 12]) }
  else if d.ptrs.contains core then { d with st := 1 }
  else if d.ptrs.length < 4 then { d with st := 1, ptrs := d.ptrs ++ [core] }
  else { d with st := 1, crs := true, ptrs := [], grp := dedup ((d.ptrs ++ [core]).map (· / 12)) }

/-- The cores that an invalidation goes to (R92). -/
def DEnt.targets (d : DEnt) (writer : Nat) : List Nat :=
  (if d.crs then d.grp.flatMap (fun g => (List.range 12).map (fun i => 12 * g + i)) else d.ptrs).filter (· != writer)

/-- A line's bytes at their home, as a core receives them. -/
def State.lineIn (s : State) (line : Nat) (excl : Bool) : CLine :=
  let bs := s.homeBytes (line * 128) 128
  { cells := (List.range 128).zip (bs.map (fun b => (b, false))), coh := 1, excl }

/-- LINE_READ_REQUEST (R92): the core is recorded as a sharer and receives the line, for which it makes room (R1); it waits while a writer is served. A copy held
exclusively becomes shared. -/
def execLineReadRequest (core line : Nat) (s : State) : Out :=
  .next (
    let d := s.dent line
    if !(s.core core).dreads.contains line || d.writer.isSome then s
    else match s.makeRoom core line with
    | none => s
    | some s =>
      let s := if d.st = 2 then d.ptrs.foldl (fun (s : State) k => s.updCore k (fun c =>
          { c with lines := FMap.upd c.lines line (fun l => { l with excl := false }) })) s else s
      let l := s.lineIn line false
      (s.setDent line (d.join core)).updCore core (fun c =>
        { c with dreads := c.dreads.filter (· != line), lines := FMap.set c.lines line l }))

/-- EXCLUSIVE_REQUEST (R92): invalidations go to every recorded sharer but the writer. -/
def execExclusiveRequest (core line : Nat) (s : State) : Out :=
  .next (
    let d := s.dent line
    if !(s.core core).busyD line || d.writer.isSome then s
    else
      let ts := d.targets core
      let s := ts.foldl (fun (s : State) k => s.updCore k (fun c => { c with invs := c.invs ++ [line] })) s
      s.setDent line { d with writer := some core, pend := ts.length, acks := 0 })

/-- INVALIDATION (R92): acknowledged whether or not the core holds the line. -/
def execInvalidation (core line : Nat) (s : State) : Out :=
  .next (
    if !(s.core core).invs.contains line then s
    else
      let s := s.updCore core (fun c =>
        { c with invs := c.invs.erase line, lines := c.lines.filter (fun l => l.1 != line || l.2.coh != 1 || l.2.nc) })
      let d := s.dent line
      s.setDent line { d with acks := d.acks + 1 })

/-- INVALIDATION_ACK (R92): the home counts an acknowledgement. -/
def execInvalidationAck (_core line : Nat) (s : State) : Out :=
  .next (
    let d := s.dent line
    if d.acks = 0 then s else s.setDent line { d with acks := d.acks - 1, pend := d.pend - 1 })

/-- EVICTION_NOTICE (R92, R94, R115): a core drops a line, or asks for the grants that its dirty bytes need to go home. -/
def execEvictionNotice (core line : Nat) (s : State) : Out :=
  .next (match FMap.get? (s.core core).lines line with
  | none => s
  | some l => if s.canWriteBack line l then s.evict core line else s.askLine line l)

/-- EXCLUSIVE_GRANT (R92, R103): every acknowledgement is in; the store performs and the writer alone is recorded. -/
def execExclusiveGrant (core line : Nat) (s : State) : Out :=
  .next (
    let d := s.dent line
    match (s.core core).dstores.find? (fun x => x.1 == line) with
    | none => s
    | some (_, pa, pte, ctx, bs) =>
      if d.writer ≠ some core || d.pend ≠ 0 then s
      else if s.needsGrant (some pte) pa true then s.askGrant pa true
      else if s.sealedIn pa bs.length then s
      else match s.makeRoom core line with
      | none => s
      | some s =>
        let s := (s.noRoute (core / 192) ctx pa).homeWrite { core := some core, keep := true, pte := some pte, ctx } pa bs
        let l := s.lineIn line true
        (s.updCore core (fun c =>
          { c with lines := FMap.set c.lines line { l with pte, ctx }, dstores := c.dstores.eraseP (fun x => x.1 == line) })).setDent line
            { st := 2, ptrs := [core] })

/-- LINE_WRITEBACK (R94, R112): a core writes a line's dirty S bytes back on its own, or asks for the grants that this takes. -/
def execLineWriteback (core line : Nat) (s : State) : Out :=
  .next (match FMap.get? (s.core core).lines line with
  | none => s
  | some l =>
    if l.coh ≠ 0 || l.nc || l.runs.isEmpty then s
    else if s.canWriteBack line l then s.writeBack core line
    else s.askLine line l)

-- Pages between packages (R97, R98).

/-- No dirty word that a core of this package holds of a page lies in a sealed granule (R275): they can go home. -/
def State.collectReady (s : State) (page : Nat) : Bool :=
  s.cores.all (fun e => e.2.lines.all (fun l => l.1 / 32 != page || l.2.nc || l.2.runs.all (fun r => !s.sealedIn (l.1 * 128 + r.1) r.2.length)))

/-- The cores of this package send their dirty words of a page home; with `drop` their copies go too, else exclusive ones become
shared. -/
def State.collectPage (s : State) (page : Nat) (drop : Bool) : State :=
  s.cores.foldl (fun (s : State) (e : Nat × CoreSt) =>
    let mine := e.2.lines.filter (fun l => l.1 / 32 == page && !l.2.nc)
    let s := mine.foldl (fun (s : State) l => if l.2.runs.isEmpty then s else s.writeBack e.1 l.1) s
    s.updCore e.1 (fun c =>
      let kept := c.lines.filter (fun l => l.1 / 32 != page || l.2.nc)
      let shared := c.lines.map (fun l => if l.1 / 32 = page then (l.1, { l.2 with excl := false }) else l)
      { c with lines := if drop then kept else shared })) s

/-- A page's holder record. -/
def State.holder (s : State) (page : Nat) : Holder := FMap.getD s.links.holders page {}
def State.setHolder (s : State) (page : Nat) (h : Holder) : State := { s with links := { s.links with holders := FMap.set s.links.holders page h } }

/-- The packages that a write by p must recall (R98). -/
def Holder.others (h : Holder) (p : Nat) : List Nat :=
  if h.st = 0 then []
  else (if h.crs then h.grp.flatMap (fun g => (List.range 48).map (fun i => 48 * g + i)) else h.ptrs).filter (· != p)

/-- A package joins the holders; the fifth switches the record to coarse mode (R97). -/
def Holder.join (h : Holder) (p : Nat) : Holder :=
  if h.crs then { h with grp := dedup (h.grp ++ [p / 48]) }
  else if h.ptrs.contains p then h
  else if h.ptrs.length < 4 then { h with st := 1, ptrs := h.ptrs ++ [p] }
  else { h with st := 1, crs := true, ptrs := [], grp := dedup ((h.ptrs ++ [p]).map (· / 48)) }

/-- The home serves the requests for a page in order: recalls first, then the grant (R98). -/
def State.serve (s : State) (page : Nat) : Nat → State
  | 0 => s
  | fuel + 1 =>
    let h := s.holder page
    match h.reqs with
    | [] => s
    | (p, w) :: rest =>
      if !h.recalls.isEmpty then s
      else
        let own := p == s.links.pkg
        if w then
          let ts := h.others p
          if !ts.isEmpty then s.setHolder page { h with recalls := ts }
          else if !own && !s.collectReady page then s
          else
            let s := if own then s else s.collectPage page true
            let h' : Holder := if own then { reqs := rest } else { st := 2, ptrs := [p], reqs := rest }
            State.serve (s.setHolder page h') page fuel
        else if h.st = 2 && !h.ptrs.contains p then s.setHolder page { h with recalls := h.ptrs }
        else
          let h := { h with reqs := rest }
          State.serve (s.setHolder page (if own then h else h.join p)) page fuel

/-- A request of another package reaches the home (R98). -/
def State.holderRequest (s : State) (pkg page : Nat) (write : Bool) : State :=
  if s.foreign (page * 4096) then s
  else
    let h := s.holder page
    (s.setHolder page { h with reqs := h.reqs ++ [(pkg, write)] }).serve page (h.reqs.length + 1)

/-- HOLDER_READ_REQUEST (R98). -/
def execHolderReadRequest (pkg page : Nat) (s : State) : Out := .next (s.holderRequest pkg page false)
/-- HOLDER_WRITE_REQUEST (R98). -/
def execHolderWriteRequest (pkg page : Nat) (s : State) : Out := .next (s.holderRequest pkg page true)

/-- A recall of a page that this package holds (R98): carried out and answered, or kept until no seal stands in its way (R275). The answer goes
out whether or not the page is held. -/
def State.recall (s : State) (page : Nat) (invalidate : Bool) : State :=
  let rest := s.links.asked.filter (· != (page, invalidate))
  if (FMap.get? s.links.held page).isNone then { s with links := { s.links with asked := rest } }
  else if !s.collectReady page then { s with links := { s.links with asked := rest ++ [(page, invalidate)] } }
  else
    let s := s.collectPage page invalidate
    { s with links := { s.links with asked := rest,
                                     held := if invalidate then FMap.erase s.links.held page else FMap.set s.links.held page false } }

/-- The recalls that a seal held are tried again. -/
def State.recallsAgain (s : State) : State := s.links.asked.foldl (fun s a => s.recall a.1 a.2) s

/-- RECALL_DOWNGRADE (R98): dirty words go home, copies stay shared. -/
def execRecallDowngrade (page : Nat) (s : State) : Out := .next (s.recall page false)

/-- RECALL_INVALIDATE (R98): dirty words go home and the page is no longer held. -/
def execRecallInvalidate (page : Nat) (s : State) : Out := .next (s.recall page true)

/-- RECALL_ANSWER (R98): a downgraded holder stays a sharer, an invalidated one goes; the grant follows the last answer. -/
def execRecallAnswer (pkg page : Nat) (s : State) : Out :=
  .next (
    let h := s.holder page
    if !h.recalls.contains pkg then s
    else
      let write := (h.reqs.head?.map Prod.snd).getD false
      let recalls := h.recalls.filter (· != pkg)
      let h' : Holder :=
        if !write then { h with recalls, st := 1 }
        else if h.crs then { h with recalls, crs := !recalls.isEmpty, grp := if recalls.isEmpty then [] else h.grp, st := if recalls.isEmpty then 0 else 1 }
        else { h with recalls, ptrs := h.ptrs.filter (· != pkg) }
      (s.setHolder page h').serve page (h.reqs.length + 1))

/-- HOLDER_RELEASE (R98): a holder's release reaches the home, or this package releases a page homed elsewhere. -/
def execHolderRelease (pkg page : Nat) (s : State) : Out :=
  .next (
    if s.foreign (page * 4096) then
      if pkg ≠ s.links.pkg || (FMap.get? s.links.held page).isNone || !s.collectReady page then s
      else
        let s := s.collectPage page true
        { s with links := { s.links with held := FMap.erase s.links.held page } }
    else
      let h := s.holder page
      if h.crs then s
      else
        let ptrs := h.ptrs.filter (· != pkg)
        s.setHolder page { h with ptrs, st := if ptrs.isEmpty then 0 else h.st })

/-- HOLDER_GRANT (R98): the grant that this package asked for, of another package's page, or of its own after the recalls. -/
def execHolderGrant (page : Nat) (excl : Bool) (s : State) : Out :=
  .next (
    if !s.foreign (page * 4096) then s.serve page ((s.holder page).reqs.length + 1)
    else match FMap.get? s.links.wants page with
      | none => s
      | some write =>
        let had := FMap.getD s.links.held page false
        let wants := if excl || !write then FMap.erase s.links.wants page else s.links.wants
        { s with links := { s.links with held := FMap.set s.links.held page (had || excl), wants } })

-- Shootdowns and the privileged instructions (R100, R167, R372).

/-- The gate of SRD, SWR and TLBI: without priv, a privilege trap (R167). They are no accesses of R101, and execute inside a region (R372, R393). -/
def State.privGate (s : State) (u : Use) (k : Iss → State) : State :=
  s.gate u (fun s c => if c.tm.eff.priv then k c else s.trapAll c.t c.gid c.g { cause := 2 })

/-- SRD (R372): the register of the executing context. -/
def execSrd (st : BitVec 2) (k : BitVec 6) (r : BitVec 15) (s : State) : Out :=
  .next (s.privGate (Use.kdst k.toNat 1) (fun c =>
    let (id, s) := s.newId
    (s.owe c.t id c.low true false [(.k k.toNat, some ((s.ctx c.tm.ctx).sr.read s.ordClock r.toNat))] 0 false c.g.tids).advance c.t c.gid (gapOf st)))

/-- SWR (R372): every team of the context takes it at its next run header. -/
def execSwr (st : BitVec 2) (k : BitVec 6) (r : BitVec 15) (s : State) : Out :=
  .next (s.privGate (Use.ksrc k.toNat 1) (fun c =>
    let x := s.ctx c.tm.ctx
    ({ s with ctxs := FMap.set s.ctxs c.tm.ctx { x with sr := x.sr.write r.toNat (c.k s k.toNat) } }).advance c.t c.gid (gapOf st)))

/-- TLBI (R100, R372): the generation rises and every die is asked; the group holds until all have acknowledged. -/
def execTlbi (st : BitVec 2) (k : BitVec 6) (s : State) : Out :=
  .next (s.privGate (Use.ksrc k.toNat 1) (fun c =>
    match s.shoots.find? (fun x => x.team == c.t && x.grp == c.gid) with
    | some x =>
      if x.dies.isEmpty then ({ s with shoots := s.shoots.filter (fun y => y.id != x.id) }).advance c.t c.gid (gapOf st)
      else s.hold c.t c.gid
    | none =>
      let w := (c.k s k.toNat).toNat
      let n := bits w 10 0
      let (id, s) := s.newId
      let x : Shoot := { id, team := c.t, grp := c.gid, ctx := n, all := bit w 11, vpn := bits w 56 12, dies := [0, 1, 2, 3], gen := (s.ctx n).gen + 1 }
      let cx := s.ctx n
      ({ s with shoots := s.shoots ++ [x], ctxs := FMap.set s.ctxs n { cx with gen := cx.gen + 1 } }).hold c.t c.gid))

/-- A translation that a shootdown invalidates (R372): of its context by the all flag or a page of its run; a global one whatever the context. -/
def Shoot.hits (x : Shoot) (t : TlbE) : Bool :=
  (x.all || (decide (t.vpn ≤ x.vpn) && decide (x.vpn < t.vpn + t.n))) && (t.ctx == x.ctx || t.g)

/-- Bytes kept under the translation generation `gen` of a context, through page entries, are of those that a shootdown waits for (R100): of its
context and an older generation, or through a global entry (log 55). -/
def Shoot.covers (x : Shoot) (ctx gen : Nat) (ptes : FMap Nat) : Bool := (ctx == x.ctx && decide (gen < x.gen)) || ptes.any (fun p => pteG p.2)

/-- Bytes that the cores of a die hold for a later access at a physical address that the shootdown makes old (R100): of open regions, but for
those of the group that waits at the TLBI, and of ordered sets (R240, R271). -/
def State.holdsOld (s : State) (die : Nat) (x : Shoot) : Bool :=
  s.teams.any (fun e => e.2.dieOf == die && (List.range e.2.threads.length).any (fun tid =>
    !(e.1 == x.team && (FMap.get? e.2.groups x.grp).any (fun g => g.tids.contains tid)) &&
    (e.2.thread tid).region.any (fun r => r.gen.any (fun g => x.covers e.2.ctx g r.ptes)))) ||
  s.ops.any (fun o => o.2.core / 192 == die && !o.2.done && (match o.2.kind with
    | .reduceOrd _ _ _ _ => !o.2.got.isEmpty && x.covers o.2.ctx o.2.gen o.2.ptes
    | _ => false))

/-- The lines of a core's non-coherent ranges with stores that the shootdown waits for: they leave the cache (R100, R115). -/
def State.oldNc (s : State) (core : Nat) (x : Shoot) : List (Nat × CLine) :=
  (s.core core).lines.filter (fun l => l.2.nc && !l.2.runs.isEmpty && l.2.whose.any (fun w => x.covers w.1 w.2 [(0, l.2.pte)]))

/-- A held access goes through the page tables. -/
def Later.mapped (l : Later) : Bool :=
  match l.instr with
  | .lds _ _ _ _ _ => false
  | .sts _ _ _ _ _ => false
  | .atoms _ _ _ _ _ _ => false
  | .binit _ _ _ _ g => g == 1
  | .barrive _ _ _ g => g == 1
  | .bexpect _ _ _ _ g => g == 1
  | _ => true

/-- Accesses translated by the die are on their way, held behind an acquire or for their lines (R42, R393), that the shootdown waits for (R100): every one
of its context that issued under an older generation, whatever its page, and every one that issued with a global translation which it invalidates. Those of
a saved team too keep the translations of their issue. -/
def State.latersOld (s : State) (die : Nat) (x : Shoot) : Bool :=
  s.teams.any (fun e => e.2.laters.any (fun l => l.die == die && l.mapped &&
    ((e.2.ctx == x.ctx && decide (l.gen < x.gen)) || l.tlb.any (fun t => t.g && x.hits t))))

/-- TLB_SHOOTDOWN_ACK (R100): once the accesses of the die's cores have performed at their homes, its translations go and it
acknowledges. -/
def execTlbShootdownAck (die shoot : Nat) (s : State) : Out :=
  .next (match s.shoots.find? (fun x => x.id == shoot) with
  | none => s
  | some x =>
    let cores := (s.cores.map Prod.fst).filter (fun c => c / 192 == die)
    let flying := s.units.crumbs.any (fun c => c.die == die && x.covers c.ctx c.gen [(0, c.pte)]) || s.units.greqs.any (fun q => ((s.team? (regionOf q.region).1).map (fun tm => tm.dieOf == die)).getD false)
    if !x.dies.contains die || flying || s.holdsOld die x || s.latersOld die x || !cores.all (fun c => s.canRelease c && (s.oldNc c x).all (fun l => s.canWriteBack l.1 l.2)) then s
    else
      let s := cores.foldl (fun (s : State) c => (s.oldNc c x).foldl (fun s l => s.dropLine c l.1) (s.release c)) s
      let s := s.updDie die (fun d => { d with tlb := d.tlb.filter (fun t => !x.hits t) })
      let left := { x with dies := x.dies.filter (· != die) }
      let alive := ((s.team? x.team).bind (fun tm => FMap.get? tm.groups x.grp)).isSome
      let shoots := s.shoots.map (fun y => if y.id = shoot then left else y)
      { s with shoots := if left.dies.isEmpty && !alive then shoots.filter (fun y => y.id != shoot) else shoots })

-- Flits, host writes, failures.

/-- The doorbells (R373). -/
def doorbellBase : Nat := mmioBase + 0x10000
def isDoorbell (pa : Nat) : Bool := decide (doorbellBase ≤ paLocal pa) && decide (paLocal pa < doorbellBase + 0x2000)

/-- The host reaches memory, and of the MMIO range the doorbells and the boot page (R373). -/
def hostReaches (pa : Nat) : Bool :=
  isMem pa || isDoorbell pa || (decide (mmioBase ≤ paLocal pa) && decide (paLocal pa < mmioBase + 0x1000))

/-- How the host, a control core or the fabric writes: none of the writes that raise a watch (R317). -/
def outHow : HomeW := { watch := false }

/-- A write waits to be tried again at the next clock. -/
def State.postpone (s : State) (pa : Nat) (bs : List Byte) : State := { s with units := { s.units with late := s.units.late ++ [(pa, bs)] } }

/-- The pages that a range of memory touches. -/
def pagesOf (pa n : Nat) : List Nat := (List.range ((pa % 4096 + n + 4095) / 4096)).map (fun i => (pa / 4096 + i) * 4096)

/-- A write from outside the cores at its home (R388): it waits while a page of it is held elsewhere or a granule is sealed; a doorbell
waits for the writes before it (R379). -/
def State.outWrite (s : State) (pa : Nat) (bs : List Byte) : State :=
  let held := if isMem pa then (pagesOf pa bs.length).filter (fun p => s.needsGrant none p true) else []
  if !held.isEmpty then (held.foldl (fun (s : State) p => s.askGrant p true) s).postpone pa bs
  else if isMem pa && s.sealedIn pa bs.length then s.postpone pa bs
  else if isDoorbell pa && !s.units.late.isEmpty then s.postpone pa bs
  else s.homeWriteN outHow pa bs (bs.length / 128 + 2)

/-- The parts of a range of bytes, page by page. -/
def pageParts (pa : Nat) (bs : List Byte) : List (Nat × List Byte) :=
  (pagesOf pa bs.length).map (fun p => let a := max pa p; (a, (bs.drop (a - pa)).take (p + 4096 - a)))

/-- HOST_WRITE (R373, R388): a host write performs at its home, page by page; what falls on a place that the host does not reach has no effect. -/
def execHostWrite (pa : Nat) (data : List (BitVec 8)) (s : State) : Out :=
  .next ((pageParts pa data).foldl (fun (s : State) p => if hostReaches p.1 then s.outWrite p.1 p.2 else s) s)

/-- CONTROL_CORE_ACCESS (R80): a load or store of 2^w bytes by a control core; a load leaves the state as it is, and a store of fewer than 4 bytes, or
off its own alignment, does not reach a window structure (log 54). -/
def execControlCoreAccess (write : Bool) (pa w : Nat) (v : BitVec 64) (s : State) : Out :=
  .next (if write && !narrowWindow pa (min (2 ^ w) 8) then s.outWrite pa (natLe (min (2 ^ w) 8) v.toNat) else s)

/-- FLIT_RECEIVE (R387): a flit that fails its check is retried at link level; an intact one performs at its home, once no seal holds it (R275). It
raises the watches of R317 when it carries a write of that rule's list, which the event does not say: a free value (log 10). -/
def execFlitReceive (intact : Bool) (pa : Nat) (data : List (BitVec 8)) (s : State) : Out :=
  .next (
    if !intact then { s with links := { s.links with retries := s.links.retries + 1 } }
    else if isMem pa && s.sealedIn pa data.length then s.postpone pa data
    else ({ s with freeCtr := s.freeCtr + 1 }).homeWriteN { watch := (Config.freeWord s.freeCtr pa).getLsbD 0 } pa data (data.length / 128 + 2))

/-- What is kept under addresses of one package, in units of `unit` bytes, is kept under those of another from now on; what stood there goes. -/
def rekey {α : Type} (unit old new : Nat) (m : FMap α) : FMap α :=
  let w := 2 ^ 44 / unit
  let kept := m.filter (fun e => e.1 / w != old && e.1 / w != new)
  (m.filter (fun e => e.1 / w == old)).foldl (fun m e => FMap.set m (new * w + e.1 % w) e.2) kept

/-- Everything that the package keeps by its own physical addresses when it takes another id (R75, R389): memory, codes, the records of its slices
and of its holders, and its cores' copies of its own lines. -/
def State.renumber (s : State) (new : Nat) : State :=
  let old := s.links.pkg
  let at_ (unit a : Nat) : Nat := if a / (2 ^ 44 / unit) = old then new * (2 ^ 44 / unit) + a % (2 ^ 44 / unit) else a
  let own (a : Nat) : Bool := a / 2 ^ 44 == old
  let kept := s.mem.filter (fun c => !own c.1 && c.1 / 2 ^ 44 != new)
  let mem := (s.mem.filter (fun c => own c.1)).foldl (fun (m : Memory) c => m.store (new * 2 ^ 44 + paLocal c.1) c.2) kept
  let u := s.units
  let units := { u with
    defer := u.defer.map (fun d => (at_ 1 d.1, d.2)), locks := rekey 1 old new u.locks, heldArr := u.heldArr.map (fun h => (if h.1 < 2 ^ 60 then at_ 1 h.1 else h.1, h.2)),
    owner := rekey 4 old new u.owner, dir := rekey 128 old new u.dir, gran := rekey 32 old new u.gran,
    greqs := u.greqs.map (fun q => { q with pa := at_ 1 q.pa, gran := at_ 32 q.gran, own := rekey 1 old new q.own }),
    late := u.late.map (fun w => (at_ 1 w.1, w.2)), scan := u.scan.map (fun m => (at_ 1 m.1, m.2))
    tdcache := u.tdcache.map (fun e => (e.1, e.2.map (fun x => (at_ 2048 x.1, x.2)))) }
  let core (c : CoreSt) : CoreSt := { c with
    lines := rekey 128 old new c.lines, dstores := c.dstores.map (fun d => (at_ 128 d.1, at_ 1 d.2.1, d.2.2)),
    dreads := c.dreads.map (at_ 128), invs := c.invs.map (at_ 128) }
  let sets := s.sets.map (fun e => (e.1, { e.2 with pa := at_ 1 e.2.pa, watch := e.2.watch.map (fun w => (at_ 4096 w.1, w.2)) }))
  { s with mem, units, sets, cores := s.cores.map (fun e => (e.1, core e.2)),
           links := { s.links with pkg := new, poison := rekey 64 old new s.links.poison, holders := rekey 4096 old new s.links.holders } }

/-- A spare package takes a failed id (R389): this one, when it is the spare, with all it keeps under its own addresses; else the id has its route
again. -/
def State.takeOver (s : State) (pkg : Nat) : State :=
  let failed := s.links.failed.filter (· != pkg)
  let s := if s.links.spare then s.renumber pkg else s
  { s with links :=
      if s.links.spare then { s.links with spare := false, failed } else { s.links with routes := dedup (s.links.routes ++ [pkg]), failed } }

/-- The failed ids that a spare takes in this clock: when it does, within the step's budget, is a free value (log 10). -/
def State.spares (s : State) : State :=
  if s.links.failed.isEmpty then s
  else s.links.failed.foldl (fun (s : State) p => if (Config.freeWord s.freeCtr p).getLsbD 0 then s.takeOver p else s) { s with freeCtr := s.freeCtr + 1 }

/-- PACKAGE_FAILURE (R389): the failed id loses its route; what it held or owed is gone. -/
def execPackageFailure (pkg : Nat) (s : State) : Out :=
  .next (
    let away (m : FMap Bool) : FMap Bool := m.filter (fun e => paPkg (e.1 * 4096) != pkg)
    let holders := s.links.holders.map (fun e =>
      let h := e.2
      let ptrs := h.ptrs.filter (· != pkg)
      (e.1, { h with ptrs, recalls := h.recalls.filter (· != pkg), reqs := h.reqs.filter (fun r => r.1 != pkg)
                     st := if !h.crs && ptrs.isEmpty then 0 else h.st }))
    let links := { s.links with routes := s.links.routes.filter (· != pkg), failed := dedup (s.links.failed ++ [pkg]), held := away s.links.held
                                wants := away s.links.wants, holders }
    holders.foldl (fun (s : State) e => s.serve e.1 (e.2.reqs.length + 1)) { s with links })

/-- THERMAL_THROTTLE and THROTTLE_END (R390). -/
def execThermalThrottle (cluster : Nat) (s : State) : Out :=
  .next { s with links := { s.links with throttled := dedup (s.links.throttled ++ [cluster]) } }
def execThrottleEnd (cluster : Nat) (s : State) : Out :=
  .next { s with links := { s.links with throttled := s.links.throttled.filter (· != cluster) } }

/-- CONTROL_LOOP_RETUNE (R390): traffic does not stop. -/
def execControlLoopRetune (s : State) : Out := .next { s with links := { s.links with retunes := s.links.retunes + 1 } }

/-- LIFE_RECORD_UPDATE (R391): a record on NVMe, which the package does not hold; the updates are counted. -/
def execLifeRecordUpdate (s : State) : Out := .next { s with links := { s.links with lifeRecords := s.links.lifeRecords + 1 } }

end Sys2Proof.Machine
end

