-- ==== Sys2Proof/Machine/System.lean ====
section
/-!
DEFINITION. The host side: doorbells, queues and their commands (R377-R381, R394), the events of MMIO registers (R326, R373, R375,
R382, R383), reset, boot and attestation (R384-R386).
-/

namespace Sys2Proof.Machine

-- Doorbells and replicas.

/-- DOORBELL (R379): accepted or ignored, after the host writes before it. -/
def execDoorbell (q : Nat) (wp : BitVec 64) (s : State) : Out :=
  .next (if s.units.late.isEmpty then s.ring q wp.toNat
    else { s with units := { s.units with late := s.units.late ++ [(s.local (doorbellBase + 8 * q), natLe 8 wp.toNat)] } })

/-- REPLICA_INVALIDATE (R378): the die fetches the record again before it uses it. -/
def execReplicaInvalidate (die q : Nat) (s : State) : Out :=
  .next (s.updDie die (fun d => { d with replicas := FMap.erase d.replicas q }))

-- Commands.

/-- How a queue's owner die translates for the queue's context. -/
def State.queueXlat (s : State) (q : Nat) : Xlat :=
  let n := s.qfield q 90 80
  ⟨s.qfield q 97 96, n, (s.ctx n).root.toNat, (s.ctx n).priv⟩

/-- A queue has an access parked in the fault queue (R394). -/
def State.cmdHeld (s : State) (q : Nat) : Bool := s.faults.any (fun f => f.2.agent == .command && f.2.op == q)

/-- A failed access of a command parks, or waits for an entry (R394); a device write is marked by its destination. -/
def State.parkCmd (s : State) (q : Nat) (va : DWord) (write : Bool) : State :=
  let ctx := s.qfield q 90 80
  if 64 ≤ s.queued none ctx then s
  else
    let (fid, s) := s.newId
    { s with faults := FMap.set s.faults fid { team := none, ctx, agent := .command, op := q, va,
                                                   chunks := if write then [⟨.skip, .glob va, 1, 0, .move⟩] else [] } }

/-- A command's field of n bytes. -/
def Cmd.num (c : Cmd) (at_ n : Nat) : Nat := leNat ((c.bytes.drop at_).take n)
def Cmd.va (c : Cmd) (at_ : Nat) : DWord := BitVec.ofNat 64 (c.num at_ 8)

/-- The end of the operands that an op uses (R380). -/
def opEnd (op : Nat) : Nat :=
  match op with
  | 1 => 40
  | 4 => 32
  | 5 => 60
  | 7 => 26
  | _ => 24

/-- A command that completes with status badop (R380). -/
def Cmd.badop (c : Cmd) : Bool :=
  let op := c.num 0 1
  op == 0 || decide (7 < op) || c.num 1 3 != 0 || c.num (opEnd op) 64 != 0 || (op == 1 && bits (c.num 30 1) 7 2 != 0) || (op == 4 && c.num 27 1 != 0) ||
  (op == 5 && (bit (c.num 32 1) 3 || (c.num 32 1 % 4 == 1 && bits (c.num 32 4) 31 4 != 0)))

/-- QUEUE_FETCH (R377, R378, R380, R381, R384): the running kernel fetches the next entry, once the previous command has completed. -/
def execQueueFetch (q : Nat) (s : State) : Out :=
  .next (
    let rp := s.qfield q 255 192
    let x := s.queueXlat q
    let ok := s.boot.state == 2 && decide (q < 1024) && s.qfield q 75 75 == 1 && s.qfield q 76 76 == 0 && s.qRlogOk q && decide (rp < s.qfield q 191 128) &&
      (s.ctx x.ctx).v && (FMap.get? s.cmds q).isNone
    if !ok then s
    else
      let va : DWord := BitVec.ofNat 64 (s.qfield q 63 0 + 64 * (rp % 2 ^ s.qfield q 68 64))
      match s.vget x va 64 with
      | .wait pa => s.askGrant pa false
      | .fail a => { s with mem := s.mem.storeNum (s.queueAt q + 40) 8 a.toNat }.qUpdate q 76 1 1
      | .data str _ pa =>
        let c : Cmd := { bytes := [], entry := va, stage := 3, status := 9 }
        ({ s with cmds := FMap.set s.cmds q c }).contextMc x.die str x.ctx pa
      | .ok bs =>
        let c : Cmd := { bytes := bs, entry := va }
        ({ s with cmds := FMap.set s.cmds q (if c.badop then { c with stage := 3, status := 13 } else c) }).vroute x va 64)

/-- A command begins: it is the op's, fetched, and nothing of its queue is parked. -/
def State.begins (s : State) (q op : Nat) (k : Cmd → Xlat → State) : State :=
  match FMap.get? s.cmds q with
  | none => s
  | some c => if c.stage ≠ 1 || c.num 0 1 ≠ op || s.cmdHeld q then s else k c (s.queueXlat q)

/-- A command is to complete with a status. -/
def State.cmdEnd (s : State) (q st : Nat) : State := { s with cmds := FMap.upd s.cmds q (fun c => { c with stage := 3, status := st }) }
/-- A command goes on until something ends it. -/
def State.cmdRun (s : State) (q : Nat) (op : Option Nat) : State := { s with cmds := FMap.upd s.cmds q (fun c => { c with stage := 2, op }) }

/-- What an operation gives a command: its status, a wait, a parked access, or a data error, which no thread can take (R364). -/
def State.cmdRes (s : State) (q : Nat) (r : Res) (k : State → List Nat → State) : State :=
  match r with
  | .done s v => k s v
  | .wait s => s
  | .bad s b => (s.contextMc (s.queueXlat q).die b.1 (s.queueXlat q).ctx b.2.2).cmdEnd q 9
  | .fail va w => s.parkCmd q va w

/-- LAUNCH (R380): it completes when the last of its teams retires. -/
def execLaunch (q : Nat) (s : State) : Out :=
  .next (s.begins q 1 (fun c x =>
    let a : Ask := { rec_ := c.va 16, ext := (c.num 24 2, c.num 26 2, c.num 28 2), curve := c.num 30 1 % 4, cohort := c.num 31 1,
                     prio := s.qfield q 73 72, table := c.va 32, cmd := some q }
    s.cmdRes q (s.opLaunch x a) (fun s v => if nth v 1 = 0 then s.cmdRun q none else s.cmdEnd q (nth v 1))))

/-- START_SET (R335, R380). -/
def execStartSet (q : Nat) (s : State) : Out :=
  .next (s.begins q 2 (fun c x => s.cmdRes q (s.opStart x (c.va 16) c.dead) (fun s v => s.cmdEnd q (nth v 0 / 2 ^ 32))))

/-- STOP_SET (R336, R380): it completes with the stop. -/
def execStopSet (q : Nat) (s : State) : Out :=
  .next (s.begins q 3 (fun c x => s.cmdRes q (s.opStop x (c.va 16) none (some q)) (fun s v =>
    match v with
    | [] => s.cmdRun q none
    | w :: _ => s.cmdEnd q (w / 2 ^ 32))))

/-- RAISE (R333, R380). -/
def execRaise (q : Nat) (s : State) : Out :=
  .next (s.begins q 4 (fun c x => s.cmdRes q (s.opRaise x (c.va 16) (c.num 24 3) (c.num 28 4)) (fun s v => s.cmdEnd q (nth v 1))))

/-- COPY (R380): an engine copy without a team; it completes with the copy. -/
def execCopy (q : Nat) (s : State) : Out :=
  .next (s.begins q 5 (fun c x =>
    let args := [c.va 16, c.va 24, c.va 32, c.va 40, c.va 48, BitVec.ofNat 64 (c.num 56 4)]
    let (id, s) := s.addOp { team := none, ctx := x.ctx, tid := 0, hdr := 0, core := x.die * 192, priv := x.priv, cls := 4,
                             kind := .record .cpy args, chunks := [⟨.skip, .skip, 0, 0, .record⟩] }
    s.cmdRun q (some id)))

/-- SIGNAL (R380): one arrival. -/
def execSignal (q : Nat) (s : State) : Out :=
  .next (s.begins q 6 (fun c x =>
    let va := c.va 16
    if va.toNat % 16 ≠ 0 then s.cmdEnd q 5
    else match s.arriveAt x va with
      | .ok s => s.cmdEnd q 0
      | .error none => s.unitAsk x va
      | .error (some a) => s.parkCmd q a false))

/-- WAIT (R250, R380): it completes once the phase has ended, or with status data when a look at the object meets a data error (R364). It raises the
machine check of an object without a route once (R387; log 53). -/
def execWait (q : Nat) (s : State) : Out :=
  .next (s.begins q 7 (fun c x =>
    let va := c.va 16
    if va.toNat % 16 ≠ 0 then s.cmdEnd q 5
    else match s.xlate x false va .rmw with
      | .error _ => s.parkCmd q va false
      | .ok e =>
        if s.needsGrant (some e) (paOf e va) false then s.askGrant (paOf e va) false
        else
          let s := if c.seen then s
            else ({ s with cmds := FMap.upd s.cmds q (fun c => { c with seen := true }) }).noRoute x.die x.ctx (paOf e va)
          if let some str := s.poisoned (paOf e va) 16 then (s.contextMc x.die str x.ctx (paOf e va)).cmdEnd q 9
          else if (Phase.ofNat (s.phGet (.mem (paOf e va) e))).past (c.num 24 2) then s.cmdEnd q 0 else s))

/-- The end of a command (R380, R394): the completion word, the arrival, then rp; a failed access parks, and one that was declared
unserviceable is dropped. -/
def State.complete (s : State) (q : Nat) (c : Cmd) : State :=
  let x := s.queueXlat q
  let fin (s : State) : State :=
    let s := s.qUpdate q 192 64 (s.qfield q 255 192 + 1)
    { s with cmds := FMap.erase s.cmds q }
  let arrive (s0 : State) : State :=
    let ph := c.va 8
    if ph = 0 then fin s0
    else match s0.deadArrive c.dead x ph with
      | .ok s => fin s
      | .error none => s.unitAsk x ph
      | .error (some a) => s.parkCmd q a true
  match s.deadWrite c.dead x (c.entry + 4) (natLe 4 (c.status + c.count * 2 ^ 8)) with
  | .ok s => arrive s
  | .error none => s.unitAsk x (c.entry + 4)
  | .error (some a) => s.parkCmd q a true

/-- COMMAND_COMPLETE (R380). -/
def execCommandComplete (q : Nat) (s : State) : Out :=
  .next (match FMap.get? s.cmds q with
  | none => s
  | some c =>
    if s.cmdHeld q then s
    else match c.stage, c.op with
      | 3, _ => s.complete q c
      | 2, some id =>
        match s.op? id with
        | some o =>
          if !o.done then s
          else
            let c := { c with stage := 3, status := o.final, op := none }
            ({ s with ops := FMap.erase s.ops id, cmds := FMap.set s.cmds q c }).complete q c
        | none => s
      | _, _ => s)

/-- QUEUE_SUSPEND_CLEAR (R381). -/
def execQueueSuspendClear (q : Nat) (s : State) : Out := .next (if q < 1024 then s.qUpdate q 76 1 0 else s)

-- MMIO registers (R373).

/-- CTLOAD (R375). -/
def execCtload (n : Nat) (s : State) : Out := .next (s.loadCtx n)
/-- FWCTL_APPLY (R326). -/
def execFwctlApply (s : State) : Out := .next s.fwApply
/-- FWCTL_BAD_CLEAR (R326). -/
def execFwctlBadClear (s : State) : Out := .next { s with mmio := { s.mmio with bad := false } }
/-- MCR_ACK (R382). -/
def execMcrAck (s : State) : Out := .next { s with mmio := { s.mmio with mcr := s.mmio.mcr.drop 1 } }
/-- IRQ_RP_WRITE (R383). -/
def execIrqRpWrite (die : Nat) (v : BitVec 32) (s : State) : Out := .next (s.updDie die (fun d => { d with irqRp := v }))
/-- IRQ_LOST_CLEAR (R383). -/
def execIrqLostClear (die : Nat) (s : State) : Out := .next (s.updDie die (fun d => { d with irqLost := 0 }))

/-- REGISTER_WRITE (R373): a register of the map takes a value under the map's rules. -/
def execRegisterWrite (off : Nat) (v : BitVec 64) (s : State) : Out :=
  .next (if mmioNarrow off then s.setMmio4 (off / 4 * 4) (v.toNat % 2 ^ 32) else s.setMmio8 (off / 8 * 8) v.toNat)

/-- The external interrupt line of a die's control cluster (R383). -/
def State.irqLine (s : State) (d : Nat) : Bool := (s.die d).irqRp != (s.die d).irqWp

-- Reset, boot, attestation.

/-- Memory after a device reset: the entries of the tile directory read 0 (R6, R302, R374), those backed in the 2 GiB from the tdbase that was in
force, and those backed from the tdbase that the reset leaves; the rest holds what it held (log 24). -/
def State.keptMem (s : State) : Memory :=
  let out (base : Nat) (a : Nat) : Bool := decide (a < base) || decide (base + 2 ^ 31 ≤ a)
  s.mem.filter (fun c => out (s.local s.mmio.tdbase.toNat) c.1 && out (s.local State.reset.mmio.tdbase.toNat) c.1)

/-- DEVICE_RESET (R6, R384): everything but memory takes its reset value, and the ROM starts. -/
def execDeviceReset (s : State) : Out :=
  .next { State.reset with
    mem := s.keptMem, agenda := s.agenda, clock := s.clock, freeCtr := s.freeCtr, nextId := s.nextId
    links := { State.reset.links with pkg := s.links.pkg, spare := s.links.spare, pool := s.links.pool, poison := s.links.poison }
    boot := { State.reset.boot with state := 1 } }

/-- The ROM's verdict on a source (R384): 0 passes, else a reason of R386; it is 3, rollback, just for an otherwise good image below the fused
counter. -/
def State.verdict (s : State) (src : Nat) : Nat :=
  let r := nth [0, 1, 2, 4] ((Config.imageReason src s.freeCtr).toNat % 4)
  if r = 0 && decide ((Config.imageRollback src s.freeCtr).toNat < Config.fusedRollback.toNat) then 3 else r

/-- A verified image runs (R384, R386), and its kernel loads the routing table (R387). -/
def State.start (s : State) (src : Nat) : State :=
  { s with links := { s.links with routes := (Config.routes s.freeCtr).filter (fun p => !s.links.failed.contains p) }
           boot := { s.boot with state := 2, source := src, rollback := Config.imageRollback src s.freeCtr, digest := Config.imageDigest src s.freeCtr },
           freeCtr := s.freeCtr + 1 }

/-- An image failed: the package is in recovery (R384, R386). -/
def State.fail (s : State) (src reason : Nat) : State :=
  { s with boot := { s.boot with state := 3, source := src, reason }, freeCtr := s.freeCtr + 1 }

/-- BOOT_IMAGE_VERIFIED (R384): SPI flash first, then NVMe. -/
def execBootImageVerified (s : State) : Out :=
  .next (
    if s.boot.state ≠ 1 then s
    else if s.verdict 1 = 0 then s.start 1
    else if s.verdict 2 = 0 then { s with boot := { s.boot with reason := s.verdict 1 } }.start 2
    else s.fail 2 (s.verdict 2))

/-- RWGO (R386). -/
def execRwgo (v : BitVec 64) (s : State) : Out := .next (s.rwGo v)

/-- RECOVERY_IMAGE_VERIFIED (R386). -/
def execRecoveryImageVerified (s : State) : Out :=
  .next (if s.boot.state ≠ 4 then s else if s.verdict 3 = 0 then s.start 3 else s.fail 3 (s.verdict 3))

/-- ATGO (R386). -/
def execAtgo (v : BitVec 64) (s : State) : Out := .next (s.atGo v)

/-- The signed part of a report (R385, R386): nonce, digest, rollback counter, zero, part number. -/
def Boot.statement (b : Boot) : BitVec 896 :=
  BitVec.ofNat 896 (b.nonce.toNat + b.digest.toNat * 2 ^ 256 + b.rollback.toNat * 2 ^ 768 + 0x383637422D375646 * 2 ^ 832)

/-- ATTEST_REPORT_READY (R385, R386). The report takes the nonce and the digest as they are now (log 69). -/
def execAttestReportReady (s : State) : Out :=
  .next (
    if !s.boot.busy then s
    else
      let m := s.boot.statement
      let report := BitVec.ofNat 1808 (m.toNat + (Config.ed448Sign m).toNat * 2 ^ 896)
      { s with boot := { s.boot with report, busy := false, ready := true } })

end Sys2Proof.Machine
end

