-- ==== Sys2Proof/Machine/Dispatch.lean ====
section
/-! DEFINITION. The dispatch: one arm per constructor of Instr, each a direct call of its meaning. -/

namespace Sys2Proof.Machine

def exec (i : Instr) (s : State) : Host.Outcome State Fault Refusal :=
  match i with
  | .runh len trl pred sense chk => Sys2Proof.Machine.execRunh len trl pred sense chk s
  | .runt c0 c1 c2 cnt => Sys2Proof.Machine.execRunt c0 c1 c2 cnt s
  | .bra cond sense off => Sys2Proof.Machine.execBra cond sense off s
  | .call v imm => Sys2Proof.Machine.execCall v imm s
  | .ret v => Sys2Proof.Machine.execRet v s
  | .jmpk k => Sys2Proof.Machine.execJmpk k s
  | .exit => Sys2Proof.Machine.execExit s
  | .pwaitS st k v => Sys2Proof.Machine.execPwaitS st k v s
  | .pwaitG st k v => Sys2Proof.Machine.execPwaitG st k v s
  | .pwaitCnt st cnt thr => Sys2Proof.Machine.execPwaitCnt st cnt thr s
  | .pwaitFence st v => Sys2Proof.Machine.execPwaitFence st v s
  | .pwaitLock st v => Sys2Proof.Machine.execPwaitLock st v s
  | .sign st n => Sys2Proof.Machine.execSign st n s
  | .cvset st n y => Sys2Proof.Machine.execCvset st n y s
  | .elect st p => Sys2Proof.Machine.execElect st p s
  | .trap st n => Sys2Proof.Machine.execTrap st n s
  | .bkpt st n => Sys2Proof.Machine.execBkpt st n s
  | .yield st => Sys2Proof.Machine.execYield st s
  | .eret st => Sys2Proof.Machine.execEret st s
  | .eretSkip st => Sys2Proof.Machine.execEretSkip st s
  | .kadd st d a b => Sys2Proof.Machine.execKadd st d a b s
  | .ksub st d a b => Sys2Proof.Machine.execKsub st d a b s
  | .kmul st d a b => Sys2Proof.Machine.execKmul st d a b s
  | .kand st d a b => Sys2Proof.Machine.execKand st d a b s
  | .kor st d a b => Sys2Proof.Machine.execKor st d a b s
  | .kxor st d a b => Sys2Proof.Machine.execKxor st d a b s
  | .kshl st d a b => Sys2Proof.Machine.execKshl st d a b s
  | .kshr st d a b => Sys2Proof.Machine.execKshr st d a b s
  | .ksar st d a b => Sys2Proof.Machine.execKsar st d a b s
  | .kmin st d a b => Sys2Proof.Machine.execKmin st d a b s
  | .kmax st d a b => Sys2Proof.Machine.execKmax st d a b s
  | .kminn st d a b => Sys2Proof.Machine.execKminn st d a b s
  | .kmaxn st d a b => Sys2Proof.Machine.execKmaxn st d a b s
  | .kcmp st a b => Sys2Proof.Machine.execKcmp st a b s
  | .kaddi st d a y => Sys2Proof.Machine.execKaddi st d a y s
  | .kldi d h k y => Sys2Proof.Machine.execKldi d h k y s
  | .kld st d a o w h => Sys2Proof.Machine.execKld st d a o w h s
  | .kst st d a o w h => Sys2Proof.Machine.execKst st d a o w h s
  | .krd st k e => Sys2Proof.Machine.execKrd st k e s
  | .kwr st k e => Sys2Proof.Machine.execKwr st k e s
  | .kmovv st k v => Sys2Proof.Machine.execKmovv st k v s
  | .movk st k v => Sys2Proof.Machine.execMovk st k v s
  | .iadd st m d a b => Sys2Proof.Machine.execIadd st m d a b s
  | .isub st m d a b => Sys2Proof.Machine.execIsub st m d a b s
  | .imul st m d a b => Sys2Proof.Machine.execImul st m d a b s
  | .imad st m d a b => Sys2Proof.Machine.execImad st m d a b s
  | .imin st m d a b => Sys2Proof.Machine.execImin st m d a b s
  | .imax st m d a b => Sys2Proof.Machine.execImax st m d a b s
  | .addmin st m d a b => Sys2Proof.Machine.execAddmin st m d a b s
  | .addmax st m d a b => Sys2Proof.Machine.execAddmax st m d a b s
  | .and st d a b => Sys2Proof.Machine.execAnd st d a b s
  | .or st d a b => Sys2Proof.Machine.execOr st d a b s
  | .xor st d a b => Sys2Proof.Machine.execXor st d a b s
  | .andn st d a b => Sys2Proof.Machine.execAndn st d a b s
  | .shl st d a b => Sys2Proof.Machine.execShl st d a b s
  | .shr st d a b => Sys2Proof.Machine.execShr st d a b s
  | .sar st d a b => Sys2Proof.Machine.execSar st d a b s
  | .rol st d a b => Sys2Proof.Machine.execRol st d a b s
  | .popc st d a => Sys2Proof.Machine.execPopc st d a s
  | .clz st d a => Sys2Proof.Machine.execClz st d a s
  | .ctz st d a => Sys2Proof.Machine.execCtz st d a s
  | .brev st d a => Sys2Proof.Machine.execBrev st d a s
  | .not st d a => Sys2Proof.Machine.execNot st d a s
  | .abs st d a => Sys2Proof.Machine.execAbs st d a s
  | .neg st d a => Sys2Proof.Machine.execNeg st d a s
  | .bfx st d a b => Sys2Proof.Machine.execBfx st d a b s
  | .bfxS st d a b => Sys2Proof.Machine.execBfxS st d a b s
  | .bfi st d a b => Sys2Proof.Machine.execBfi st d a b s
  | .icmp st m p c a b => Sys2Proof.Machine.execIcmp st m p c a b s
  | .fcmp st m p c a b => Sys2Proof.Machine.execFcmp st m p c a b s
  | .sel st p d a b => Sys2Proof.Machine.execSel st p d a b s
  | .plog st d c a b => Sys2Proof.Machine.execPlog st d c a b s
  | .fadd st m d a b => Sys2Proof.Machine.execFadd st m d a b s
  | .fmul st m d a b => Sys2Proof.Machine.execFmul st m d a b s
  | .ffma st m d a b => Sys2Proof.Machine.execFfma st m d a b s
  | .fmin st d a b => Sys2Proof.Machine.execFmin st d a b s
  | .fmax st d a b => Sys2Proof.Machine.execFmax st d a b s
  | .fminNum st d a b => Sys2Proof.Machine.execFminNum st d a b s
  | .fmaxNum st d a b => Sys2Proof.Machine.execFmaxNum st d a b s
  | .hadd st d a b => Sys2Proof.Machine.execHadd st d a b s
  | .hmul st d a b => Sys2Proof.Machine.execHmul st d a b s
  | .hfma st d a b => Sys2Proof.Machine.execHfma st d a b s
  | .hfmaBf16x2 st d a b => Sys2Proof.Machine.execHfmaBf16x2 st d a b s
  | .dadd st d a b => Sys2Proof.Machine.execDadd st d a b s
  | .dmul st d a b => Sys2Proof.Machine.execDmul st d a b s
  | .dfma st d a b => Sys2Proof.Machine.execDfma st d a b s
  | .fneg st d a => Sys2Proof.Machine.execFneg st d a s
  | .fabs st d a => Sys2Proof.Machine.execFabs st d a s
  | .frcp st m d a => Sys2Proof.Machine.execFrcp st m d a s
  | .fsqrt st m d a => Sys2Proof.Machine.execFsqrt st m d a s
  | .frsq st d a => Sys2Proof.Machine.execFrsq st d a s
  | .fexp2 st d a => Sys2Proof.Machine.execFexp2 st d a s
  | .flog2 st d a => Sys2Proof.Machine.execFlog2 st d a s
  | .fsin st d a => Sys2Proof.Machine.execFsin st d a s
  | .fcos st d a => Sys2Proof.Machine.execFcos st d a s
  | .dneg st d a => Sys2Proof.Machine.execDneg st d a s
  | .dabs st d a => Sys2Proof.Machine.execDabs st d a s
  | .drcp st m d a => Sys2Proof.Machine.execDrcp st m d a s
  | .dsqrt st m d a => Sys2Proof.Machine.execDsqrt st m d a s
  | .cvt st m d a t r => Sys2Proof.Machine.execCvt st m d a t r s
  | .iaddi st d a y => Sys2Proof.Machine.execIaddi st d a y s
  | .andi st d a y => Sys2Proof.Machine.execAndi st d a y s
  | .ori st d a y => Sys2Proof.Machine.execOri st d a y s
  | .xori st d a y => Sys2Proof.Machine.execXori st d a y s
  | .shli st d a n => Sys2Proof.Machine.execShli st d a n s
  | .shri st d a n => Sys2Proof.Machine.execShri st d a n s
  | .sari st d a n => Sys2Proof.Machine.execSari st d a n s
  | .roli st d a n => Sys2Proof.Machine.execRoli st d a n s
  | .movi st d y => Sys2Proof.Machine.execMovi st d y s
  | .shfl st m d a b => Sys2Proof.Machine.execShfl st m d a b s
  | .voteAny st d p => Sys2Proof.Machine.execVoteAny st d p s
  | .voteAll st d p => Sys2Proof.Machine.execVoteAll st d p s
  | .voteBallot st d p => Sys2Proof.Machine.execVoteBallot st d p s
  | .credAdd st t d a => Sys2Proof.Machine.execCredAdd st t d a s
  | .credMin st t d a => Sys2Proof.Machine.execCredMin st t d a s
  | .credMax st t d a => Sys2Proof.Machine.execCredMax st t d a s
  | .cscanIncl st t d a => Sys2Proof.Machine.execCscanIncl st t d a s
  | .cscanExcl st t d a => Sys2Proof.Machine.execCscanExcl st t d a s
  | .compress st d a p => Sys2Proof.Machine.execCompress st d a p s
  | .expand st d a p => Sys2Proof.Machine.execExpand st d a p s
  | .matchAny st d a => Sys2Proof.Machine.execMatchAny st d a s
  | .lds st w d a o => Sys2Proof.Machine.execLds st w d a o s
  | .sts st w d a o => Sys2Proof.Machine.execSts st w d a o s
  | .atoms st r d a o z => Sys2Proof.Machine.execAtoms st r d a o z s
  | .atomg st r d a o z => Sys2Proof.Machine.execAtomg st r d a o z s
  | .fget st d a p => Sys2Proof.Machine.execFget st d a p s
  | .fput st d a p => Sys2Proof.Machine.execFput st d a p s
  | .qlock st d a p => Sys2Proof.Machine.execQlock st d a p s
  | .qunlock st a => Sys2Proof.Machine.execQunlock st a s
  | .cpy st d a b => Sys2Proof.Machine.execCpy st d a b s
  | .cpyredArr st d a b => Sys2Proof.Machine.execCpyredArr st d a b s
  | .cpyredOrd st d a b => Sys2Proof.Machine.execCpyredOrd st d a b s
  | .icpy st d a b => Sys2Proof.Machine.execIcpy st d a b s
  | .isct st d a b => Sys2Proof.Machine.execIsct st d a b s
  | .sread st d a b => Sys2Proof.Machine.execSread st d a b s
  | .pref st d a b => Sys2Proof.Machine.execPref st d a b s
  | .cflush st d a b => Sys2Proof.Machine.execCflush st d a b s
  | .cinv st d a b => Sys2Proof.Machine.execCinv st d a b s
  | .tclass st d a => Sys2Proof.Machine.execTclass st d a s
  | .fence st c d e => Sys2Proof.Machine.execFence st c d e s
  | .binit st d a b g => Sys2Proof.Machine.execBinit st d a b g s
  | .barrive st d a g => Sys2Proof.Machine.execBarrive st d a g s
  | .bexpect st d a b g => Sys2Proof.Machine.execBexpect st d a b g s
  | .hins st k q => Sys2Proof.Machine.execHins st k q s
  | .hprobe st k q => Sys2Proof.Machine.execHprobe st k q s
  | .hdel st k q => Sys2Proof.Machine.execHdel st k q s
  | .hacc st u k q => Sys2Proof.Machine.execHacc st u k q s
  | .hdrain st k q => Sys2Proof.Machine.execHdrain st k q s
  | .hstat st k q => Sys2Proof.Machine.execHstat st k q s
  | .hclaim st k q => Sys2Proof.Machine.execHclaim st k q s
  | .hrel st k q => Sys2Proof.Machine.execHrel st k q s
  | .xbegin st e k v => Sys2Proof.Machine.execXbegin st e k v s
  | .xend st k v => Sys2Proof.Machine.execXend st k v s
  | .xabort st n => Sys2Proof.Machine.execXabort st n s
  | .xrd st e v => Sys2Proof.Machine.execXrd st e v s
  | .xld st w d a o => Sys2Proof.Machine.execXld st w d a o s
  | .xst st w d a o => Sys2Proof.Machine.execXst st w d a o s
  | .sclaim st d a => Sys2Proof.Machine.execSclaim st d a s
  | .srel st d a => Sys2Proof.Machine.execSrel st d a s
  | .sclass st d a => Sys2Proof.Machine.execSclass st d a s
  | .mma st c a b u f z n => Sys2Proof.Machine.execMma st c a b u f z n s
  | .mmasp st c a b u f z m => Sys2Proof.Machine.execMmasp st c a b u f z m s
  | .mmag st c a q u f z n => Sys2Proof.Machine.execMmag st c a q u f z n s
  | .azero st k => Sys2Proof.Machine.execAzero st k s
  | .ald st k d => Sys2Proof.Machine.execAld st k d s
  | .ast st k d => Sys2Proof.Machine.execAst st k d s
  | .awin st k => Sys2Proof.Machine.execAwin st k s
  | .ard st k d n h => Sys2Proof.Machine.execArd st k d n h s
  | .awr st k d n h => Sys2Proof.Machine.execAwr st k d n h s
  | .apromo st n => Sys2Proof.Machine.execApromo st n s
  | .scommit st d a b => Sys2Proof.Machine.execScommit st d a b s
  | .sraise st d a b => Sys2Proof.Machine.execSraise st d a b s
  | .squery st d a b => Sys2Proof.Machine.execSquery st d a b s
  | .sstart st d a => Sys2Proof.Machine.execSstart st d a s
  | .sstop st d a => Sys2Proof.Machine.execSstop st d a s
  | .glaunch st d a b p => Sys2Proof.Machine.execGlaunch st d a b p s
  | .qput st d a b p => Sys2Proof.Machine.execQput st d a b p s
  | .srd st k r => Sys2Proof.Machine.execSrd st k r s
  | .swr st k r => Sys2Proof.Machine.execSwr st k r s
  | .tlbi st k => Sys2Proof.Machine.execTlbi st k s
  | .mov d r => Sys2Proof.Machine.execMov d r s
  | .iadd16 d r => Sys2Proof.Machine.execIadd16 d r s
  | .isub16 d r => Sys2Proof.Machine.execIsub16 d r s
  | .imul16 d r => Sys2Proof.Machine.execImul16 d r s
  | .fadd16 d r => Sys2Proof.Machine.execFadd16 d r s
  | .fmul16 d r => Sys2Proof.Machine.execFmul16 d r s
  | .fmin16 d r => Sys2Proof.Machine.execFmin16 d r s
  | .fmax16 d r => Sys2Proof.Machine.execFmax16 d r s
  | .imin16 d r => Sys2Proof.Machine.execImin16 d r s
  | .imax16 d r => Sys2Proof.Machine.execImax16 d r s
  | .and16 d r => Sys2Proof.Machine.execAnd16 d r s
  | .or16 d r => Sys2Proof.Machine.execOr16 d r s
  | .xor16 d r => Sys2Proof.Machine.execXor16 d r s
  | .shl16 d r => Sys2Proof.Machine.execShl16 d r s
  | .shr16 d r => Sys2Proof.Machine.execShr16 d r s
  | .sar16 d r => Sys2Proof.Machine.execSar16 d r s
  | .nop => Sys2Proof.Machine.execNop s
  | .stall n => Sys2Proof.Machine.execStall n s
  | .resultWriteback team y => Sys2Proof.Machine.execResultWriteback team y s
  | .fenceComplete team thread => Sys2Proof.Machine.execFenceComplete team thread s
  | .scratchPageRefill team page => Sys2Proof.Machine.execScratchPageRefill team page s
  | .engineBytesLand op => Sys2Proof.Machine.execEngineBytesLand op s
  | .engineComplete op => Sys2Proof.Machine.execEngineComplete op s
  | .engineRetire team cls => Sys2Proof.Machine.execEngineRetire team cls s
  | .cpyredSetInstall start n => Sys2Proof.Machine.execCpyredSetInstall start n s
  | .slotRelease rel => Sys2Proof.Machine.execSlotRelease rel s
  | .faultUnitPark op => Sys2Proof.Machine.execFaultUnitPark op s
  | .faultReplay fu => Sys2Proof.Machine.execFaultReplay fu s
  | .faultDeclareUnserviceable fu => Sys2Proof.Machine.execFaultDeclareUnserviceable fu s
  | .waiterReevaluate team => Sys2Proof.Machine.execWaiterReevaluate team s
  | .teamPlace die => Sys2Proof.Machine.execTeamPlace die s
  | .teamActivate core => Sys2Proof.Machine.execTeamActivate core s
  | .teamPark core => Sys2Proof.Machine.execTeamPark core s
  | .rotation core => Sys2Proof.Machine.execRotation core s
  | .teamRetire team => Sys2Proof.Machine.execTeamRetire team s
  | .preemptionRequest die => Sys2Proof.Machine.execPreemptionRequest die s
  | .discardRequeue team => Sys2Proof.Machine.execDiscardRequeue team s
  | .teamSave team => Sys2Proof.Machine.execTeamSave team s
  | .preemptionComplete die => Sys2Proof.Machine.execPreemptionComplete die s
  | .prqLateClear die => Sys2Proof.Machine.execPrqLateClear die s
  | .lineReadRequest core line => Sys2Proof.Machine.execLineReadRequest core line s
  | .exclusiveRequest core line => Sys2Proof.Machine.execExclusiveRequest core line s
  | .invalidation core line => Sys2Proof.Machine.execInvalidation core line s
  | .invalidationAck core line => Sys2Proof.Machine.execInvalidationAck core line s
  | .evictionNotice core line => Sys2Proof.Machine.execEvictionNotice core line s
  | .exclusiveGrant core line => Sys2Proof.Machine.execExclusiveGrant core line s
  | .lineWriteback core line => Sys2Proof.Machine.execLineWriteback core line s
  | .holderReadRequest pkg page => Sys2Proof.Machine.execHolderReadRequest pkg page s
  | .holderWriteRequest pkg page => Sys2Proof.Machine.execHolderWriteRequest pkg page s
  | .recallDowngrade page => Sys2Proof.Machine.execRecallDowngrade page s
  | .recallInvalidate page => Sys2Proof.Machine.execRecallInvalidate page s
  | .recallAnswer pkg page => Sys2Proof.Machine.execRecallAnswer pkg page s
  | .holderRelease pkg page => Sys2Proof.Machine.execHolderRelease pkg page s
  | .holderGrant page excl => Sys2Proof.Machine.execHolderGrant page excl s
  | .tlbShootdownAck die shoot => Sys2Proof.Machine.execTlbShootdownAck die shoot s
  | .granuleRequest req => Sys2Proof.Machine.execGranuleRequest req s
  | .narrowing msg => Sys2Proof.Machine.execNarrowing msg s
  | .seal team thread => Sys2Proof.Machine.execSeal team thread s
  | .commitApply team thread => Sys2Proof.Machine.execCommitApply team thread s
  | .raiseAbsorb set => Sys2Proof.Machine.execRaiseAbsorb set s
  | .dispatchSlot die => Sys2Proof.Machine.execDispatchSlot die s
  | .quiescenceRecord set => Sys2Proof.Machine.execQuiescenceRecord set s
  | .sstopComplete set => Sys2Proof.Machine.execSstopComplete set s
  | .doorbell q wp => Sys2Proof.Machine.execDoorbell q wp s
  | .replicaInvalidate die q => Sys2Proof.Machine.execReplicaInvalidate die q s
  | .queueFetch q => Sys2Proof.Machine.execQueueFetch q s
  | .launch q => Sys2Proof.Machine.execLaunch q s
  | .startSet q => Sys2Proof.Machine.execStartSet q s
  | .stopSet q => Sys2Proof.Machine.execStopSet q s
  | .raise q => Sys2Proof.Machine.execRaise q s
  | .copy q => Sys2Proof.Machine.execCopy q s
  | .signal q => Sys2Proof.Machine.execSignal q s
  | .wait q => Sys2Proof.Machine.execWait q s
  | .commandComplete q => Sys2Proof.Machine.execCommandComplete q s
  | .ctload n => Sys2Proof.Machine.execCtload n s
  | .fwctlApply => Sys2Proof.Machine.execFwctlApply s
  | .fwctlBadClear => Sys2Proof.Machine.execFwctlBadClear s
  | .mcrAck => Sys2Proof.Machine.execMcrAck s
  | .irqRpWrite die v => Sys2Proof.Machine.execIrqRpWrite die v s
  | .irqLostClear die => Sys2Proof.Machine.execIrqLostClear die s
  | .registerWrite off v => Sys2Proof.Machine.execRegisterWrite off v s
  | .deviceReset => Sys2Proof.Machine.execDeviceReset s
  | .bootImageVerified => Sys2Proof.Machine.execBootImageVerified s
  | .rwgo v => Sys2Proof.Machine.execRwgo v s
  | .recoveryImageVerified => Sys2Proof.Machine.execRecoveryImageVerified s
  | .atgo v => Sys2Proof.Machine.execAtgo v s
  | .attestReportReady => Sys2Proof.Machine.execAttestReportReady s
  | .flitReceive intact pa data => Sys2Proof.Machine.execFlitReceive intact pa data s
  | .packageFailure pkg => Sys2Proof.Machine.execPackageFailure pkg s
  | .thermalThrottle cluster => Sys2Proof.Machine.execThermalThrottle cluster s
  | .controlLoopRetune => Sys2Proof.Machine.execControlLoopRetune s
  | .lifeRecordUpdate => Sys2Proof.Machine.execLifeRecordUpdate s
  | .hostWrite pa data => Sys2Proof.Machine.execHostWrite pa data s
  | .controlCoreAccess write pa w v => Sys2Proof.Machine.execControlCoreAccess write pa w v s
  | .queueSuspendClear q => Sys2Proof.Machine.execQueueSuspendClear q s
  | .throttleEnd cluster => Sys2Proof.Machine.execThrottleEnd cluster s

end Sys2Proof.Machine
end

