-- ==== Sys2Proof/Machine/Issue.lean ====
section
/-!
DEFINITION. Choosing what issues (R17, R39, R42, R345-R347): readiness, the candidates of a core, forming a group at a run
header or inside a run that a thread returns to (R360, R363), and the end of a clock.
-/

namespace Sys2Proof.Machine

/-- A thread may issue when its team does: it has not exited, yielded, or been put aside in this clock; in a team that is being
saved only a thread on its way to or inside the yield handler issues, or one that is still inside a run, and none once the save proceeds (R352,
R368). -/
def Team.mayIssue (tm : Team) (tid : Nat) : Bool :=
  let th := tm.thread tid
  tm.active && !th.exited && !th.held && !th.yielded &&
  match tm.life with
  | .live => true
  | .saving => !tm.proceeds && tm.tr.yieldPc != 0 && (th.ran || (tm.groupOf tid).isSome)
  | _ => false

/-- A thread may be chosen for a new group (R347): it is in none, and its next issue cycle has come (R21, R155). -/
def Team.ready (tm : Team) (clock tid : Nat) : Bool := tm.mayIssue tid && (tm.groupOf tid).isNone && decide ((tm.thread tid).due ≤ clock)

/-- A continuing group is a candidate: its next instruction is due and no wait holds it (R347). -/
def Group.isDue (g : Group) (tm : Team) (clock : Nat) : Bool := !g.held && decide (g.due ≤ clock) && g.tids.all tm.mayIssue

/-- A candidate for an issue: a continuing group, or the threads of a new one. -/
inductive Pick where
  | go (t gid : Nat)
  | form (t : Nat) (tids : List Nat)
  deriving DecidableEq, Repr

/-- Rank of a thread (R347): older first, then the lower team slot, then the lower index. -/
def rank (tm : Team) (tid : Nat) : Nat := (tm.thread tid).age * 2 ^ 20 + (64 - tm.slot % 64) * 2 ^ 12 + (1023 - tid % 1024)

/-- Two ready threads stand at the same place, inside a run or at a header (R17, R347). -/
def sameSpot (a b : Thread) : Bool := a.pc == b.pc && a.mid.map (fun m => m.off) == b.mid.map (fun m => m.off)

/-- The run of a mid-run record is fetched again and the threads stand in it at its index (R360, R363). A header address with bit 0 set is
misaligned (R143). A result of the run that came after the record was made stands (R370). -/
def State.reenter (s : State) (t gid : Nat) : State :=
  match s.team? t with
  | none => s
  | some tm =>
    match FMap.get? tm.groups gid with
    | none => s
    | some g =>
      match (tm.thread (g.tids.headD 0)).mid with
      | none => s
      | some m =>
        let trap (tr : Trap) : State := s.trapHeader t m.hdr g.tids tr
        if m.hdr.getLsbD 0 then trap (.align false m.hdr)
        else match s.fetchWord tm.xlat m.hdr with
        | .error e => s.headerFails t m.hdr g.tids (fetchFail e)
        | .ok w =>
          let s := s.routeCode tm m.hdr
          if !isHeader w || w.toNat / 2 ^ 18 != 0 then s.trapHeader t m.hdr g.tids .illegal
          else match s.fetchRun tm.xlat m.hdr (bits w.toNat 11 7) (bit w.toNat 12) with
            | .error e => (if bits w.toNat 11 7 ≤ 24 then s.routeRun tm m.hdr (bits w.toNat 11 7) (bit w.toNat 12) else s).headerFails t m.hdr g.tids e
            | .ok (body, tw, next) =>
              let back (th : Thread) : Thread :=
                match th.mid with
                | none => th
                | some m => { th with t := th.t.foldl (fun v x => FMap.set v x.1 x.2) ((List.range 8).zip m.t ++ [(8, m.l)]), npc := next, mid := none }
              let s := s.routeCode tm (next - 2)
              let on := tm.eff.sr.check.getLsbD 0 || bit w.toNat 17
              s.updTeam t (fun tm =>
                (g.tids.foldl (fun (tm : Team) tid => tm.updThread tid back) tm).updGroup gid (fun g =>
                  { g with hdr := m.hdr, body, trl := tw, next, chk := on, idx := m.off, dist := 0, due := s.clock, log := [] }))

/-- A new group at a run header: the instruction there, or the trap of a transfer to what is no run header (R145, R168, R359). -/
def State.atRun (s : State) (t gid : Nat) : State × Option Instr :=
  match s.team? t with
  | none => (s, none)
  | some tm =>
    match FMap.get? tm.groups gid with
    | none => (s, none)
    | some g =>
      if g.hdr.getLsbD 0 then (s.trapHeader t g.hdr g.tids (.align false g.hdr), none)
      else match s.fetchWord tm.xlat g.hdr with
        | .error e => (s.headerFails t g.hdr g.tids (fetchFail e), none)
        | .ok w =>
          let s := s.routeCode tm g.hdr
          match (if isHeader w then wordInstr w else none) with
          | some i => (s, some i)
          | none => (s.trapHeader t g.hdr g.tids .illegal, none)

/-- The next instruction of a continuing group, or the end of its run (R20, R154, R168). -/
def State.inRun (s : State) (t gid : Nat) (g : Group) : State × Option Instr :=
  match g.body[g.idx]? with
  | some w =>
    match wordInstr w with
    | some i => (s, some i)
    | none => (s.trapAll t gid g .illegal, none)
  | none =>
    match g.trl with
    | some w =>
      match wordInstr w with
      | some i => (s, some i)
      | none => (s.trapAll t gid g .illegal, none)
    | none => (s.endRun t gid [], none)

/-- A pick put on the issue stage: the state with that group issuing, and the instruction to execute, if there is one. -/
def State.take (s : State) (core : Nat) (p : Pick) : State × Option Instr :=
  let s := { s with cursor := max s.cursor (2 * core) }
  match p with
  | .go t gid =>
    let s := { s with cur := some (t, gid) }
    match (s.team? t).bind (fun tm => FMap.get? tm.groups gid) with
    | none => (s, none)
    | some g => s.inRun t gid g
  | .form t tids =>
    match s.team? t with
    | none => (s, none)
    | some tm =>
      let gid := tm.nextGroup
      let th := tm.thread (tids.headD 0)
      let g : Group := { tids, hdr := th.pc, next := th.pc, body := [], trl := none, chk := false, due := s.clock }
      let s := { s with cur := some (t, gid) }.updTeam t (fun tm => { tm with groups := FMap.set tm.groups gid g, nextGroup := gid + 1 })
      if th.mid.isSome then (s.reenter t gid, none) else (s.keepCross t gid).atRun t gid

/-- The new group of a team: its oldest ready thread, and up to 31 more at the same place, oldest first (R347). -/
def Team.form (tm : Team) (ready : List Nat) : Option (Nat × List Nat) :=
  match argMax (rank tm) ready with
  | none => none
  | some o =>
    let same := ready.filter (fun x => x != o && sameSpot (tm.thread x) (tm.thread o))
    let order := same.foldl (fun acc x => (acc.takeWhile (fun y => rank tm x ≤ rank tm y)) ++ [x] ++
      (acc.dropWhile (fun y => rank tm x ≤ rank tm y))) ([] : List Nat)
    some (rank tm o, sortNat (o :: order.take 31))

/-- A core's cluster inserts idle issue cycles while it is throttled (R390): it issues on even clocks only. -/
def State.idle (s : State) (core : Nat) : Bool := s.links.throttled.contains (core / 48) && s.clock % 2 == 1

/-- The lowest thread of the group that a pick is. -/
def State.lowOf (s : State) (t gid : Nat) : Nat :=
  match (s.team? t).bind (fun tm => FMap.get? tm.groups gid) with
  | some g => g.tids.foldl min (g.tids.headD 0)
  | none => 0

/-- A thread's age grows with every clock in which it is ready and not issued (R39, R347); what held it in this clock is tried again in the
next. -/
def Team.older (tm : Team) (ready : Nat → Bool) : Team :=
  let ages := (List.range tm.threads.length).map (fun tid => (tm.thread tid).age + b2n (ready tid))
  { tm with
    threads := (tm.threads.zip ages).map (fun x => { x.1 with age := x.2, held := false }),
    groups := tm.groups.map (fun g => (g.1, { g.2 with held := false })) }

end Sys2Proof.Machine
end

