-- ==== Sys2Proof/Machine/Agenda.lean ====
section
/-!
DEFINITION. What happens at the end of a clock: which threads are ready (R39, R42, R347), data errors (R364, R388), the writes and completions
that are tried again, and the internal events that the state enables, put on the agenda (log 3).
-/

namespace Sys2Proof.Machine

-- Readiness (R42).

/-- What an attempt to issue may change although the thread waits: nothing of this but the marks of its wait. A held thread that changes some of it
has asked for something, and was ready to. -/
def State.asked (s : State) (t : Nat) : Links × FMap CoreSt × List Shoot × Option (List Thread × FMap (Nat × Nat) × List Nat) :=
  (s.links, s.cores, s.shoots, (s.team? t).map (fun tm => (tm.threads.map (fun th => { th with held := false, mwait := none, pwait := false }), tm.cv, tm.refill)))

/-- The state after an outcome; a stop leaves it as it was. -/
def outState (s : State) (o : Out) : State :=
  match o with
  | .next s => s
  | _ => s

/-- A candidate tried: put on the issue stage, its instruction executed. -/
def State.tryPick (s : State) (core : Nat) (p : Pick) : State :=
  match s.take core p with
  | (s, some i) => outState s (exec i s)
  | (s, none) => s

/-- A thread of a candidate waits (R42): the candidate tried on a copy of the state, a new group being of that thread alone. One that returns into a
run goes on to the instruction there. -/
def State.waitsNow (s : State) (t tid : Nat) (p : Pick) : Bool :=
  match s.team? t with
  | none => true
  | some tm =>
    let s1 := s.tryPick tm.core p
    -- what stood before the instruction itself was tried, and after
    let (a, b) := match (tm.thread tid).mid, (tm.groupOf tid).isNone, (s1.team? t).bind (fun tm => tm.groupOf tid) with
      | some _, true, some (gid, _) => (s1, s1.tryPick tm.core (.go t gid))
      | _, _, _ => (s, s1)
    (b.team? t).any (fun tm => (tm.thread tid).held || (tm.groupOf tid).any (fun g => g.2.held)) && b.asked t == a.asked t

/-- A thread is ready (R42, R347): its group, or a new one of it alone, is due, and its instruction would not wait. -/
def State.readyNow (s : State) (t tid : Nat) : Bool :=
  let s := s.updTeam t (fun tm => tm.older (fun _ => false))
  match s.team? t with
  | none => false
  | some tm => match tm.groupOf tid with
    | some (gid, g) => g.isDue tm s.clock && !s.waitsNow t tid (.go t gid)
    | none => tm.ready s.clock tid && !s.waitsNow t tid (.form t [tid])

/-- The phase object that a PWAIT waits for (R251). -/
def Team.waitRef (tm : Team) : Instr → PhRef
  | .pwaitS _ k _ => .scratch ((tm.kreg k.toNat).toNat % 2 ^ 32)
  | .pwaitG _ k _ => .glob (tm.kreg k.toNat)
  | _ => .none

/-- A thread that returns into a run at a PWAIT which is not satisfied waits in it from there, in no group (R42, R251, R347). -/
def State.pwaitStart (s : State) (t : Nat) (tm : Team) (tid : Nat) : Team :=
  if (tm.groupOf tid).isSome || (tm.thread tid).mid.isNone || (tm.thread tid).pwait || !tm.ready s.clock tid then tm
  else match s.standsAt tm tid with
    | none => tm
    | some (_, i) =>
      if s.pwaitOver t tm tid i != some false then tm
      else
        let ref := tm.waitRef i
        { (tm.updThread tid (fun th => { th with pwait := true })) with
          waiter := if ref = .none then tm.waiter else tm.waiter.orElse (fun _ => some ref) }

-- Held accesses (R393).

/-- An owed result as an instruction of another place sees it: of no register and no thread, and no acquire. -/
def Wb.hidden (w : Wb) : Wb := { w with tid := none, owner := 2 ^ 20, also := [], reg := .v (2 ^ 20), acq := false }

/-- A thread with its registers as they were. -/
def Thread.asWas (th was : Thread) : Thread :=
  { th with v := was.v, t := was.t, p := was.p, soft := was.soft, bad := was.bad, stamp := was.stamp, lver := was.lver, armed := was.armed,
            exited := false, hm := false, region := none, part := false, ncs := [] }

/-- A team in which nothing but a held access is left to execute: its group stands at the instruction again. -/
def Team.atLater (tm : Team) (l : Later) : Team :=
  let g : Group := { l.group with body := l.group.body ++ [0x8000], held := false }
  { (l.threads.foldl (fun (tm : Team) x => tm.updThread x.1 (fun th => th.asWas x.2)) tm) with
    groups := [(tm.nextGroup, g)], k := l.k, kf := l.kf, soft := l.soft, wbs := tm.wbs.map Wb.hidden, laters := [],
    eff := { tm.eff with sr := { tm.eff.sr with tvec := l.group.hdr ||| 1 } } }

/-- The results of a held access stand where they were owed, and the values that it gave other owed results have arrived. -/
def Team.lateWbs (tm q : Team) (l : Later) : List Wb :=
  let old := (tm.wbs.zip q.wbs).map (fun x => { x.1 with val := x.2.val })
  old.takeWhile (fun w => w.id != l.id) ++ (q.wbs.drop tm.wbs.length).map (fun w => { w with id := l.id }) ++
    (old.dropWhile (fun w => w.id != l.id)).filter (fun w => w.id != l.id)

/-- A thread whose held access has been made, `q` the thread that made it: the lines of non-coherent ranges that it stored to (R103), also for
the fences that cover it, and the machine check that it met. -/
def Thread.afterLater (th q : Thread) (id : Nat) (mc : Option (Nat × DWord × Nat)) : Thread :=
  let more (l : List (Nat × Nat)) : List (Nat × Nat) := l.filter (fun x => !q.ncs.contains x) ++ q.ncs
  { th with
    ncs := more th.ncs, fences := th.fences.map (fun f => if f.owed.contains id then { f with ncs := more f.ncs } else f)
    mcheck := if th.exited then th.mcheck else th.mcheck ++ mc.toList }

/-- A held access is tried: executed with the registers, the place and the translations with which it issued (R42, R100, R393). It may still wait, for a
line or a grant, and then what it asked for stands, and what went home before it; else its effects stand, and of its threads nothing else changes. A data error that it meets is a machine check of its thread, taken
at its next instruction, or of the context where the thread has exited (log 23). -/
def State.lateTry (s : State) (t : Nat) (tm : Team) (l : Later) : State :=
  let d := s.die tm.dieOf
  let dies := FMap.set s.dies tm.dieOf { d with tlb := l.tlb ++ d.tlb }
  let at_ := { s.updTeam t (fun tm => tm.atLater l) with cur := some (t, tm.nextGroup), freeCtr := l.ctr, dies }
  let s' := outState at_ (exec l.instr at_)
  match s'.team? t with
  | none => s
  | some q =>
    let again (s' : State) : State := { s' with cursor := s.cursor, cur := s.cur }.updDie tm.dieOf (fun e => { e with tlb := d.tlb })
    if !q.laters.isEmpty || (FMap.get? q.groups tm.nextGroup).any (fun g => g.idx == l.group.idx) then
      { again s' with freeCtr := s.freeCtr, nextId := s.nextId }.updTeam t (fun _ => { tm with refill := q.refill })
    else
      let s' := { again s' with freeCtr := max s.freeCtr s'.freeCtr }
      let ids := (q.wbs.drop tm.wbs.length).map (fun w => w.id)
      let defer := s'.units.defer.map (fun e => (e.1, e.2.map (fun x => if x.1 == t && ids.contains x.2 then (t, l.id) else x)))
      let mc (tid : Nat) : Option (Nat × DWord × Nat) :=
        let th := q.thread tid
        let pa := ((s'.pte? tm.xlat th.eva).map (fun e => paOf e th.eva)).getD 0
        if th.hm && bits th.ecause.toNat 7 0 == 10 then some (bits th.ecause.toNat 15 8, th.eva, pa) else none
      let tm' : Team := { tm with
        kexc := q.kexc, fresh := q.fresh, scr := q.scr, scrBad := q.scrBad, pinned := q.pinned, refill := q.refill
        wbs := tm.lateWbs q l, laters := tm.laters.filter (fun m => m.id != l.id) }
      let tm' := l.threads.foldl (fun (tm : Team) x => tm.updThread x.1 (fun th => th.afterLater (q.thread x.1) l.id (mc x.1))) tm'
      let s' := { s' with units := { s'.units with defer } }.updTeam t (fun _ => tm')
      l.threads.foldl (fun (s : State) x => match mc x.1 with
        | some (str, _, pa) => if (tm.thread x.1).exited then s.contextMc tm.dieOf str tm.ctx pa else s
        | none => s) s'

/-- The held accesses that nothing holds any more are made, in the order of their issue (R393). -/
def State.latersAgain (s : State) : State :=
  s.teams.foldl (fun (s : State) e =>
    if e.2.life == .saved then s
    else e.2.laters.foldl (fun (s : State) l => match s.team? e.1 with
      | some tm => if tm.earlier (l.threads.map Prod.fst) l.id then s else s.lateTry e.1 tm l
      | none => s) s) s

/-- The ready threads of a team (R42, R347); of a parked one those that would be ready if it were active, its pages pinned (R27, R29). -/
def State.readyOf (s : State) (t : Nat) (tm : Team) : List Nat :=
  let all := List.range tm.threads.length
  if tm.active then all.filter (s.readyNow t)
  else if tm.life == .saved then []
  else
    let pages := (List.range tm.tr.scratch).map (fun p => (p, p))
    let s := (s.activate t 0 false).updTeam t (fun tm => { tm with pinned := pages })
    all.filter (s.readyNow t)

/-- The teams at the end of a clock: ages of ready threads grow, of parked teams too (R39, R347), and a parked team notes since when it has had a ready
thread (R346). -/
def State.aged (s : State) : FMap Team :=
  s.teams.map (fun (e : Nat × Team) =>
    let ready := s.readyOf e.1 e.2
    let tm := (List.range e.2.threads.length).foldl (s.pwaitStart e.1) (e.2.older ready.contains)
    (e.1, { tm with readySince := if e.2.active || ready.isEmpty then none else some (e.2.readySince.getD s.clock) }))

-- Data errors.

/-- An error in a word of a core's storage (R79, R364): the register, half-line of scratch, slot or accumulator row that it spoils. -/
def State.coreError (s : State) (unit core w : Nat) : State :=
  let h := 4 * w / 64
  if 768 ≤ core then s
  else match unit with
    | 0 => match regFileAt s core (4 * w) with
      | some (t, tid, v) => s.updThread t tid (fun th => { th with bad := dedup (th.bad ++ [v]) })
      | none => s
    | 1 => match frameAt s core (4 * w / 4096) with
      | some (t, p) => s.updTeam t (fun tm => { tm with scrBad := dedup (tm.scrBad ++ [(p * 4096 + 4 * w % 4096) / 64]) })
      | none => s
    | 2 => s.updCore core (fun c => { c with slotBad := dedup (c.slotBad ++ [h]) })
    | 3 => s.updCore core (fun c => { c with accBad := dedup (c.accBad ++ [h]) })
    | _ => s

/-- The data errors that come up in this clock (R322, R364, R388; log 10). -/
def State.errors (s : State) : State :=
  let s := (Config.dataErrors s.clock).foldl (fun (s : State) e =>
    if e.2 = 6 then s.cellError e.1 else { s with links := { s.links with poison := FMap.set s.links.poison e.1 e.2 } }) s
  (Config.coreErrors s.clock).foldl (fun (s : State) e => s.coreError e.1 e.2.1 e.2.2) s

-- Events.

/-- Events of the device and its dies: reset and boot (R384-R386), pre-emption (R382), shootdowns (R100). -/
def State.deviceEvents (s : State) : List Instr :=
  (match s.boot.state with
    | 0 => [Instr.deviceReset]
    | 1 => [Instr.bootImageVerified]
    | 4 => [Instr.recoveryImageVerified]
    | _ => []) ++
  (if s.boot.busy then [Instr.attestReportReady] else []) ++
  (s.dies.filter (fun d => d.2.busy)).map (fun d => Instr.preemptionComplete d.1) ++
  s.shoots.flatMap (fun x => x.dies.map (fun d => Instr.tlbShootdownAck d x.id)) ++
  s.units.late.map (fun w => Instr.hostWrite w.1 w.2)

/-- Events of regions and of coherence (R92, R98, R272-R276). -/
def State.homeEvents (s : State) : List Instr :=
  s.units.greqs.map (fun q => Instr.granuleRequest q.id) ++
  s.units.nmsgs.map (fun m => Instr.narrowing m.id) ++
  s.teams.flatMap (fun e => (List.range e.2.threads.length).flatMap (fun tid =>
    match (e.2.thread tid).region.map (fun r => r.stage) with
    | some 1 => [Instr.seal e.1 tid]
    | some 2 => [Instr.commitApply e.1 tid]
    | _ => [])) ++
  s.cores.flatMap (fun c =>
    c.2.dreads.map (fun l => Instr.lineReadRequest c.1 l) ++ c.2.dstores.map (fun d => Instr.exclusiveRequest c.1 d.1) ++
    c.2.invs.map (fun l => Instr.invalidation c.1 l) ++ c.2.dstores.map (fun d => Instr.exclusiveGrant c.1 d.1) ++
    (c.2.lines.filter (fun l => l.2.coh == 0 && !l.2.nc && !l.2.runs.isEmpty && !s.canWriteBack l.1 l.2)).map (fun l => Instr.lineWriteback c.1 l.1)) ++
  s.units.dir.flatMap (fun d => List.replicate d.2.acks (Instr.invalidationAck (d.2.writer.getD 0) d.1)) ++
  s.links.wants.map (fun w => Instr.holderGrant w.1 w.2) ++
  s.links.holders.flatMap (fun h => h.2.recalls.map (fun p => Instr.recallAnswer p h.1) ++ (if h.2.reqs.isEmpty then [] else [Instr.holderGrant h.1 false]))

/-- Events of engine and matrix operations (R35, R121, R235, R236, R240, R286). -/
def State.engineEvents (s : State) : List Instr :=
  s.ops.flatMap (fun o =>
    (if o.2.chunks.isEmpty && o.2.after.isEmpty then [] else [Instr.engineBytesLand o.1]) ++
    (if o.2.failed.isEmpty then [] else [Instr.faultUnitPark o.1]) ++
    (if o.2.landed && !o.2.done then
      (match o.2.kind with
        | .reduceOrd st _ n _ => [Instr.cpyredSetInstall (s.reduceKey (s.opXlat o.2) st) n]
        | _ => []) ++ [Instr.engineComplete o.1] else [])) ++
  (s.ops.filter (fun o => o.2.done)).filterMap (fun o => o.2.team.map (fun t => Instr.engineRetire t o.2.cls)) ++
  s.rels.map (fun r => Instr.slotRelease r.1)

/-- The places at which RESULT_WRITEBACK finds the results that can be written now, each after those before it have gone (R158). -/
def Team.writable (tm : Team) : List Nat :=
  (tm.wbs.foldl (fun (acc : List Nat × List Wb × Nat) w =>
    let stuck := acc.2.1.any (fun o => o.reg == w.reg && o.tid == w.tid)
    if w.val.isSome && !stuck then (acc.1 ++ [acc.2.2], acc.2.1, acc.2.2) else (acc.1, acc.2.1 ++ [w], acc.2.2 + 1)) ([], [], 0)).1

/-- Events of one team (R35, R38, R87, R127, R158, R251, R351, R352). -/
def State.teamEvents (s : State) (t : Nat) (tm : Team) : List Instr :=
  tm.writable.map (fun i => Instr.resultWriteback t i) ++
  ((List.range tm.threads.length).filter (fun tid => (tm.thread tid).fences.any (fun f => !f.done))).map (fun tid => Instr.fenceComplete t tid) ++
  tm.refill.map (fun p => Instr.scratchPageRefill t p) ++
  (if tm.waiter.isSome && decide (tm.reeval + 4096 ≤ s.clock) then [Instr.waiterReevaluate t] else []) ++
  (match tm.life with
    | .discarding => [Instr.discardRequeue t]
    | .saving => if tm.live.isEmpty then [Instr.teamRetire t] else [Instr.teamSave t]
    | .saved => []
    | _ => if tm.live.isEmpty then [Instr.teamRetire t] else [])

/-- Events of standing sets and placement (R315, R323, R329, R336, R344, R346). -/
def State.placeEvents (s : State) : List Instr :=
  s.sets.flatMap (fun e =>
    e.2.raises.map (fun _ => Instr.raiseAbsorb e.1) ++
    (if e.2.out.isSome || (e.2.due && e.2.quiet && !e.2.stopping) then [Instr.quiescenceRecord e.1] else []) ++
    (if e.2.stopping then [Instr.sstopComplete e.1] else [])) ++
  (if s.sets.isEmpty then [] else (List.range 4).map (fun d => Instr.dispatchSlot d)) ++
  (if s.launches.any (fun l => l.2.open) || s.teams.any (fun e => e.2.life == .saved) then (List.range 4).map (fun d => Instr.teamPlace d) else []) ++
  (sortNat (dedup ((s.teams.filter (fun e => !e.2.active && e.2.life != .saved)).map (fun e => e.2.core)))).flatMap (fun c =>
    [Instr.teamActivate c, Instr.rotation c, Instr.teamPark c])

/-- The event by which a fetched command begins. -/
def Cmd.event (q : Nat) (c : Cmd) : Instr :=
  match c.num 0 1 with
  | 1 => Instr.launch q
  | 2 => Instr.startSet q
  | 3 => Instr.stopSet q
  | 4 => Instr.raise q
  | 5 => Instr.copy q
  | 6 => Instr.signal q
  | _ => Instr.wait q

/-- The queues that are enabled: bit 3 of byte 9 of a record (R377). -/
def State.enabledQueues (s : State) : List Nat :=
  let base := s.queueAt 0
  s.mem.filterMap (fun c =>
    let o := c.1 - base
    if base ≤ c.1 && o < 131072 && o % 128 == 9 && c.2.getLsbD 3 then some (o / 128) else none)

/-- Events of the queues (R378, R380). -/
def State.queueEvents (s : State) : List Instr :=
  s.cmds.map (fun c => if c.2.stage = 1 then c.2.event c.1 else Instr.commandComplete c.1) ++
  (if s.boot.state != 2 then [] else s.enabledQueues.filter (fun q => decide (s.qfield q 255 192 < s.qfield q 191 128))).map (fun q => Instr.queueFetch q)

/-- The events a state enables, in a fixed order (log 3). An event whose turn comes when it is no longer enabled has no effect. -/
def internalEvents (s : State) : List Instr :=
  s.deviceEvents ++ s.homeEvents ++ s.engineEvents ++ s.teams.flatMap (fun e => s.teamEvents e.1 e.2) ++ s.placeEvents ++ s.queueEvents

/-- The end of a clock: device time moves on, threads age, data errors come up, and the events enabled now are put on the agenda. -/
def State.tick (s : State) : State :=
  let s := ({ s with clock := s.clock + 1, cursor := 0, cur := none, teams := s.aged }.errors).latersAgain.finishLaunches.recallsAgain.crumbsAgain.spares
  let s := (s.sets.map Prod.fst).foldl State.lookAhead s
  { s with agenda := internalEvents s, units := { s.units with late := [] } }

/-- The team of a pick. -/
def Pick.team : Pick → Nat
  | .go t _ => t
  | .form t _ => t

/-- The threads of a team that are ready for a new group (R42, R347). -/
def State.formable (s : State) (t : Nat) (tm : Team) : List Nat :=
  (List.range tm.threads.length).filter (fun tid => tm.ready s.clock tid && !s.waitsNow t tid (.form t [tid]))

/-- The candidates of a core with their ranks (R347). -/
def State.picks (s : State) (core : Nat) : List (Nat × Pick) :=
  (s.teamsOn core).flatMap (fun e =>
    if !e.2.active then []
    else
      (e.2.groups.filterMap (fun g => if g.2.isDue e.2 s.clock then some ((g.2.tids.map (rank e.2)).foldl max 0, .go e.1 g.1) else none)) ++
      (match e.2.form (s.formable e.1 e.2) with
        | some (r, l) => [(r, .form e.1 l)]
        | none => []))

/-- The candidates of a core, tried from the best on until one issues (R17, R347): those tried, the team, the group and the lowest thread of the one
that did. A thread is a candidate but a few times in a clock: what it tries without issuing makes it wait, skips a run or traps. -/
def State.issuesNext (s : State) (core : Nat) : Nat → List Pick → Option (List Pick × Nat × Nat × Nat)
  | 0, _ => none
  | fuel + 1, tried =>
    match argMax Prod.fst (s.picks core) with
    | none => none
    | some b =>
      let s' := s.tryPick core b.2
      if s.cursor < s'.cursor then
        match b.2 with
        | .go t g => some (tried, t, g, s.lowOf t g)
        | .form _ _ => none
      else s'.issuesNext core fuel (tried ++ [b.2])

/-- Which of the candidates of a core goes first: the best (R347). While both issues of the clock are left, and the group that would issue second
is of the same team and has a lower thread index, that one goes first, formed before, of the threads that are ready now, if it is new (R192). -/
def State.first (s : State) (core : Nat) (l : List (Nat × Pick)) : Option Pick :=
  match argMax Prod.fst l with
  | none => none
  | some a =>
    let rest := l.filter (fun p => p != a)
    if decide (2 * core < s.cursor) || !rest.any (fun p => p.2.team == a.2.team) then some a.2
    else match a.2 with
      | .form _ _ => some a.2
      | .go t g =>
        let s' := s.tryPick core a.2
        let fuel := 4 + 4 * (s.teamsOn core).foldl (fun n e => n + e.2.threads.length) 0
        if s'.cursor ≤ 2 * core then some a.2
        else match s'.issuesNext core fuel [] with
          | none => some a.2
          | some (tried, t', g', low) =>
            if t != t' || decide (s.lowOf t g ≤ low) then some a.2
            else if (s.group? t g').isSome then some (.go t g')
            else match (s.team? t).map (fun tm => (tm, s.formable t tm)) with
              | none => some a.2
              | some (tm, ready) =>
                let tids := tried.flatMap (fun p => match p with
                  | .form u l => if u == t && l.contains low then l else []
                  | .go _ _ => [])
                if !ready.contains low then some a.2
                else some (.form t (ready.filter (fun x => tids.contains x && sameSpot (tm.thread x) (tm.thread low))))

/-- The next issue of this clock: the first core from the cursor on that has a candidate, and the one that goes first (R17, R347). -/
def State.choose (s : State) : Option (Nat × Pick) :=
  let cores := sortNat (dedup ((s.teams.filter (fun e => e.2.active && e.2.life != .saved)).map (fun e => e.2.core)))
  (cores.filter (fun c => decide (s.cursor ≤ 2 * c + 1) && !s.idle c)).findSome? (fun c =>
    (s.first c (s.picks c)).map (fun p => (c, p)))

/-- What happens next when the agenda is empty: the state, and the instruction that issues, if one does. -/
def State.issue (s : State) : State × Option Instr :=
  match s.choose with
  | none => (s.tick, none)
  | some (core, p) => s.take core p

/-- Where `withFetchWord` puts its code, its tables and its handler. -/
def bootCode : DWord := 0x10000

/-- A page table that maps the first GiB onto itself, for everyone and everything (R81-R83). -/
def idTable (m : Memory) : Memory := (m.storeNum 0x200000 8 (1 + 0x201 * 2 ^ 20)).storeNum 0x201000 8 0x1F

/-- The team that runs one instruction word next: one thread, everything declared, its first scratch page pinned. -/
def probeTeam (c : Ctx) (th : Thread) (g : Option Group) : Team :=
  { ctx := 0, core := 0, slot := 0, eff := c, grid := (0, 0, 0), threads := [th],
    tr := { entry := bootCode, threads := 1, regs := 112, scratch := 128, claim := 64, copyq := 128, cv := 8, acc := 1024 },
    groups := match g with | none => [] | some g => [(0, g)], nextGroup := 1, pinned := [(0, 0)] }

/-- The state whose next step runs an instruction (log 2): context 0 maps the first GiB onto itself, one team of one thread
stands on core 0; a run header stands at the thread's pc, any other instruction in a run that its group is inside. -/
def State.placeWord (s : State) (w : Nat) : State :=
  let word : BitVec 32 := BitVec.ofNat 32 w
  let c : Ctx := { (s.ctx 0) with v := true, priv := true, root := 0x200000 }
  let hdr : BitVec 32 := 0x0000E081
  let m := idTable s.mem
  let m := if isHeader word then m.storeNum 0x10000 4 w else (m.storeNum 0x10000 4 hdr.toNat).storeNum 0x10004 4 w
  let g : Group := { tids := [0], hdr := bootCode, next := bootCode + 4 + BitVec.ofNat 64 (wordLen word), body := [word], trl := none, chk := false, due := s.clock }
  let g := if w % 128 = 3 then { g with body := [0x8000], trl := some word, idx := 1, next := bootCode + 10 } else g
  let tm := if isHeader word then probeTeam c { pc := bootCode, npc := bootCode } none
    else probeTeam c { pc := bootCode, npc := g.next, ran := true } (some g)
  let links := { s.links with pkg := 0, pool := [], throttled := [], poison := [] }
  let dies := FMap.upd s.dies 0 (fun d => { d with tlb := [] })
  { s with agenda := [], cursor := 0, cur := none, mem := m, ctxs := FMap.set s.ctxs 0 c, teams := [(0, tm)], dies, links, boot := { s.boot with state := 2 } }

end Sys2Proof.Machine
end

