-- ==== Sys2Proof/Machine/Step.lean ====
section
/-! DEFINITION. One step of the machine, and the state whose next step runs a given instruction word. -/

namespace Sys2Proof.Machine

/-- One step: the oldest event of the agenda, or the next issue, or the end of the clock. -/
def step (s : State) : Host.Outcome State Fault Refusal :=
  match s.agenda with
  | e :: rest => exec e { s with agenda := rest }
  | [] =>
    match s.issue with
    | (s, none) => .next s
    | (s, some i) => exec i s

/-- The state whose next step runs the instruction of the given bits (log 2). A word has 16 or 32 bits. -/
def State.withFetchWord (s : State) (nbits w : Nat) : State := s.placeWord (w % 2 ^ nbits)

end Sys2Proof.Machine
end

