-- ==== Sys2Proof/Safety.lean ====
section
/-!
DEFINITION. What counts as a safe run, and the words in which claims speak of one: an instruction that is ready to execute, what
of a state stands as it was, and what a register holds.
-/

namespace Sys2Proof.Machine

/-- What every step keeps: memory is in canonical form. -/
def State.Inv (s : State) : Prop := s.mem.wf = true

/-- The state after n steps, if none of them stops. -/
def State.after (s : State) : Nat → Option State
  | 0 => some s
  | n + 1 =>
    match step s with
    | .next s' => State.after s' n
    | _ => none

/-- A run of n steps is safe: it does not stop, and the invariant holds at its end. -/
def State.safeFor (s : State) (n : Nat) : Prop := ∃ s', s.after n = some s' ∧ s'.Inv

/-- The group c of the state issues and the instruction's own effect comes next: its registers are declared and L holds a result
where it is read (R151, R160), no read of a checked run falls short (R159), no register it uses is awaited (R158), and none that a thread of it,
the lowest among them, reads holds a data error (R364). -/
structure Ready (s : State) (c : Iss) (u : Use) : Prop where
  iss : s.iss = some c
  legal : c.illegal u = false
  inTime : c.shortRead u = false
  free : c.waits u = false
  sound : ∀ tid ∈ c.low :: c.g.tids, c.unsound u tid = none

/-- A group that is ready, with no thread in a region (R278). -/
structure Apart (s : State) (c : Iss) (u : Use) : Prop extends Ready s c u where
  outside : ∀ tid ∈ c.g.tids, (c.tm.thread tid).region = none

/-- Such a group makes an access that nothing holds back: no earlier acquire of a thread is on its way (R393). -/
structure Calm (s : State) (c : Iss) (u : Use) : Prop extends Apart s c u where
  acquired : c.acquiring = false

/-- The group is one thread, which has not done its part yet. -/
def Iss.alone (c : Iss) (tid : Nat) : Prop := c.g.tids = [tid] ∧ tid < c.tm.threads.length ∧ (c.tm.thread tid).part = false

/-- The run goes on after the present instruction: another one or a trailer follows (R20). -/
def Iss.goesOn (c : Iss) : Prop := c.g.idx + 1 ≠ c.g.body.length ∨ c.g.trl.isSome = true

/-- Either the run goes on, or its end makes no stall check (R159). -/
def Iss.endsWell (c : Iss) : Prop := c.goesOn ∨ c.g.chk = false

/-- A register of t0-t7 or L. -/
def Reg.isT : Reg → Bool
  | .t _ => true
  | _ => false

/-- A register of the whole team. -/
def Reg.isTeam : Reg → Bool
  | .k _ => true
  | .kf => true
  | _ => false

/-- Everything of the machine stands as it was but the teams and the model's own counters. -/
def SameMachine (s s' : State) : Prop :=
  { s' with teams := s.teams, cursor := s.cursor, freeCtr := s.freeCtr, nextId := s.nextId } = s

/-- Every other team stands as it was. -/
def SameOthers (s s' : State) (t : Nat) : Prop := ∀ u, u ≠ t → s'.team? u = s.team? u

/-- The instructions at which a thread has arrived, whether or not it has left them. -/
def Thread.met (th : Thread) : List Arrival := th.arrivals.map (fun r => { r with left := true })

/-- Of a thread only its registers, what is known of them, and its place changed: region, bounds, trap record, fences stand as they were, and so do
the instructions at which it has arrived. -/
def SameThread (a b : Thread) : Prop :=
  { b with v := a.v, t := a.t, p := a.p, soft := a.soft, bad := a.bad, lver := a.lver, due := a.due, ran := a.ran, age := a.age, pc := a.pc, npc := a.npc, mid := a.mid,
           nmid := a.nmid, held := a.held, pwait := a.pwait, part := a.part, xres := a.xres, mwait := a.mwait,
           arrivals := b.met } =
    { a with arrivals := a.met }

/-- Of a team only its registers, its flags, its groups and its count of instructions changed: system registers, accumulator windows,
counters, owed results, scratch stand as they were. -/
def SameTeam (a b : Team) : Prop :=
  { b with threads := a.threads, groups := a.groups, k := a.k, kf := a.kf, kexc := a.kexc, soft := a.soft, fresh := a.fresh, ret := a.ret } = a ∧
  b.threads.length = a.threads.length ∧ ∀ tid, SameThread (a.thread tid) (b.thread tid)

/-- What an instruction that only writes registers may have changed: `ws` are its writes (thread, register, value), `fl` the
flags it raises. Registers it does not write hold what they held; t0-t7 and L are compared while the run goes on, for they
end with it (R160). -/
structure WroteOnly (s s' : State) (c : Iss) (ws : List (Nat × Reg × DWord)) (fl : BitVec 5) : Prop where
  machine : SameMachine s s'
  others : SameOthers s s' c.t
  team : ∃ tm, s'.team? c.t = some tm ∧ SameTeam c.tm tm ∧ tm.kexc = c.tm.kexc ||| fl ∧
    (∀ w ∈ ws, (w.2.1.isTeam = false → w.1 < c.tm.threads.length) → (w.2.1.isT = true → c.goesOn) → tm.reg w.1 w.2.1 = w.2.2) ∧
    (∀ tid r, (r.isT = true → c.goesOn) → (∀ w ∈ ws, w.2.1 = r → r.isTeam = false ∧ w.1 ≠ tid) → tm.reg tid r = c.tm.reg tid r)

/-- What an instruction whose results arrive later may have changed: results are owed after those owed before, each named by its thread
(none for a k register), its register and its value where that is there. -/
structure OwesOnly (s s' : State) (c : Iss) (l : List (Option Nat × Reg × Option DWord)) : Prop where
  machine : SameMachine s s'
  others : SameOthers s s' c.t
  team : ∃ tm, s'.team? c.t = some tm ∧ SameTeam c.tm { tm with wbs := c.tm.wbs } ∧ tm.kexc = c.tm.kexc ∧
    (∀ tid r, (r.isT = true → c.goesOn) → tm.reg tid r = c.tm.reg tid r) ∧
    tm.wbs.map (fun w => (w.tid, w.reg, w.val)) = c.tm.wbs.map (fun w => (w.tid, w.reg, w.val)) ++ l

/-- Results of the threads of a group, as owed. -/
def Iss.owed (c : Iss) (f : Nat → List (Reg × Option DWord)) : List (Option Nat × Reg × Option DWord) :=
  c.g.tids.flatMap (fun tid => (f tid).map (fun r => (some tid, r.1, r.2)))

end Sys2Proof.Machine
end

