-- ==== Sys2Proof/Certificates/Slice0/Obligations.lean ====
section
/-! DEFINITION. The statements for the provers. -/

namespace Sys2Proof.Said

open Sys2Proof.Machine

-- The forms of instructions that only write registers.

/-- What an instruction that only writes registers does: the registers it uses, its writes (thread, register, value) and the
flags it raises, as the state in which it issues gives them. -/
structure Plain where
  use : Use
  writes : State → Iss → List (Nat × Reg × DWord)
  flags : State → Iss → BitVec 5 := fun _ _ => 0

/-- In every thread of the group, code d receives a 32-bit result, and so does L (R150, R160, R191). -/
def lanes (u : Use) (d : Nat) (x : State → Iss → Nat → Word) : Plain :=
  { use := u, writes := fun s c => c.g.tids.flatMap (fun tid => dstWrites tid d (x s c tid)) }

/-- d := f(a). -/
def un (d a : BitVec 7) (f : Word → Word) : Plain :=
  lanes ((Use.dst d.toNat 1).add (Use.src a.toNat 1)) d.toNat (fun s c tid => f (c.src s tid a.toNat))

/-- d := f(a, b). -/
def bin (d a b : BitVec 7) (f : Word → Word → Word) : Plain :=
  lanes ((Use.dst d.toNat 1).add ((Use.src a.toNat 1).add (Use.src b.toNat 1))) d.toNat
    (fun s c tid => f (c.src s tid a.toNat) (c.src s tid b.toNat))

/-- d := f(d, a, b). -/
def tri (d a b : BitVec 7) (f : Word → Word → Word → Word) : Plain :=
  lanes ((Use.dst d.toNat 1).add ((Use.src d.toNat 1).add ((Use.src a.toNat 1).add (Use.src b.toNat 1)))) d.toNat
    (fun s c tid => f (c.src s tid d.toNat) (c.src s tid a.toNat) (c.src s tid b.toNat))

/-- The 16-bit form: code d is also the first operand (R146, R147). -/
def short (d q : BitVec 5) (f : Word → Word → Word) : Plain :=
  lanes ((Use.dst (short7 d) 1).add ((Use.src (short7 d) 1).add (Use.src (short7 q) 1))) (short7 d)
    (fun s c tid => f (c.src s tid (short7 d)) (c.src s tid (short7 q)))

/-- A predicate p receives a comparison of a and b, combined with its old value by the mod (R210). -/
def test (m : BitVec 2) (p : BitVec 3) (a b : BitVec 7) (f : Word → Word → Bool) (fl : State → Iss → BitVec 5) : Plain :=
  { use := (Use.pdst p.toNat).add ((if m = 0 then {} else Use.psrc p.toNat).add ((Use.src a.toNat 1).add (Use.src b.toNat 1)))
    writes := fun s c => c.g.tids.map (fun tid =>
      let r := f (c.src s tid a.toNat) (c.src s tid b.toNat)
      (tid, .p p.toNat, if (if m = 0 then r else if m = 1 then c.pred s tid p.toNat && r else c.pred s tid p.toNat || r) then 1 else 0))
    flags := fl }

/-- Two 16-bit halves, the high one first. -/
def halves (f : BitVec 16 → BitVec 16 → BitVec 16) (a b : Word) : Word :=
  f ((a >>> 16).setWidth 16) ((b >>> 16).setWidth 16) ++ f (a.setWidth 16) (b.setWidth 16)

/-- The nearest number of n bits, signed. -/
def sat (n : Nat) (x : Int) : BitVec n := BitVec.ofInt n (max (-2 ^ (n - 1)) (min (2 ^ (n - 1) - 1) x))

/-- The integer lane instructions (R146, R203 MOVK, R204-R212). -/
def integer : Instr → Option Plain
  | .iadd _ m d a b => some (bin d a b (fun x y => if m = 0 then x + y else if m = 1 then sat 32 (x.toInt + y.toInt)
      else if m = 2 then halves (· + ·) x y else halves (fun p q => sat 16 (p.toInt + q.toInt)) x y))
  | .isub _ m d a b => some (bin d a b (fun x y => if m = 0 then x - y else if m = 1 then sat 32 (x.toInt - y.toInt)
      else if m = 2 then halves (· - ·) x y else halves (fun p q => sat 16 (p.toInt - q.toInt)) x y))
  | .imul _ m d a b => some (bin d a b (fun x y => if m = 0 then x * y else if m = 1 then BitVec.ofInt 32 (x.toInt * y.toInt / 2 ^ 32)
      else if m = 2 then BitVec.ofNat 32 (x.toNat * y.toNat / 2 ^ 32) else halves (· * ·) x y))
  | .imad _ m d a b => some (tri d a b (fun z x y => if m = 0 then x * y + z else halves (· + ·) (halves (· * ·) x y) z))
  | .imin _ m d a b => some (bin d a b (minMode m))
  | .imax _ m d a b => some (bin d a b (maxMode m))
  | .and _ d a b => some (bin d a b (· &&& ·))
  | .or _ d a b => some (bin d a b (· ||| ·))
  | .xor _ d a b => some (bin d a b (· ^^^ ·))
  | .andn _ d a b => some (bin d a b (fun x y => x &&& ~~~ y))
  | .shl _ d a b => some (bin d a b (fun x y => x <<< (y.toNat % 32)))
  | .shr _ d a b => some (bin d a b (fun x y => x >>> (y.toNat % 32)))
  | .sar _ d a b => some (bin d a b (fun x y => x.sshiftRight (y.toNat % 32)))
  | .rol _ d a b => some (bin d a b (fun x y => x <<< (y.toNat % 32) ||| x >>> (32 - y.toNat % 32)))
  | .popc _ d a => some (un d a popcW)
  | .clz _ d a => some (un d a clzW)
  | .ctz _ d a => some (un d a ctzW)
  | .brev _ d a => some (un d a brevW)
  | .not _ d a => some (un d a (~~~ ·))
  | .abs _ d a => some (un d a (fun x => if x.toInt < 0 then -x else x))
  | .neg _ d a => some (un d a (fun x => -x))
  | .bfx _ d a b => some (bin d a b bfxW)
  | .bfxS _ d a b => some (bin d a b bfxsW)
  | .bfi _ d a b => some (tri d a b bfiW)
  | .iaddi _ d a i => some (un d a (fun x => x + i.signExtend 32))
  | .andi _ d a i => some (un d a (fun x => x &&& i.signExtend 32))
  | .ori _ d a i => some (un d a (fun x => x ||| i.signExtend 32))
  | .xori _ d a i => some (un d a (fun x => x ^^^ i.signExtend 32))
  | .shli _ d a n => some (un d a (fun x => x <<< n.toNat))
  | .shri _ d a n => some (un d a (fun x => x >>> n.toNat))
  | .sari _ d a n => some (un d a (fun x => x.sshiftRight n.toNat))
  | .roli _ d a n => some (un d a (fun x => x <<< n.toNat ||| x >>> (32 - n.toNat)))
  | .movi _ d i => some (lanes (Use.dst d.toNat 1) d.toNat (fun _ _ _ => i.signExtend 32))
  | .movk _ k v => some (lanes ((Use.dst v.toNat 1).add (Use.ksrc k.toNat 1)) v.toNat (fun s c _ => (c.k s k.toNat).setWidth 32))
  | .icmp _ m p c a b => some (test m p a b (icmpOp c) (fun _ _ => 0))
  | .plog _ d c a b => some
      { use := (Use.pdst d.toNat).add ((Use.psrc a.toNat).add (Use.psrc b.toNat))
        writes := fun s i => i.g.tids.map (fun tid => (tid, .p d.toNat,
          if c.getLsbD ((if i.pred s tid a.toNat then 2 else 0) + (if i.pred s tid b.toNat then 1 else 0)) then 1 else 0)) }
  | .sel _ p d a b => some (lanes ((Use.dst d.toNat 1).add ((Use.psrc p.toNat).add ((Use.src a.toNat 1).add (Use.src b.toNat 1)))) d.toNat
      (fun s c tid => if c.pred s tid p.toNat then c.src s tid a.toNat else c.src s tid b.toNat))
  | .mov d q => some (short d q (fun _ y => y))
  | .iadd16 d q => some (short d q (· + ·))
  | .isub16 d q => some (short d q (· - ·))
  | .imul16 d q => some (short d q (· * ·))
  | .imin16 d q => some (short d q minS)
  | .imax16 d q => some (short d q maxS)
  | .and16 d q => some (short d q (· &&& ·))
  | .or16 d q => some (short d q (· ||| ·))
  | .xor16 d q => some (short d q (· ^^^ ·))
  | .shl16 d q => some (short d q (fun x y => x <<< (y.toNat % 32)))
  | .shr16 d q => some (short d q (fun x y => x >>> (y.toNat % 32)))
  | .sar16 d q => some (short d q (fun x y => x.sshiftRight (y.toNat % 32)))
  | _ => none

/-- In every thread of the group, code d receives a result of n registers with its flags (R150, R160, R191). -/
def lanesF (u : Use) (d n : Nat) (x : State → Iss → Nat → DWord × BitVec 5) : Plain :=
  { use := u, writes := fun s c => c.g.tids.flatMap (fun tid => dstWritesN tid d n (x s c tid).1)
    flags := fun s c => c.g.tids.foldl (fun fl tid => fl ||| (x s c tid).2) 0 }

/-- A 32-bit result as one of n registers. -/
def low (r : Word × BitVec 5) : DWord × BitVec 5 := (r.1.setWidth 64, r.2)

/-- d := f(a) with flags, under the system registers in force. -/
def unF (d a : BitVec 7) (f : SysRegs → Word → Word × BitVec 5) : Plain :=
  lanesF ((Use.dst d.toNat 1).add (Use.src a.toNat 1)) d.toNat 1 (fun s c tid => low (f c.tm.eff.sr (c.src s tid a.toNat)))

/-- d := f(a, b) with flags; operands by their 7-bit codes. -/
def binF (d a b : Nat) (f : SysRegs → Word → Word → Word × BitVec 5) : Plain :=
  lanesF ((Use.dst d 1).add ((Use.src a 1).add (Use.src b 1))) d 1
    (fun s c tid => low (f c.tm.eff.sr (c.src s tid a) (c.src s tid b)))

/-- d := f(d, a, b) with flags. -/
def triF (d a b : BitVec 7) (f : SysRegs → Word → Word → Word → Word × BitVec 5) : Plain :=
  lanesF ((Use.dst d.toNat 1).add ((Use.src d.toNat 1).add ((Use.src a.toNat 1).add (Use.src b.toNat 1)))) d.toNat 1
    (fun s c tid => low (f c.tm.eff.sr (c.src s tid d.toNat) (c.src s tid a.toNat) (c.src s tid b.toNat)))

/-- d := f(a) over operands of n and m registers. -/
def wideF (d a : BitVec 7) (n m : Nat) (f : SysRegs → DWord → DWord × BitVec 5) : Plain :=
  lanesF ((Use.dst d.toNat n).add (Use.src a.toNat m)) d.toNat n (fun s c tid => f c.tm.eff.sr (c.srcN s tid a.toNat m))

/-- A pair d := f(d, a, b); `rd` says that d is read. -/
def pairF (rd : Bool) (d a b : BitVec 7) (f : SysRegs → DWord → DWord → DWord → DWord × BitVec 5) : Plain :=
  lanesF ((Use.dst d.toNat 2).add ((if rd then Use.src d.toNat 2 else {}).add ((Use.src a.toNat 2).add (Use.src b.toNat 2)))) d.toNat 2
    (fun s c tid => f c.tm.eff.sr (if rd then c.src64 s tid d.toNat else 0) (c.src64 s tid a.toNat) (c.src64 s tid b.toNat))

/-- The floating lane instructions, conversions, and ADDMIN and ADDMAX (R63, R146, R164, R205, R210, R213-R218). -/
def float : Instr → Option Plain
  | .fadd _ m d a b => some (binF d.toNat a.toNat b.toNat (fun sr x y => asWord (fAdd f32 (rmOf sr m) x.toNat y.toNat)))
  | .fmul _ m d a b => some (binF d.toNat a.toNat b.toNat (fun sr x y => asWord (fMul f32 (rmOf sr m) x.toNat y.toNat)))
  | .ffma _ m d a b => some (triF d a b (fun sr z x y => asWord (fFma f32 (rmOf sr m) x.toNat y.toNat z.toNat)))
  | .fmin _ d a b => some (binF d.toNat a.toNat b.toNat (fun _ x y => asWord (minMax f32 false false x.toNat y.toNat)))
  | .fmax _ d a b => some (binF d.toNat a.toNat b.toNat (fun _ x y => asWord (minMax f32 true false x.toNat y.toNat)))
  | .fminNum _ d a b => some (binF d.toNat a.toNat b.toNat (fun _ x y => asWord (minMax f32 false true x.toNat y.toNat)))
  | .fmaxNum _ d a b => some (binF d.toNat a.toNat b.toNat (fun _ x y => asWord (minMax f32 true true x.toNat y.toNat)))
  | .addmin _ m d a b => some (triF d a b (addMinMax false m))
  | .addmax _ m d a b => some (triF d a b (addMinMax true m))
  | .hadd _ d a b => some (binF d.toNat a.toNat b.toNat (fun sr x y => half2 (fun _ p q => fAdd f16 (rmOf sr 0) p q) 0 x y))
  | .hmul _ d a b => some (binF d.toNat a.toNat b.toNat (fun sr x y => half2 (fun _ p q => fMul f16 (rmOf sr 0) p q) 0 x y))
  | .hfma _ d a b => some (triF d a b (fun sr z x y => half2 (fun r p q => fFma f16 (rmOf sr 0) p q r) z x y))
  | .hfmaBf16x2 _ d a b => some (triF d a b (fun sr z x y => half2 (fun r p q => fFma bf16 (rmOf sr 0) p q r) z x y))
  | .dadd _ d a b => some (pairF false d a b (fun sr _ x y => asDWord (fAdd f64 (rmOf sr 0) x.toNat y.toNat)))
  | .dmul _ d a b => some (pairF false d a b (fun sr _ x y => asDWord (fMul f64 (rmOf sr 0) x.toNat y.toNat)))
  | .dfma _ d a b => some (pairF true d a b (fun sr z x y => asDWord (fFma f64 (rmOf sr 0) x.toNat y.toNat z.toNat)))
  | .fneg _ d a => some (unF d a (fun _ x => (x ^^^ 0x80000000, 0)))
  | .fabs _ d a => some (unF d a (fun _ x => (x &&& 0x7FFFFFFF, 0)))
  | .frcp _ m d a => some (unF d a (fun sr x => asWord (fRcp f32 (rmOf sr m) x.toNat)))
  | .fsqrt _ m d a => some (unF d a (fun sr x => asWord (fSqrt f32 (rmOf sr m) x.toNat)))
  | .frsq _ d a => some (unF d a (fun _ x => asWord (fRsq x.toNat)))
  | .fexp2 _ d a => some (unF d a (fun _ x => asWord (fExp2 x.toNat)))
  | .flog2 _ d a => some (unF d a (fun _ x => asWord (fLog2 x.toNat)))
  | .fsin _ d a => some (unF d a (fun _ x => asWord (fSin x.toNat)))
  | .fcos _ d a => some (unF d a (fun _ x => asWord (fCos x.toNat)))
  | .dneg _ d a => some (wideF d a 2 2 (fun _ x => (x ^^^ 0x8000000000000000, 0)))
  | .dabs _ d a => some (wideF d a 2 2 (fun _ x => (x &&& 0x7FFFFFFFFFFFFFFF, 0)))
  | .drcp _ m d a => some (wideF d a 2 2 (fun sr x => asDWord (fRcp f64 (rmOf sr m) x.toNat)))
  | .dsqrt _ m d a => some (wideF d a 2 2 (fun sr x => asDWord (fSqrt f64 (rmOf sr m) x.toNat)))
  | .cvt _ m d a t r => some (wideF d a (if cvtDst64 t then 2 else 1) (if cvtSrc64 r then 2 else 1) (fun sr x => cvtOp t r (rmOf sr m) x))
  | .fcmp _ m p c a b => some (test m p a b (fun x y => (fcmpOp c x y).1)
      (fun s i => i.g.tids.foldl (fun fl tid => fl ||| (fcmpOp c (i.src s tid a.toNat) (i.src s tid b.toNat)).2) 0))
  | .fadd16 d q => some (binF (short7 d) (short7 d) (short7 q) (fun sr x y => asWord (fAdd f32 (rmOf sr 0) x.toNat y.toNat)))
  | .fmul16 d q => some (binF (short7 d) (short7 d) (short7 q) (fun sr x y => asWord (fMul f32 (rmOf sr 0) x.toNat y.toNat)))
  | .fmin16 d q => some (binF (short7 d) (short7 d) (short7 q) (fun _ x y => asWord (minMax f32 false false x.toNat y.toNat)))
  | .fmax16 d q => some (binF (short7 d) (short7 d) (short7 q) (fun _ x y => asWord (minMax f32 true false x.toNat y.toNat)))
  | _ => none

/-- One k register receives one value (R192). -/
def kres (u : Use) (d : BitVec 6) (x : State → Iss → DWord) : Plain :=
  { use := u.add (Use.kdst d.toNat 1), writes := fun s c => [(0, .k d.toNat, x s c)] }

/-- kd := f(ka, kb). -/
def kbin (d a b : BitVec 6) (f : DWord → DWord → DWord) : Plain :=
  kres ((Use.ksrc a.toNat 1).add (Use.ksrc b.toNat 1)) d (fun s c => f (c.k s a.toNat) (c.k s b.toNat))

/-- An instruction without a result. -/
def silent (u : Use) : Plain := { use := u, writes := fun _ _ => [] }

/-- The uniform instructions that only write registers, the branches, and STALL (R148, R192, R194, R195, R198-R203). -/
def uniform : Instr → Option Plain
  | .kadd _ d a b => some (kbin d a b (· + ·))
  | .ksub _ d a b => some (kbin d a b (· - ·))
  | .kmul _ d a b => some (kbin d a b (· * ·))
  | .kand _ d a b => some (kbin d a b (· &&& ·))
  | .kor _ d a b => some (kbin d a b (· ||| ·))
  | .kxor _ d a b => some (kbin d a b (· ^^^ ·))
  | .kshl _ d a b => some (kbin d a b (fun x y => x <<< (y.toNat % 64)))
  | .kshr _ d a b => some (kbin d a b (fun x y => x >>> (y.toNat % 64)))
  | .ksar _ d a b => some (kbin d a b (fun x y => x.sshiftRight (y.toNat % 64)))
  | .kmin _ d a b => some (kbin d a b (fun x y => if x.toInt ≤ y.toInt then x else y))
  | .kmax _ d a b => some (kbin d a b (fun x y => if x.toInt ≤ y.toInt then y else x))
  | .kminn _ d a b => some (kbin d a b (fun x y => if x.toNat ≤ y.toNat then x else y))
  | .kmaxn _ d a b => some (kbin d a b (fun x y => if x.toNat ≤ y.toNat then y else x))
  | .kcmp _ a b => some
      { use := ((Use.ksrc a.toNat 1).add (Use.ksrc b.toNat 1)).add ⟨[], [.kf], 0, false⟩
        writes := fun s c =>
          let x := c.k s a.toNat
          let y := c.k s b.toNat
          [(0, .kf, (BitVec.ofBool (x == 0) ++ BitVec.ofBool (x.ult y) ++ BitVec.ofBool (x.slt y) ++ BitVec.ofBool (x == y)).setWidth 64)] }
  | .kaddi _ d a i => some (kres (Use.ksrc a.toNat 1) d (fun s c => c.k s a.toNat + i.signExtend 64))
  | .kldi d h k i => some (kres (if k = 1 then Use.ksrc d.toNat 1 else {}) d (fun s c =>
      (if k = 1 then c.k s d.toNat &&& ~~~ ((0xFFFF : DWord) <<< (16 * h.toNat)) else 0) ||| i.setWidth 64 <<< (16 * h.toNat)))
  | .krd _ k e => some (kres (if e = 1 then ⟨[.kf], [], 0, false⟩ else {}) k (fun s c => krdValue c.tm (if e = 1 then c.kf s else 0) e.toNat))
  | .kmovv _ k v => some (kres (Use.src v.toNat 1) k (fun s c => (c.src s c.low v.toNat).setWidth 64))
  | .stall _ => some (silent {})
  | .bra cond _ _ => some (silent (if cond.toNat < 8 then Use.psrc cond.toNat else ⟨[.kf], [], 0, false⟩))
  | .ret v => some (silent (Use.src v.toNat 2))
  | .jmpk k => some (silent (Use.ksrc k.toNat 1))
  | .call v _ => some
      { use := Use.dst v.toNat 2
        writes := fun _ c => c.g.tids.flatMap (fun tid =>
          [(tid, .v v.toNat, c.g.next &&& 0xFFFFFFFF), (tid, .v (v.toNat + 1), c.g.next >>> 32)]) }
  | _ => none

/-- Where the threads of a group go on after a branch (R194, R195): offsets count in halfwords from the branch itself. -/
def target (s : State) (c : Iss) (tid : Nat) : Instr → Option DWord
  | .bra cond sense off => some (if (if cond.toNat < 8 then c.pred s tid cond.toNat else (c.kf s).testBit (cond.toNat - 8)) = (sense == 0)
      then c.g.addr + off.signExtend 64 * 2 else c.g.next)
  | .call _ imm => some (c.g.addr + imm.signExtend 64 * 2)
  | .ret v => some (c.src64 s tid v.toNat)
  | .jmpk k => some (c.k s k.toNat)
  | _ => none

/-- The state after the release that an instruction of the group makes, or as it stands where it makes none (R94, R103, R129). -/
def released (s : State) (c : Iss) (want : Bool) : State := if want then (s.release c.tm.core).disarm c else s

/-- The release can take effect, where one is wanted. -/
def mayRelease (s : State) (c : Iss) (want : Bool) : Prop := want = true → s.canRelease c.tm.core = true

/-- The issue of an instruction that makes operations and releases: behind an acquire or an access that has not taken effect, or while the release cannot
be made yet, the release waits with the operation (R42, R119, R393), for the accesses of its thread. -/
def starts (s : State) (c : Iss) (want : Bool) : State := if s.lateIssue c want = true then s.disarm c else released s c want
def startsAfter (s : State) (c : Iss) (want : Bool) (tid : Nat) : List Nat := if s.lateIssue c want = true then [tid] else []

/-- No access of the group's threads is on its way that no acquire holds (R42, R393). -/
def inOrder (c : Iss) : Prop := c.acquiring = true → c.tm.acquires c.g.tids ≠ []

/-- One more thread of the crew has arrived with its inputs. -/
def arrivalsOf (s : State) (c : Iss) (inp : State → Iss → Nat → Word × Word × Bool) (tid : Nat) : List (Nat × Arrival) :=
  (c.g.tids.filter (fun u => u / 32 == tid / 32)).map (fun u => (u, ⟨c.g.addr, true, false, (inp s c u).1, (inp s c u).2.1, (inp s c u).2.2⟩))

/-- A cross-thread instruction: the registers it uses, its destination, its inputs, and what it gives the thread `tid` of a crew whose
active threads came with `l`, in ascending index (R193). -/
structure Crossed where
  use : Use
  d : Nat
  inp : State → Iss → Nat → Word × Word × Bool
  out : SysRegs → List (Nat × Arrival) → Nat → XRes

/-- The input of a thread. -/
def own (l : List (Nat × Arrival)) (tid : Nat) : Arrival := ((l.find? (fun r => r.1 == tid)).map Prod.snd).getD ⟨0, true, false, 0, 0, false⟩

/-- One source a and a result for d and L. -/
def cross1 (d a : BitVec 7) (f : SysRegs → List (Nat × Arrival) → Nat → XRes) : Crossed :=
  ⟨(Use.dst d.toNat 1).add (Use.src a.toNat 1), d.toNat, fun s c tid => (c.src s tid a.toNat, 0, false), f⟩

/-- A vote: one predicate in, one word out. -/
def ballot (d : BitVec 7) (p : BitVec 3) (f : List (Nat × Arrival) → Word) : Crossed :=
  ⟨(Use.dst d.toNat 1).add (Use.psrc p.toNat), d.toNat, fun s c tid => (0, 0, c.pred s tid p.toNat), fun _ l _ => .word (f l)⟩

/-- COMPRESS and EXPAND: a source, a predicate, a result that not every thread receives. -/
def packed (d a : BitVec 7) (p : BitVec 3) (f : List (Nat × Arrival) → Nat → Option Word) : Crossed :=
  ⟨(Use.dst d.toNat 1).add ((Use.src a.toNat 1).add (Use.psrc p.toNat)), d.toNat, fun s c tid => (c.src s tid a.toNat, 0, c.pred s tid p.toNat),
    fun _ l tid => { d := f l tid, l := some (BitVec.ofNat 32 (l.countP (fun r => r.2.p))) }⟩

/-- The cross-thread instructions (R166, R219-R222). -/
def crossing : Instr → Option Crossed
  | .elect _ p => some ⟨Use.pdst p.toNat, p.toNat, fun _ _ _ => (0, 0, false), fun _ l tid => { p := some (l.all (fun r => decide (tid ≤ r.1))) }⟩
  | .shfl _ m d a b => some
      ⟨(Use.dst d.toNat 1).add ((Use.src a.toNat 1).add (Use.src b.toNat 1)), d.toNat,
        fun s c tid => (c.src s tid a.toNat, c.src s tid b.toNat, false),
        fun _ l tid =>
          let b := (own l tid).b.toNat
          let i := tid % 32
          let j : Int := if m = 0 then b else if m = 1 then i - b else if m = 2 then i + b else ((i ^^^ b : Nat) : Int)
          .word (match l.find? (fun r => ((r.1 % 32 : Nat) : Int) == j) with
            | some r => r.2.a
            | none => (own l tid).a)⟩
  | .voteAny _ d p => some (ballot d p (fun l => if l.any (fun r => r.2.p) then 1 else 0))
  | .voteAll _ d p => some (ballot d p (fun l => if l.all (fun r => r.2.p) then 1 else 0))
  | .voteBallot _ d p => some (ballot d p (fun l => crossMask l (fun r => r.p)))
  | .matchAny _ d a => some (cross1 d a (fun _ l tid => .word (crossMask l (fun r => r.a == (own l tid).a))))
  | .credAdd _ t d a => some (cross1 d a (fun sr l _ => .word (credScan 0 t sr l).2.1 (credScan 0 t sr l).2.2))
  | .credMin _ t d a => some (cross1 d a (fun sr l _ => .word (credScan 1 t sr l).2.1 (credScan 1 t sr l).2.2))
  | .credMax _ t d a => some (cross1 d a (fun sr l _ => .word (credScan 2 t sr l).2.1 (credScan 2 t sr l).2.2))
  | .cscanIncl _ t d a => some (cross1 d a (fun sr l tid =>
      .word (((credScan 0 t sr l).1.find? (fun r => r.1 == tid)).map (fun r => r.2.2) |>.getD 0) (credScan 0 t sr l).2.2))
  | .cscanExcl _ t d a => some (cross1 d a (fun sr l tid =>
      .word (((credScan 0 t sr l).1.find? (fun r => r.1 == tid)).map (fun r => r.2.1) |>.getD 0) (credScan 0 t sr l).2.2))
  | .compress _ d a p => some (packed d a p (fun l tid =>
      ((l.filter (fun r => r.2.p))[l.countP (fun r => decide (r.1 < tid))]?).map (fun r => r.2.a)))
  | .expand _ d a p => some (packed d a p (fun l tid =>
      if (own l tid).p then (l[l.countP (fun r => r.2.p && decide (r.1 < tid))]?).map (fun r => r.2.a) else none))
  | _ => none

/-- The whole of each crew that the group touches is in the group, in ascending index, and has no arrival or result left over. -/
structure WholeCrews (c : Iss) : Prop where
  sorted : c.g.tids.Pairwise (· < ·)
  inside : ∀ tid ∈ c.g.tids, tid < c.tm.threads.length ∧ (c.tm.thread tid).exited = false ∧ (c.tm.thread tid).arrivals = [] ∧ (c.tm.thread tid).xres = none
  whole : ∀ tid ∈ c.g.tids, ∀ u ∈ c.tm.live, u / 32 = tid / 32 → u ∈ c.g.tids

/-- The result of a thread of the group. -/
def Crossed.res (x : Crossed) (s : State) (c : Iss) (tid : Nat) : XRes := x.out c.tm.eff.sr (arrivalsOf s c x.inp tid) tid

/-- The writes of the group: d, L or the predicate of each thread. -/
def Crossed.writes (x : Crossed) (s : State) (c : Iss) : List (Nat × Reg × DWord) := c.g.tids.flatMap (fun tid => (x.res s c tid).writes tid x.d)

/-- The flags of the group's executions. -/
def Crossed.flags (x : Crossed) (s : State) (c : Iss) : BitVec 5 := c.g.tids.foldl (fun fl tid => fl ||| (x.res s c tid).fl) 0

/-- What the threads of a group at a run header meet before the run: nothing (R153, R193, R277, R352, R364). -/
structure AtHeader (s : State) (c : Iss) (pred : BitVec 3) : Prop where
  iss : s.iss = some c
  live : ∀ tid ∈ c.g.tids, tid < c.tm.threads.length ∧ (c.tm.thread tid).exited = false
  calm : ∀ tid ∈ c.g.tids, (c.tm.thread tid).doomed = false ∧ (c.tm.thread tid).mcheck = [] ∧ c.tm.toSend tid = false
  fresh : ∀ tid ∈ c.g.tids, (c.tm.thread tid).arrivals = []
  known : pred = 7 ∨ ∀ tid ∈ c.g.tids, c.tm.pending tid (.p pred.toNat) = false

/-- Those threads of a group whose predicate is as the header asks take part in the run (R153). -/
def AtHeader.goes (s : State) (c : Iss) (pred : BitVec 3) (sense : BitVec 1) (tid : Nat) : Bool := c.pred s tid pred.toNat == (sense == 0)

/-- A thread that has ended: it exits, a trap record that it has not returned from goes (R371), and so do its machine checks (R364). -/
def gone (th : Thread) : Thread :=
  { th with exited := true, mcheck := [], hm := false, trMid := if th.hm then none else th.trMid, epc := if th.hm then 0 else th.epc
            ecause := if th.hm then 0 else th.ecause, eva := if th.hm then 0 else th.eva }

/-- What trap entry delivers in registers: the pair of epc, ecause and the pair of eva, each within the declaration (R360, R362). -/
def delivered (tm : Team) (epc : DWord) (ecause : BitVec 32) (eva : DWord) : List (Nat × DWord) :=
  let d := tm.eff.sr.tdel.toNat
  let pair (n : Nat) (x : DWord) : List (Nat × DWord) := if n + 1 < tm.tr.regs then [(n, x &&& 0xFFFFFFFF), (n + 1, x >>> 32)] else []
  if bit d 7 then
    pair (bits d 6 0) epc ++ (if bits d 14 8 < tm.tr.regs then [(bits d 14 8, ecause.setWidth 64)] else []) ++ pair (bits d 22 16) eva
  else []

/-- A thread can take a trap of its own: nothing is owed, it is outside a region and no handler of its own runs (R359-R361). -/
def trapsAlone (c : Iss) (tid : Nat) : Prop :=
  c.tm.owes tid = false ∧ (c.tm.thread tid).region = none ∧ (c.tm.thread tid).hm = false

/-- A handler is there: sr.tvec is enabled and a run header stands at its address (R361, R362). -/
def handled (s : State) (c : Iss) : Prop := c.tm.eff.sr.tvec.getLsbD 0 = true ∧ s.headerAt c.tm.xlat (c.tm.eff.sr.tvec &&& ~~~ 1) = true

/-- Some threads of a group trap at its present instruction, and the others go on in the same issue (R17, R227): while one of those that trap has
to wait, nothing moves; when none is left, the traps are all that the issue does; else the instruction goes on as `rest`, with the others, where
their state lets it. -/
def trapsSome (i : Instr) (s : State) (c : Iss) (bad : List (Nat × Trap)) (rest : State → Iss → Prop) : Prop :=
  (∀ w, s.trapWait c.t c.gid c.tm (bad.map Prod.fst) = some w → exec i s = .next w) ∧
  (s.trapWait c.t c.gid c.tm (bad.map Prod.fst) = none →
    let s' := s.trapEach c.t c.gid 0 bad
    (s'.iss = none → exec i s = .next (s'.issued c.t)) ∧
    (∀ c', s'.iss = some c' → rest s' c' → exec i s = exec i s'))

/-- The address of the next record of a team's crumb log (R365). -/
def ringVa (s : State) (tm : Team) : DWord :=
  (tm.eff.sr.crumb &&& ~~~ 0x3F) + BitVec.ofNat 64 (32 * ((s.ctx tm.ctx).sr.crumbc.toNat / 2 ^ 32 % 2 ^ (tm.eff.sr.crumbc.toNat % 32)))

/-- Where ERET resumes a thread: by its trap record, or outside a handler by the resume record of its block (R363, R367). -/
def resumed (s : State) (c : Iss) (tid : Nat) : DWord × Option Mid :=
  let th := c.tm.thread tid
  if th.hm then (th.epc, th.trMid) else s.blockRecord c.tm tid

/-- The mid-run record that ERET or ERET.skip leaves: .skip moves on by one instruction, to the end of the body at most (R363). -/
def skipped (s : State) (c : Iss) (skip : Bool) (m : Mid) : Mid :=
  if skip && decide (m.off < s.lenAt c.tm.xlat m.hdr) then { m with off := m.off + 1 } else m

/-- The scratch address of LDS and STS: the base and the offset in units of the width (R224). -/
def scratchEa (s : State) (c : Iss) (a o : BitVec 7) (w : BitVec 2) (tid : Nat) : Word :=
  c.src s tid a.toNat + o.signExtend 32 * BitVec.ofNat 32 (2 ^ (w.toNat + 1))

/-- Registers of a width code: one up to 4 bytes, then 2 and 4 (R163, R224). -/
def regsOf (w : BitVec 2) : Nat := if w.toNat ≤ 1 then 1 else 2 ^ (w.toNat - 1)

/-- Every thread's scratch access of n bytes is aligned and its pages are pinned (R87, R117). -/
def scratchReady (s : State) (c : Iss) (ea : Nat → Word) (n : Nat) : Prop :=
  ∀ tid ∈ c.g.tids, (ea tid).toNat % n = 0 ∧ s.unpinned c.t (ea tid).toNat n = []

/-- None of the scratch bytes read has a data error (R364). -/
def scratchSound (s : State) (c : Iss) (ea : Nat → Word) (n : Nat) : Prop :=
  ∀ tid ∈ c.g.tids, s.scrTrap c.t (ea tid).toNat n = none

/-- The uses of LDS, STS and the lane atomics. -/
def useLds (w : BitVec 2) (d a : BitVec 7) : Use := (Use.src a.toNat 1).add (Use.dst d.toNat (regsOf w))
def useSts (w : BitVec 2) (d a : BitVec 7) : Use := (Use.src a.toNat 1).add (Use.src d.toNat (regsOf w))
def useAtom (n : Nat) (d a : BitVec 7) (o : BitVec 5) (z : BitVec 2) : Use :=
  (Use.src a.toNat n).add ((Use.src d.toNat (atomReads o z)).add (Use.dst d.toNat (atomWrites z)))

/-- The page of a lane access of n bytes: aligned, translated, permitted, on a future-capable page where one is asked for, and without a
data error (R83, R227, R228, R364). -/
def laneOk (s : State) (c : Iss) (va : Nat → DWord) (n : Nat) (k : Access) (fut store : Bool) : Prop :=
  ∀ tid ∈ c.g.tids, ∃ e, c.laneAddr s (va tid) n k fut store = .ok e

/-- The same of an access that reads no byte of what it names, so that a data error there does not matter (R230, R364). -/
def laneNamed (s : State) (c : Iss) (va : Nat → DWord) (n : Nat) (k : Access) (fut store : Bool) : Prop :=
  ∀ tid ∈ c.g.tids, ∃ e, c.lanePage s (va tid) n k fut store = .ok e

/-- The page of an address, where it is translated, is one that links reach (R387). -/
def reached (s : State) (x : Xlat) (va : DWord) : Prop :=
  ∀ e, s.pte? x va = some e → s.foreign (paOf e va) = true → s.routed (paOf e va) = true

/-- The copy that a core holds of a line, if any, is of the class of an access to it (R95). -/
def sameClass (s : State) (core line coh : Nat) (nc : Bool) : Prop :=
  ∀ l, FMap.get? (s.core core).lines line = some l → l.nc = nc ∧ (nc = true ∨ l.coh = coh)

/-- Where the accesses of the group's lanes go: address and page entry. -/
def lanesAt (s : State) (c : Iss) (va : Nat → DWord) : List (Nat × Nat) := c.g.tids.map (fun tid => c.lanePa s (va tid))

/-- Results owed by one thread under a fresh name. -/
def owes (s : State) (c : Iss) (tid : Nat) (acq : Bool) (l : List (Reg × Option DWord)) : State :=
  ({ s with nextId := s.nextId + 1 } : State).owe c.t s.nextId tid false acq l

/-- A result owed to a k register by every thread of the group, in the lowest one's name, under a fresh name (R192, R359). -/
def owesAll (s : State) (c : Iss) (d : BitVec 6) (x : Option DWord) : State :=
  ({ s with nextId := s.nextId + 1 } : State).owe c.t s.nextId c.low true false [(.k d.toNat, x)] 0 false c.g.tids

/-- Results owed to k registers by one thread under a fresh name. -/
def owesK (s : State) (tid : Nat) (c : Iss) (l : List (Reg × Option DWord)) : State :=
  ({ s with nextId := s.nextId + 1 } : State).owe c.t s.nextId tid true false l

/-- A PWAIT goes on: an acquire, its threads leave the wait, the team's waiting object is forgotten if it was this one (R125, R251). -/
def waited (s : State) (c : Iss) (ref : PhRef) (after : Thread → Nat → Thread) : State :=
  (s.acquire c.tm.core).updTeam c.t (fun tm =>
    let tm := c.g.tids.foldl (fun tm tid => tm.updThread tid (fun th => { (after th tid) with pwait := false })) tm
    { tm with waiter := if tm.waiter = some ref then none else tm.waiter })

/-- A thread past its PWAIT on a fence token: the fences at or before the token's that are done are forgotten; one with release semantics arms
the thread's next store or atomic (R129, R250). -/
def fenced (s : State) (c : Iss) (v : BitVec 7) (th : Thread) (tid : Nat) : Thread :=
  let tok := (c.src s tid v.toNat).toNat
  let past (f : Fence) : Bool := tok.testBit 31 && f.done && decide ((tok % 2 ^ 31 + 2 ^ 31 - f.seq) % 2 ^ 31 < 2 ^ 30)
  { th with armed := th.armed || th.fences.any (fun f => past f && f.sem % 2 == 1), fences := th.fences.filter (fun f => !past f) }

/-- The group of one thread has issued its part and moves on. -/
def issued (s : State) (c : Iss) (tid gap : Nat) : State := (s.updThread c.t tid (fun th => { th with part := false })).advance c.t c.gid gap

/-- After its release the team still stands, with its threads. -/
def stands (s : State) (c : Iss) : Prop := ∃ tm, s.team? c.t = some tm ∧ tm.threads.length = c.tm.threads.length

/-- An engine copy that starts from a record (R231, R233): its class of R34, its k registers, what it is, the register of the record's
address, the first of a block, and the block's length. -/
structure Copying where
  cls : Nat
  kd : List Nat
  e : Eng
  a : BitVec 6
  b : BitVec 6
  n : Nat

/-- The engine copies (R239-R243). -/
def copying : Instr → Option Copying
  | .cpy _ d a b => some ⟨0, [d.toNat], .cpy, a, b, 5⟩
  | .cpyredArr _ d a b => some ⟨3, [d.toNat], .arr, a, b, 5⟩
  | .cpyredOrd _ d a b => some ⟨3, [d.toNat], .ord, a, b, 5⟩
  | .icpy _ d a b => some ⟨1, [d.toNat], .icpy, a, b, 4⟩
  | .isct _ d a b => some ⟨1, [d.toNat], .isct, a, b, 4⟩
  | .sread _ d a b => some ⟨0, [d.toNat, d.toNat + 1], .sread, a, b, 2⟩
  | .pref _ d a b => some ⟨0, [d.toNat], .pref, a, b, 5⟩
  | _ => none

/-- The registers for which a copy waits: those of its operands, and the predicate of sr.cpymode where copies do not wait (R158, R231, R238). A token
register that is awaited does not hold it (R252). -/
def copyUse (c : Iss) (u : Use) : Use :=
  if bit c.tm.eff.sr.cpymode.toNat 0 then u.add (Use.pdst (bits c.tm.eff.sr.cpymode.toNat 3 1)) else u

/-- The registers of a copy: the record's address, its block, and those of every copy. -/
def Copying.use (x : Copying) (c : Iss) : Use := copyUse c ((Use.ksrc x.a.toNat 1).add (Use.ksrc x.b.toNat x.n))

/-- The record's address and the block, as the group reads them. -/
def Copying.args (x : Copying) (s : State) (c : Iss) : List DWord := c.k s x.a.toNat :: (List.range x.n).map (fun i => c.k s (x.b.toNat + i))

/-- A copy is refused at once: copies do not wait and the core's queue is full (R231, R238). -/
def copyRefused (s : State) (c : Iss) : Bool := bit c.tm.eff.sr.cpymode.toNat 0 && decide (128 ≤ s.copiesOn c.tm.core)

/-- A copy of a class has room: its counter, and where copies wait an entry of the team's share (R23, R37). -/
def copyRoom (s : State) (c : Iss) (cls : Nat) : Prop :=
  s.cntRoom c.t cls = true ∧ (bit c.tm.eff.sr.cpymode.toNat 0 = true ∨ s.copiesOf c.t < c.tm.tr.copyq)

/-- The fields of a matrix instruction: signature register, unit, slots, flags (R289, R291, R293, R294). -/
def multiplying : Instr → Option (Use × (State → Iss → Mat))
  | .mma _ cv a b u f z n => some ({}, fun _ _ => ⟨cv.toNat, u.toNat, a.toNat, [b.toNat], none, f == 1, z == 1, n == 1⟩)
  | .mmasp _ cv a b u f z m => some ({}, fun _ _ => ⟨cv.toNat, u.toNat, a.toNat, [b.toNat], some m.toNat, f == 1, z == 1, false⟩)
  | .mmag _ cv a q u f z n => some (Use.ksrc (48 + q.toNat) 1, fun s c =>
      ⟨cv.toNat, u.toNat, a.toNat, (List.range 8).map (fun g => bits (c.k s (48 + q.toNat)).toNat (4 * g + 3) (4 * g)), none, f == 1, z == 1, n == 1⟩)
  | _ => none

/-- The i8 element (r, c) of a slot, or (c, r) of a transposed one, as an integer (R282, R291). -/
def i8At (tr : Bool) (s : OSlot) (r c : Nat) : Int := (BitVec.ofNat 8 (if tr then s.byte (64 * c + r) else s.byte (64 * r + c))).toInt

/-- Every signature is in and no slot named is being filled (R288). -/
def signed (s : State) (c : Iss) (m : Mat) : Prop :=
  ∃ tm, s.team? c.t = some tm ∧ tm.threads.length = c.tm.threads.length ∧ (FMap.getD tm.cv m.cv (0, 0)).2 = (FMap.getD tm.cv m.cv (0, 0)).1 ∧
    ∀ k ∈ m.names, ((s.core tm.core).slot k).state ≠ 2

/-- A gap of an instruction with a stall field: bits 8:7 of its word (R155). -/
def gap (st : BitVec 2) : Nat := 1 + st.toNat


/-- A token's value, owed at once to a k register by one thread, and the group moves on. -/
def told (s : State) (c : Iss) (tid : Nat) (d : BitVec 6) (g : Nat) (v : Nat) : State :=
  (owesK s tid c [(.k d.toNat, some (BitVec.ofNat 64 v))]).advance c.t c.gid g

/-- A keyed hash instruction: stall field, operation, HACC's operator, handle register, quad (R259, R260). -/
def hashing : Instr → Option (BitVec 2 × Nat × BitVec 3 × BitVec 6 × BitVec 7)
  | .hins st k q => some (st, 0, 0, k, q)
  | .hprobe st k q => some (st, 1, 0, k, q)
  | .hdel st k q => some (st, 2, 0, k, q)
  | .hacc st u k q => some (st, 3, u, k, q)
  | _ => none

/-- Reads of the key, and of the value where there is one; writes of status and value. -/
def useHash (op : Nat) (k : BitVec 6) (q : BitVec 7) : Use :=
  (Use.ksrc k.toNat 1).add ((Use.src q.toNat (if op = 1 || op = 2 then 1 else 2)).add (Use.dst (q.toNat + 2) 2))

/-- An operation that performs outside the engines (R330, R354): the registers it reads, whether its issue is a release, what it is, its token
registers, its failure predicate and its words. -/
structure Direct where
  use : Use
  rel : Bool
  e : Eng
  kd : List Nat
  pd : Option Nat
  args : State → Iss → List DWord

/-- The register ka and n registers from kb. -/
def block (a b : BitVec 6) (n : Nat) (s : State) (c : Iss) : List DWord := c.k s a.toNat :: (List.range n).map (fun i => c.k s (b.toNat + i))
def useBlock2 (a b : BitVec 6) (n : Nat) : Use := (Use.ksrc a.toNat 1).add (Use.ksrc b.toNat n)

/-- The instructions of standing sets, GLAUNCH and QPUT (R331-R336, R354-R356). -/
def operating : Instr → Option Direct
  | .scommit _ d a b => some ⟨useBlock2 a b 2, true, .scommit, [d.toNat], none, block a b 2⟩
  | .sraise _ d a b => some ⟨useBlock2 a b 1, true, .sraise, [d.toNat, d.toNat + 1], none, block a b 1⟩
  | .squery _ d a b => some ⟨useBlock2 a b 1, false, .squery, [d.toNat, d.toNat + 1, d.toNat + 2], none, block a b 1⟩
  | .sstart _ d a => some ⟨Use.ksrc a.toNat 1, false, .sstart, [d.toNat], none, fun s c => [c.k s a.toNat]⟩
  | .sstop _ d a => some ⟨Use.ksrc a.toNat 1, false, .sstop, [d.toNat], none, fun s c => [c.k s a.toNat]⟩
  | .glaunch _ d a b p => some ⟨useBlock2 a b 4, true, .glaunch, [d.toNat], some p.toNat, block a b 4⟩
  | .qput _ d a b p => some ⟨useBlock2 a b 1, true, .qput, [d.toNat], some p.toNat, block a b 1⟩
  | _ => none

/-- What such an instruction writes: its tokens and its predicate. -/
def Direct.writes (x : Direct) : Use := ⟨[], x.kd.map Reg.k ++ (x.pd.map Reg.p).toList, 0, false⟩

/-- Its results owed by one thread and its operation in flight, before it performs. -/
def Direct.start (x : Direct) (s : State) (c : Iss) (tid : Nat) (after : List Nat) : State :=
  let s1 := owesK s tid c (x.kd.map (fun k => (.k k, none)))
  let s2 := match x.pd with
    | some p => s1.owe c.t s.nextId tid false false [(.p p, none)]
    | none => s1
  let o : Op := { c.newOp tid 5 (.record x.e (x.args s c)) [s.nextId] with
    chunks := [⟨.skip, .skip, 0, 0, .record⟩], gen := (s.ctx c.tm.ctx).gen, after }
  { s2 with nextId := s.nextId + 2, ops := FMap.set s2.ops (s.nextId + 1) o }

/-- The instructions that R278 forbids in an open region: the registers that each uses, and whether it is an access, which an earlier acquire holds
(R101, R393). -/
def outlawed (c : Iss) : Instr → Option (Use × Bool)
  | .xbegin _ _ k v => some ((Use.ksrc k.toNat 1).add ⟨[], [], v.toNat + 1, false⟩, false)
  | .pwaitS _ k v => some ((Use.ksrc k.toNat 1).add (Use.src v.toNat 1), false)
  | .pwaitG _ k v => some ((Use.ksrc k.toNat 1).add (Use.src v.toNat 1), false)
  | .pwaitCnt _ _ _ => some ({}, false)
  | .pwaitFence _ v => some (Use.src v.toNat 1, false)
  | .pwaitLock _ v => some (Use.src v.toNat 1, false)
  | .yield _ => some ({}, false)
  | .atoms _ _ d a o z => some ((Use.src a.toNat 1).add ((Use.src d.toNat (atomReads o z)).add (Use.dst d.toNat (atomWrites z))), true)
  | .atomg _ _ d a o z => some ((Use.src a.toNat 2).add ((Use.src d.toNat (atomReads o z)).add (Use.dst d.toNat (atomWrites z))), true)
  | .fget _ d a p => some ((Use.src a.toNat 2).add ((Use.dst d.toNat 2).add (Use.pdst p.toNat)), true)
  | .fput _ d a p => some ((Use.src a.toNat 2).add ((Use.src d.toNat 2).add (Use.pdst p.toNat)), true)
  | .qlock _ d a p => some ((Use.src a.toNat 2).add ((Use.dst d.toNat 1).add (Use.pdst p.toNat)), true)
  | .qunlock _ a => some (Use.src a.toNat 2, true)
  | .kst _ d a _ _ _ => some ((Use.ksrc a.toNat 1).add (Use.ksrc d.toNat 1), true)
  | .tclass _ _ a => some (copyUse c (Use.ksrc a.toNat 1), false)
  | .cflush _ d a b => some ((Use.ksrc a.toNat 1).add ((Use.ksrc b.toNat 1).add (Use.kdst d.toNat 1)), false)
  | .cinv _ d a b => some ((Use.ksrc a.toNat 1).add ((Use.ksrc b.toNat 1).add (Use.kdst d.toNat 1)), false)
  | .binit _ d a b _ => some ((Use.ksrc b.toNat 1).add ((Use.ksrc a.toNat 1).add (Use.kdst d.toNat 1)), false)
  | .barrive _ d a _ => some (({} : Use).add ((Use.ksrc a.toNat 1).add (Use.kdst d.toNat 1)), true)
  | .bexpect _ d a b _ => some ((Use.ksrc b.toNat 1).add ((Use.ksrc a.toNat 1).add (Use.kdst d.toNat 1)), false)
  | .sclaim _ d a => some ((Use.ksrc a.toNat 1).add (Use.kdst d.toNat 1), false)
  | .srel _ d a => some ((Use.ksrc a.toNat 1).add (Use.kdst d.toNat 1), false)
  | .sclass _ d a => some ((Use.ksrc a.toNat 1).add (Use.kdst d.toNat 1), false)
  | .hdrain _ k q => some ((Use.ksrc k.toNat 1).add ((Use.src q.toNat 3).add (Use.dst (q.toNat + 2) 2)), true)
  | .hstat _ k q => some ((Use.ksrc k.toNat 1).add (Use.dst q.toNat 4), true)
  | .hclaim _ k q => some ((Use.ksrc k.toNat 3).add (Use.dst (q.toNat + 2) 2), true)
  | .hrel _ k q => some ((Use.ksrc k.toNat 1).add (Use.dst (q.toNat + 2) 2), true)
  | i => ((copying i).map (fun x => (x.use c, false))).orElse (fun _ => ((operating i).map (fun x => (x.use.add x.writes, false))).orElse
      (fun _ => (hashing i).map (fun x => (useHash x.2.1 x.2.2.2.1 x.2.2.2.2, true))))

/-- A thread inside a region that is open, and not doomed (R270, R273). -/
def inside (c : Iss) (tid : Nat) (r : Region) : Prop :=
  c.g.tids = [tid] ∧ (c.tm.thread tid).region = some r ∧ r.stage = 0 ∧ (c.tm.thread tid).xlo.toNat ≤ (c.tm.thread tid).xhi.toNat

/-- The region of a thread changed. -/
def inRegion (s : State) (c : Iss) (tid : Nat) (f : Region → Region) : State := s.updThread c.t tid (fun th => { th with region := th.region.map f })

/-- The bytes that the host or a control core writes perform at once (R388): no page of them is held elsewhere, no granule is sealed, and a
doorbell waits for nothing. -/
def performs (s : State) (pa n : Nat) : Prop :=
  (isMem pa = true → (∀ p ∈ pagesOf pa n, s.needsGrant none p true = false) ∧ s.sealedIn pa n = false) ∧ (isDoorbell pa = true → s.units.late = [])

/-- What a register holds of a value written to it (R8). -/
def goodValue (r : Reg) (x y : DWord) : Prop :=
  match r with
  | .v _ => y = (x.setWidth 32).setWidth 64
  | .t _ => y = (x.setWidth 32).setWidth 64
  | .p _ => y = BitVec.ofNat 64 (x.toNat % 2)
  | .k _ => y = x
  | .kf => y = (x.setWidth 4).setWidth 64
end Sys2Proof.Said

open Sys2Proof Sys2Proof.Machine Sys2Proof.Said

/-- R146, R147, R191, R203, R204, R206-R212: an integer lane instruction that is ready completes, every thread of its group receives the result, and nothing
else changes. Every 16-bit form reads its code d, MOV among them (R147, R191). -/
def Obligations.IntegerLaneResult : Prop :=
  ∀ (i : Instr) (p : Plain) (s : State) (c : Iss), integer i = some p → i.wf = true → Ready s c p.use → c.endsWell →
    ∃ s', exec i s = .next s' ∧ WroteOnly s s' c (p.writes s c) 0

/-- R191, R213-R218: a floating lane instruction that is ready completes; its threads receive the results, kexc gathers the flags
of all of them, and nothing else changes while no enabled flag starts a record (R71-R73). -/
def Obligations.FloatLaneResult : Prop :=
  ∀ (i : Instr) (p : Plain) (s : State) (c : Iss), float i = some p → i.wf = true → Ready s c p.use → c.endsWell →
    (enabled c.tm.eff.sr (p.flags s c) = 0 ∨ c.tm.eff.sr.crumb.getLsbD 0 = false) →
    ∃ s', exec i s = .next s' ∧ WroteOnly s s' c (p.writes s c) (p.flags s c)

/-- R148, R192, R194, R195, R198-R203: a uniform instruction, a branch or STALL that is ready completes and writes its one
result; a branch writes nothing but CALL its pair.
R148: NOP that is ready completes and changes nothing but the place of its threads.
R194, R195: after a branch every thread of the group goes on at its target when the run ends. -/
def Obligations.UniformResult : Prop :=
  ((∀ (i : Instr) (p : Plain) (s : State) (c : Iss), uniform i = some p → i.wf = true → Ready s c p.use → c.endsWell →
      ∃ s', exec i s = .next s' ∧ WroteOnly s s' c (p.writes s c) 0) ∧
   (∀ (s : State) (c : Iss), Ready s c {} → c.endsWell → ∃ s', exec .nop s = .next s' ∧ WroteOnly s s' c [] 0
 )) ∧
  (∀ (i : Instr) (p : Plain) (s : State) (c : Iss), uniform i = some p → i.wf = true → Ready s c p.use → c.endsWell →
     ∃ s' tm, exec i s = .next s' ∧ s'.team? c.t = some tm ∧
       ∀ tid a, tid ∈ c.g.tids → tid < c.tm.threads.length → (c.tm.thread tid).exited = false → target s c tid i = some a →
         (tm.thread tid).npc = a ∧ (¬ c.goesOn → (tm.thread tid).pc = a))

/-- R193, R219-R222: a cross-thread instruction at which whole crews stand executes at once; every thread receives the result that the
inputs of its crew give, in ascending order of index. -/
def Obligations.CrossResult : Prop :=
  ∀ (i : Instr) (x : Crossed) (s : State) (c : Iss), crossing i = some x → i.wf = true → Ready s c x.use → c.endsWell → WholeCrews c →
    (enabled c.tm.eff.sr (x.flags s c) = 0 ∨ c.tm.eff.sr.crumb.getLsbD 0 = false) →
    ∃ s', exec i s = .next s' ∧ WroteOnly s s' c (x.writes s c) (x.flags s c)

/-- R195, R371: EXIT that is ready ends its threads, with a trap record that they have not returned from; nothing else of the team or the machine
changes, but machine checks that they have still to take go to the context (R364). -/
def Obligations.ExitEnds : Prop :=
  ∀ (s : State) (c : Iss), Ready s c {} → c.endsWell →
    ∃ s' tm, exec .exit s = .next s' ∧ SameMachine (s.orphanChecks c.t c.g.tids) s' ∧ SameOthers s s' c.t ∧ s'.team? c.t = some tm ∧
      (∀ tid ∈ c.g.tids, tid < c.tm.threads.length → (tm.thread tid).exited = true ∧ SameThread (gone (c.tm.thread tid)) (tm.thread tid)) ∧
      (∀ tid, tid ∉ c.g.tids → tm.thread tid = c.tm.thread tid) ∧
      { tm with threads := c.tm.threads, groups := c.tm.groups, soft := c.tm.soft, ret := c.tm.ret } = c.tm ∧ tm.threads.length = c.tm.threads.length ∧
      (∀ tid r, (r.isT = true → c.goesOn) → tm.reg tid r = c.tm.reg tid r)

/-- R20, R154: the trailer ends its run: where no stall check is due for a register it does not name, every thread that has not exited
goes on at its next address, and registers stand but t0-t7 and L. -/
def Obligations.RuntEnds : Prop :=
  ∀ (c0 c1 c2 : BitVec 7) (cnt : BitVec 4) (s : State) (c : Iss), s.iss = some c →
    (c.g.chk = false ∨ ∀ e ∈ c.g.log, e.short c.g.dist = true → e.reg ∈ ([c0, c1, c2].take cnt.toNat).map (fun x => Reg.v x.toNat)) →
    ∃ s' tm, exec (.runt c0 c1 c2 cnt) s = .next s' ∧ SameMachine s s' ∧ SameOthers s s' c.t ∧ s'.team? c.t = some tm ∧
      tm.groups = FMap.erase c.tm.groups c.gid ∧
      (∀ tid ∈ c.g.tids, tid < c.tm.threads.length → (c.tm.thread tid).exited = false →
        (tm.thread tid).pc = (c.tm.thread tid).npc ∧ (tm.thread tid).npc = (c.tm.thread tid).npc) ∧
      (∀ tid, tid ∉ c.g.tids → tm.thread tid = c.tm.thread tid) ∧
      (∀ tid r, r.isT = false → tm.reg tid r = c.tm.reg tid r)

/-- R152, R153: a run header whose run is legal and fetchable sends each thread into the run or past it by its predicate; those that
enter form the group, with t0-t7 and L undefined, and stand at its first instruction.
R145, R168: a header whose run cannot be fetched, or is not as R168 asks, gives every thread of the group the trap; where the fetch only wants for a
page grant, the threads wait for it (R98). Which of several errors of a run comes first is the model's choice (log 57): bad bits of the header,
then a bad length, then a fetch that fails, then the structure of the words. -/
def Obligations.RunHeader : Prop :=
  (∀ (len : BitVec 5) (trl : BitVec 1) (pred : BitVec 3) (sense chk : BitVec 1) (s : State) (c : Iss) (body : List (BitVec 32))
     (tw : Option (BitVec 32)) (next : DWord) (w : BitVec 32), AtHeader s c pred → c.g.tids.Nodup →
     let tm0 := { c.tm with eff := s.ctx c.tm.ctx }
     s.fetchWord tm0.xlat c.g.hdr = .ok w → w.toNat / 2 ^ 18 = 0 → s.fetchRun tm0.xlat c.g.hdr len.toNat (trl == 1) = .ok (body, tw, next) →
     reached s tm0.xlat (next - 2) →
     ∃ s' tm, exec (.runh len trl pred sense chk) s = .next s' ∧ SameMachine s s' ∧ SameOthers s s' c.t ∧ s'.team? c.t = some tm ∧
       (∀ tid ∈ c.g.tids, AtHeader.goes s c pred sense tid = true →
         (tm.thread tid).npc = next ∧ (tm.thread tid).t = [] ∧ ∃ g, FMap.get? tm.groups c.gid = some g ∧ tid ∈ g.tids ∧
           g.hdr = c.g.hdr ∧ g.body = body ∧ g.trl = tw ∧ g.next = next ∧ g.idx = 0 ∧ g.dist = 0 ∧ g.log = [] ∧
           g.chk = ((s.ctx c.tm.ctx).sr.check.getLsbD 0 || chk == 1)) ∧
       (∀ tid ∈ c.g.tids, AtHeader.goes s c pred sense tid = false →
         (tm.thread tid).pc = next ∧ (tm.thread tid).npc = next ∧ ∀ g, FMap.get? tm.groups c.gid = some g → tid ∉ g.tids) ∧
       (∀ tid r, r.isT = false → tm.reg tid r = c.tm.reg tid r)) ∧
  (∀ (len : BitVec 5) (trl : BitVec 1) (pred : BitVec 3) (sense chk : BitVec 1) (s : State) (c : Iss) (e : HdrErr), AtHeader s c pred →
     let tm0 := { c.tm with eff := s.ctx c.tm.ctx }
     (∃ w, s.fetchWord tm0.xlat c.g.hdr = .ok w ∧
       (if w.toNat / 2 ^ 18 = 0 then s.fetchRun tm0.xlat c.g.hdr len.toNat (trl == 1) = .error e else e = .trap .illegal)) →
     exec (.runh len trl pred sense chk) s = .next (match e with
       | .trap tr => (s.refresh c.t).trapHeader c.t c.g.hdr c.g.tids tr
       | .wait pa => ((s.refresh c.t).askGrant pa false).updTeam c.t (fun tm => tm.aside c.g.tids)))

/-- R196, R359, R360: TRAP and BKPT: every thread of the group takes the trap: the address of the instruction, cause, code and the mid-run
bit are saved, hm is set, and the thread stands at the handler; TRAP's record names the next instruction, BKPT's its own.
A thread that has seen a token of an engine operation or an SREAD makes its acquire then at the latest, which is the model's choice (log 23).
R360, R362: the trap record is also delivered in registers of the thread where sr.tdel says so: the pair of epc, ecause and the pair of eva, each
that lies within the declaration, where they name different registers; in a team to which no result is owed no other register of any thread
changes. -/
def Obligations.TrapEntered : Prop :=
  ∀ (i : Instr) (n : BitVec 21) (st : BitVec 2) (skip cause : Nat) (s : State) (c : Iss),
    ((i = .trap st n ∧ skip = 1 ∧ cause = 8) ∨ (i = .bkpt st n ∧ skip = 0 ∧ cause = 9)) → Ready s c {} → c.g.tids.Nodup →
    (∀ tid ∈ c.g.tids, tid < c.tm.threads.length ∧ trapsAlone c tid) → handled s c →
    let ecause := BitVec.ofNat 32 (cause + 256 * n.toNat + 2 ^ 31)
    let l := delivered c.tm c.g.addr ecause 0
    ∃ s' tm, exec i s = .next s' ∧
      SameMachine (if c.tm.stored = 0 ∧ c.g.tids.any c.tm.observes = true then s.acquire c.tm.core else s) s' ∧ SameOthers s s' c.t ∧ s'.team? c.t = some tm ∧
      (∀ tid ∈ c.g.tids, (tm.thread tid).pc = c.tm.eff.sr.tvec &&& ~~~ 1 ∧ (tm.thread tid).epc = c.g.addr ∧
        (tm.thread tid).ecause = ecause ∧ (tm.thread tid).eva = 0 ∧ (tm.thread tid).hm = true ∧
        (tm.thread tid).trMid = some (midOf ((c.tm.flush s.clock tid).thread tid) tid c.g (c.g.idx + skip))) ∧
      (c.tm.tr.regs ≤ 112 → (l.map Prod.fst).Nodup → ∀ tid ∈ c.g.tids, ∀ x ∈ l, tm.reg tid (.v x.1) = x.2) ∧
      (c.tm.wbs = [] → ∀ tid r, r.isT = false → (tid ∈ c.g.tids → ∀ x ∈ l, r ≠ .v x.1) → tm.reg tid r = c.tm.reg tid r)

/-- R361: TRAP and BKPT of threads of which one is in a trap handler, or without a handler, or with one at whose address no run header can be fetched,
fault the team: no thread issues again. A handler's page that is not granted yet is waited for first (R98). -/
def Obligations.TrapFaultsTeam : Prop :=
  ∀ (i : Instr) (st : BitVec 2) (n : BitVec 21) (s : State) (c : Iss), (i = .trap st n ∨ i = .bkpt st n) → Ready s c {} → c.g.tids ≠ [] →
    (∀ th ∈ c.tm.threads, th.region = none) → (∀ tid ∈ c.g.tids, c.tm.owes tid = false) → s.handlerWait c.tm = none →
    (c.tm.eff.sr.tvec.getLsbD 0 = false ∨ (∃ tid ∈ c.g.tids, (c.tm.thread tid).hm = true) ∨ s.headerAt c.tm.xlat (c.tm.eff.sr.tvec &&& ~~~ 1) = false) →
    ∃ s' tm, exec i s = .next s' ∧ s'.team? c.t = some tm ∧ tm.life = .faulted ∧ tm.groups = [] ∧
      (∀ tid, tid < tm.threads.length → (tm.thread tid).exited = true)

/-- R363: ERET and ERET.skip of threads with a record that can be read: each resumes where its record says, mid-run records included, hm is clear; threads
without one take the trap of an illegal instruction, those whose record has a data error the machine check (R364), and the others return in the
same issue. -/
def Obligations.EretReturns : Prop :=
  ∀ (st : BitVec 2) (skip : Bool) (s : State) (c : Iss), Ready s c {} → c.endsWell → c.g.tids.Nodup →
    (∀ tid ∈ c.g.tids, tid < c.tm.threads.length ∧ (c.tm.thread tid).exited = false) →
    let i : Instr := if skip then .eretSkip st else .eret st
    ((∀ tid ∈ c.g.tids, ((c.tm.thread tid).hm = true ∨ (c.tm.thread tid).rr = true) ∧ s.blockError c tid = none ∧
        (skip = true → s.skipWait c.tm tid = none)) →
      ∃ s' tm, exec i s = .next s' ∧ SameMachine s s' ∧ SameOthers s s' c.t ∧ s'.team? c.t = some tm ∧
        ∀ tid ∈ c.g.tids,
          let m := (resumed s c tid).2.map (skipped s c skip)
          (tm.thread tid).npc = (m.map (fun m => m.hdr)).getD (resumed s c tid).1 ∧ (tm.thread tid).hm = false ∧
          (c.goesOn → (tm.thread tid).nmid = m) ∧ (¬ c.goesOn → (tm.thread tid).pc = (tm.thread tid).npc ∧ (tm.thread tid).mid = m)) ∧
    (let bad := c.g.tids.filterMap (fun tid =>
        (if (c.tm.thread tid).hm = false ∧ (c.tm.thread tid).rr = false then some .illegal else s.blockError c tid).map (fun tr => (tid, tr)));
      bad ≠ [] → trapsSome i s c bad (fun s' c' => Ready s' c' {} ∧
        ∀ tid ∈ c'.g.tids, ((c'.tm.thread tid).hm = true ∨ (c'.tm.thread tid).rr = true) ∧ s'.blockError c' tid = none))

/-- R368: YIELD of threads in the yield handler ends their part; of any other thread it is illegal, and the others yield in the same
issue. -/
def Obligations.YieldEnds : Prop :=
  ∀ (st : BitVec 2) (s : State) (c : Iss), Apart s c {} → c.endsWell →
    ((∀ tid ∈ c.g.tids, (c.tm.thread tid).sent = true ∧ (c.tm.thread tid).yielded = false) →
      ∃ s' tm, exec (.yield st) s = .next s' ∧ SameMachine s s' ∧ SameOthers s s' c.t ∧ s'.team? c.t = some tm ∧
        (∀ tid ∈ c.g.tids, tid < c.tm.threads.length → (tm.thread tid).yielded = true) ∧
        (∀ tid, tid ∉ c.g.tids → tm.thread tid = c.tm.thread tid) ∧ (∀ tid r, (r.isT = true → c.goesOn) → tm.reg tid r = c.tm.reg tid r)) ∧
    ((∃ tid ∈ c.g.tids, (c.tm.thread tid).sent = false ∨ (c.tm.thread tid).yielded = true) →
      trapsSome (.yield st) s c ((c.g.tids.filter (fun tid => !(c.tm.thread tid).sent || (c.tm.thread tid).yielded)).map (fun tid => (tid, .illegal)))
        (fun s' c' => Apart s' c' {} ∧ ∀ tid ∈ c'.g.tids, (c'.tm.thread tid).sent = true ∧ (c'.tm.thread tid).yielded = false))

/-- R197, R287: SIGN counts a signature of each thread, or none where none is expected; CVSET sets the expected count and clears the other;
both are illegal for a register beyond the declaration. -/
def Obligations.SignaturesCount : Prop :=
  ∀ (st : BitVec 2) (n : BitVec 3) (m : BitVec 11) (s : State) (c : Iss), Ready s c {} → c.endsWell →
    (c.tm.tr.cv ≤ n.toNat → exec (.sign st n) s = .next (s.trapAll c.t c.gid c.g .illegal) ∧ exec (.cvset st n m) s = .next (s.trapAll c.t c.gid c.g .illegal)) ∧
    (n.toNat < c.tm.tr.cv →
      (∃ s' tm, exec (.cvset st n m) s = .next s' ∧ SameMachine s s' ∧ SameOthers s s' c.t ∧ s'.team? c.t = some tm ∧
        SameTeam c.tm { tm with cv := c.tm.cv } ∧ tm.cv = FMap.set c.tm.cv n.toNat (m.toNat, 0) ∧ tm.kexc = c.tm.kexc ∧
        ∀ tid r, (r.isT = true → c.goesOn) → tm.reg tid r = c.tm.reg tid r) ∧
      (∀ e k, FMap.getD c.tm.cv n.toNat (0, 0) = (e, k) → e = 0 ∨ k + c.g.tids.length ≤ e → c.g.tids.Nodup →
        (∀ tid ∈ c.g.tids, tid < c.tm.threads.length ∧ (c.tm.thread tid).part = false) →
        ∃ s' tm, exec (.sign st n) s = .next s' ∧ SameMachine s s' ∧ SameOthers s s' c.t ∧ s'.team? c.t = some tm ∧
          SameTeam c.tm { tm with cv := c.tm.cv } ∧ tm.kexc = c.tm.kexc ∧
          FMap.getD tm.cv n.toNat (0, 0) = (e, if e = 0 then k else k + c.g.tids.length) ∧
          (∀ j, j ≠ n.toNat → FMap.getD tm.cv j (0, 0) = FMap.getD c.tm.cv j (0, 0)) ∧
          ∀ tid r, (r.isT = true → c.goesOn) → tm.reg tid r = c.tm.reg tid r))

/-- R203: KWR writes kexc or kf with the low bits of its register, and nothing else; a flag whose result is complete in this clock or later stays
set (R72). -/
def Obligations.KwrResult : Prop :=
  ∀ (st : BitVec 2) (k : BitVec 6) (e : BitVec 8) (s : State) (c : Iss), (Instr.kwr st k e).wf = true →
    Ready s c ((Use.ksrc k.toNat 1).add (if e = 1 then ⟨[], [.kf], 0, false⟩ else {})) → c.endsWell →
    ∃ s' tm, exec (.kwr st k e) s = .next s' ∧ SameMachine s s' ∧ SameOthers s s' c.t ∧ s'.team? c.t = some tm ∧ SameTeam c.tm tm ∧
      (e = 0 → tm.kexc = (c.k s k.toNat).setWidth 5 ||| c.tm.freshFlags s.clock ∧ ∀ tid r, (r.isT = true → c.goesOn) → tm.reg tid r = c.tm.reg tid r) ∧
      (e = 1 → tm.kexc = c.tm.kexc ∧ tm.kf = (c.k s k.toNat).setWidth 4 ∧
        ∀ tid r, r ≠ .kf → (r.isT = true → c.goesOn) → tm.reg tid r = c.tm.reg tid r)

/-- R151, R158-R160: before an instruction executes: a register beyond the declaration, or L without a result, is illegal; a read that a
checked run falls short of takes the stall-check trap; the group waits while a register is awaited; the threads that read a register
with a data error take the machine check (R364), and the others execute in the same issue; of KMOVV, which is uniform, all of the group take it
when the lowest one reads such a register (R192). The rules say of each only that it comes before the instruction executes: the order among them
is the model's choice (log 14). -/
def Obligations.GateOrder : Prop :=
  ∀ (i : Instr) (p : Plain) (s : State) (c : Iss), (integer i = some p ∨ float i = some p ∨ uniform i = some p) → s.iss = some c →
    (c.illegal p.use = true → exec i s = .next (s.trapAll c.t c.gid c.g .illegal)) ∧
    (c.illegal p.use = false → c.shortRead p.use = true → exec i s = .next (s.trapAll c.t c.gid c.g { cause := 7 })) ∧
    (c.illegal p.use = false → c.shortRead p.use = false → c.waits p.use = true → exec i s = .next (s.hold c.t c.gid)) ∧
    (c.illegal p.use = false → c.shortRead p.use = false → c.waits p.use = false →
      (∀ st k v tr, i = .kmovv st k v → c.unsound p.use c.low = some tr → exec i s = .next (s.trapAll c.t c.gid c.g tr)) ∧
      ((∀ st k v, i ≠ .kmovv st k v) →
        let bad := c.g.tids.filterMap (fun tid => (c.unsound p.use tid).map (fun tr => (tid, tr)))
        bad ≠ [] → trapsSome i s c bad (fun s' c' => Ready s' c' p.use)))

/-- R224: LDS of aligned, pinned addresses without a data error: every thread is owed the bytes at its address, zeros out of range, low word first, and L where
the width has it; memory, scratch and registers stand. -/
def Obligations.ScratchLoad : Prop :=
  ∀ (st w : BitVec 2) (d a o : BitVec 7) (s : State) (c : Iss), (Instr.lds st w d a o).wf = true → Calm s c (useLds w d a) → c.endsWell →
    scratchReady s c (scratchEa s c a o w) (2 ^ (w.toNat + 1)) → scratchSound s c (scratchEa s c a o w) (2 ^ (w.toNat + 1)) →
    ∃ s', exec (.lds st w d a o) s = .next s' ∧ OwesOnly s s' c (c.owed (fun tid =>
      resultRegs d.toNat (regsOf w) (w != 3) (some (leNat (s.scrRead c.t (scratchEa s c a o w tid).toNat (2 ^ (w.toNat + 1)))))))

/-- R88, R129, R224: STS of aligned, pinned addresses: every thread's bytes are stored at its address, in ascending index, out of range not at all;
a release comes first where a fence asks for it.
R393: behind an acquire of its thread that has not taken effect, STS issues and its access is held: the thread goes on, scratch and registers stand,
and the access keeps what the thread had when it issued. -/
def Obligations.ScratchStore : Prop :=
  (∀ (st w : BitVec 2) (d a o : BitVec 7) (s : State) (c : Iss), (Instr.sts st w d a o).wf = true → Calm s c (useSts w d a) →
    scratchReady s c (scratchEa s c a o w) (2 ^ (w.toNat + 1)) → mayRelease s c c.armed →
    exec (.sts st w d a o) s = .next (((sortNat c.g.tids).foldl (fun s' tid =>
      s'.scrWrite c.t (scratchEa s c a o w tid).toNat (natLe (2 ^ (w.toNat + 1)) (c.srcNat s' tid d.toNat (regsOf w))))
      (released s c c.armed)).advance c.t c.gid (1 + st.toNat))) ∧
  (∀ (st w : BitVec 2) (d a o : BitVec 7) (word : BitVec 32) (s : State) (c : Iss) (tid : Nat), (Instr.sts st w d a o).wf = true → Apart s c (useSts w d a) →
    c.acquiring = true → c.g.tids = [tid] → c.goesOn → c.g.body[c.g.idx]? = some word → wordInstr word = some (.sts st w d a o) →
    scratchReady s c (scratchEa s c a o w) (2 ^ (w.toNat + 1)) → mayRelease s c c.armed →
    ∃ s' tm l, exec (.sts st w d a o) s = .next s' ∧ SameMachine s s' ∧ SameOthers s s' c.t ∧ s'.team? c.t = some tm ∧
      tm.laters = c.tm.laters ++ [l] ∧ l.instr = .sts st w d a o ∧ l.threads = [(tid, c.tm.thread tid)] ∧ l.k = c.tm.k ∧ tm.scr = c.tm.scr ∧
      (∃ g, FMap.get? tm.groups c.gid = some g ∧ g.idx = c.g.idx + 1) ∧ ∀ u r, tm.reg u r = c.tm.reg u r)

/-- R225-R227: ATOMS of aligned, pinned addresses without a data error: the lanes' requests are applied one after another in ascending index, each thread is owed the
value its request found, flags are raised; .rel and .ar release first, .acq and .ar acquire afterwards.
R225: what the lane atomics compute on 32 bits, as operations on words, and on 64 bits, where all but the floating sum are given likewise. -/
def Obligations.ScratchAtomic : Prop :=
  (∀ (st r : BitVec 2) (d a : BitVec 7) (o : BitVec 5) (z : BitVec 2) (s : State) (c : Iss), (Instr.atoms st r d a o z).wf = true →
     Calm s c (useAtom 1 d a o z) → scratchReady s c (fun tid => c.src s tid a.toNat) (4 * (z.toNat + 1)) →
     scratchSound s c (fun tid => c.src s tid a.toNat) (4 * (z.toNat + 1)) →
     mayRelease s c (c.armed || r.getLsbD 1) →
     let s0 := released s c (c.armed || r.getLsbD 1)
     let run := s0.atomEach c.tm.eff.sr c.t o.toNat (4 * (z.toNat + 1))
       ((sortNat c.g.tids).map (fun tid => (tid, (c.src s tid a.toNat).toNat, c.atomArgs s0 tid d.toNat o z)))
     exec (.atoms st r d a o z) s = .next (((if r.getLsbD 0 then run.1.acquire c.tm.core else run.1).raiseFlags c 0 run.2.2).oweAll c (1 + st.toNat)
       (fl := run.2.2) (fun tid => resultRegs d.toNat (z.toNat + 1) true (some (((run.2.1.find? (fun x => x.1 == tid)).map Prod.snd).getD 0))))) ∧
  (∀ (sr : SysRegs) (v x y : Word) (v2 x2 y2 : DWord),
     atomOp 0 4 sr v.toNat x.toNat y.toNat = ((v + x).toNat, 0) ∧ atomOp 1 4 sr v.toNat x.toNat y.toNat = ((v - x).toNat, 0) ∧
     atomOp 2 4 sr v.toNat x.toNat y.toNat = ((if v.toInt ≤ x.toInt then v else x).toNat, 0) ∧
     atomOp 3 4 sr v.toNat x.toNat y.toNat = ((if v.toInt ≤ x.toInt then x else v).toNat, 0) ∧
     atomOp 4 4 sr v.toNat x.toNat y.toNat = ((if v.toNat ≤ x.toNat then v else x).toNat, 0) ∧
     atomOp 5 4 sr v.toNat x.toNat y.toNat = ((if v.toNat ≤ x.toNat then x else v).toNat, 0) ∧
     atomOp 6 4 sr v.toNat x.toNat y.toNat = ((v &&& x).toNat, 0) ∧ atomOp 7 4 sr v.toNat x.toNat y.toNat = ((v ||| x).toNat, 0) ∧
     atomOp 8 4 sr v.toNat x.toNat y.toNat = ((v ^^^ x).toNat, 0) ∧ atomOp 9 4 sr v.toNat x.toNat y.toNat = (x.toNat, 0) ∧
     atomOp 10 4 sr v.toNat x.toNat y.toNat = fAdd f32 (rmOf sr 0) v.toNat x.toNat ∧
     atomOp 11 4 sr v.toNat x.toNat y.toNat = ((if v = x then y else v).toNat, 0) ∧
     atomOp 0 8 sr v2.toNat x2.toNat y2.toNat = ((v2 + x2).toNat, 0) ∧ atomOp 1 8 sr v2.toNat x2.toNat y2.toNat = ((v2 - x2).toNat, 0) ∧
     atomOp 2 8 sr v2.toNat x2.toNat y2.toNat = ((if v2.toInt ≤ x2.toInt then v2 else x2).toNat, 0) ∧
     atomOp 3 8 sr v2.toNat x2.toNat y2.toNat = ((if v2.toInt ≤ x2.toInt then x2 else v2).toNat, 0) ∧
     atomOp 4 8 sr v2.toNat x2.toNat y2.toNat = ((if v2.toNat ≤ x2.toNat then v2 else x2).toNat, 0) ∧
     atomOp 5 8 sr v2.toNat x2.toNat y2.toNat = ((if v2.toNat ≤ x2.toNat then x2 else v2).toNat, 0) ∧
     atomOp 6 8 sr v2.toNat x2.toNat y2.toNat = ((v2 &&& x2).toNat, 0) ∧ atomOp 7 8 sr v2.toNat x2.toNat y2.toNat = ((v2 ||| x2).toNat, 0) ∧
     atomOp 8 8 sr v2.toNat x2.toNat y2.toNat = ((v2 ^^^ x2).toNat, 0) ∧ atomOp 9 8 sr v2.toNat x2.toNat y2.toNat = (x2.toNat, 0) ∧
     atomOp 11 8 sr v2.toNat x2.toNat y2.toNat = ((if v2 = x2 then y2 else v2).toNat, 0))

/-- R225-R227: ATOMG likewise at the home slices: the core's dirty words of the lines go home first, the lanes that name one word are combined
in ascending index into one update of it. -/
def Obligations.GlobalAtomic : Prop :=
  ∀ (st r : BitVec 2) (d a : BitVec 7) (o : BitVec 5) (z : BitVec 2) (s : State) (c : Iss), (Instr.atomg st r d a o z).wf = true →
    Calm s c (useAtom 2 d a o z) → laneOk s c (fun tid => c.src64 s tid a.toNat) (4 * (z.toNat + 1)) .rmw false true →
    let l := lanesAt s c (fun tid => c.src64 s tid a.toNat)
    s.homeWaits c.tm.core true l = false → mayRelease s c (c.armed || r.getLsbD 1) →
    let s0 := released s c (c.armed || r.getLsbD 1)
    let s1 := s0.prepAll c (c.g.tids.map (fun tid => (c.src64 s0 tid a.toNat, c.lanePa s (c.src64 s tid a.toNat))))
    let run := s1.atomRun c.tm.eff.sr o.toNat (4 * (z.toNat + 1))
      ((sortNat c.g.tids).map (fun tid => (tid, (c.lanePa s (c.src64 s tid a.toNat)).1, c.atomArgs s1 tid d.toNat o z)))
      (fun s y => leNat (s.homeBytes y (4 * (z.toNat + 1))))
      (fun s y v => s.homeWrite { core := some c.tm.core, pte := (l.find? (fun p => p.1 == y)).map Prod.snd, ctx := c.tm.ctx } y (natLe (4 * (z.toNat + 1)) v))
    exec (.atomg st r d a o z) s = .next (((if r.getLsbD 0 then run.1.acquire c.tm.core else run.1).raiseFlags c 0 run.2.2).oweAll c (1 + st.toNat)
      (fl := run.2.2) (fun tid => resultRegs d.toNat (z.toNat + 1) true (some (((run.2.1.find? (fun x => x.1 == tid)).map Prod.snd).getD 0))))

/-- R202: KLD of an aligned, translated, permitted address: the team is owed the bytes that the uniform data cache gives; KST puts its low bytes
into the cache, and in a non-coherent range its threads' fences wait for the line (R103); both misaligned take the alignment trap with the
address. -/
def Obligations.UniformMemory : Prop :=
  ∀ (st : BitVec 2) (d a o : BitVec 6) (w h : BitVec 2) (s : State) (c : Iss),
    let va := c.k s a.toNat + o.signExtend 64 * BitVec.ofNat 64 (2 ^ w.toNat)
    let n := 2 ^ w.toNat
    (∀ e bs s1, Calm s c ((Use.ksrc a.toNat 1).add (Use.kdst d.toNat 1)) → va.toNat % n = 0 → s.xlate c.tm.xlat true va .read = .ok e →
      s.poisoned (paOf e va) n = none →
      (s.fillTlb c.tm.xlat va e).uload c.tm.core c.tm.ctx e (isNc c.tm.eff.sr va) va.toNat (paOf e va) n h.toNat = (some bs, s1) →
      exec (.kld st d a o w h) s = .next ((({ s1 with nextId := s1.nextId + 1 }.noRoute c.tm.dieOf c.tm.ctx (paOf e va)).owe c.t s1.nextId c.low true false
        [(.k d.toNat, some (BitVec.ofNat 64 (leNat bs)))] 0 false c.g.tids).advance c.t c.gid (1 + st.toNat))) ∧
    (∀ e s1, Calm s c ((Use.ksrc a.toNat 1).add (Use.ksrc d.toNat 1)) → va.toNat % n = 0 → s.xlate c.tm.xlat true va .write = .ok e →
      mayRelease s c c.armed →
      ((released s c c.armed).fillTlb c.tm.xlat va e).ustore c.tm.core c.tm.ctx e (isNc c.tm.eff.sr va) va.toNat (paOf e va)
        (natLe n (c.k (released s c c.armed) d.toNat).toNat) h.toNat = (false, s1) →
      let s2 := if isNc c.tm.eff.sr va && isMem (paOf e va) && h != 2 then s1.ncStored c (paOf e va / 128) else s1
      exec (.kst st d a o w h) s = .next (s2.advance c.t c.gid (1 + st.toNat))) ∧
    (Calm s c ((Use.ksrc a.toNat 1).add (Use.kdst d.toNat 1)) → va.toNat % n ≠ 0 →
      exec (.kld st d a o w h) s = .next (s.trapAll c.t c.gid c.g { cause := 3, info := 0, eva := va })) ∧
    (Calm s c ((Use.ksrc a.toNat 1).add (Use.ksrc d.toNat 1)) → va.toNat % n ≠ 0 →
      exec (.kst st d a o w h) s = .next (s.trapAll c.t c.gid c.g { cause := 3, info := 1, eva := va }))

/-- R92, R94-R96: what the uniform data cache gives a load of plain memory that needs no grant: on an uncached page the bytes at home; on a shared
or non-coherent page with every byte cached those bytes; a load that bypasses a copy without dirty bytes, or one that does not allocate and misses,
takes the bytes at home but those that are dirty, and on a shared page no older clean byte of them is left in the copy. The core holds no copy of the
line under another class. -/
def Obligations.CacheLoads : Prop :=
  ∀ (s : State) (core ctx pte : Nat) (nc : Bool) (va pa n hint : Nat), isMem pa = true → s.needsGrant (some pte) pa false = false →
    sameClass s core (pa / 128) (pteCoh pte) nc →
    (nc = false → pteCoh pte = 2 → s.uload core ctx pte nc va pa n hint = (some (s.homeBytes pa n), s)) ∧
    (nc = true ∨ pteCoh pte = 0 → ∀ l, FMap.get? (s.core core).lines (pa / 128) = some l →
      let o := pa % 128
      let hit : Prop := (∀ i, i < n → (FMap.get? l.cells (o + i)).isSome = true) ∧ (hint = 2 → l.runs ≠ [])
      (hit → s.uload core ctx pte nc va pa n hint = (some (l.over (s.homeBytes pa n) o false), s)) ∧
      (¬ hit → hint = 1 ∨ hint = 2 → s.uload core ctx pte nc va pa n hint = (some (l.over (s.homeBytes pa n) o true),
        if nc = true then s else s.updCore core (fun k => { k with lines := FMap.upd k.lines (pa / 128) (fun l =>
          { l with cells := l.cells.filter (fun x => x.2.2 || decide (x.1 < o) || decide (o + n ≤ x.1)) }) }))))

/-- R106, R228, R229: FGET at a home slice: a full word is answered at once, with predicate 0 and an acquire; an empty one defers the
thread, unless the slice's 256 entries are in use, when the predicate is 1 and no value comes.
R228, R229: FPUT releases, fills the word with bit 63 set, answers what was deferred there, and says by the predicate whether it was full. -/
def Obligations.Futures : Prop :=
  (∀ (st : BitVec 2) (d a : BitVec 7) (p : BitVec 3) (s : State) (c : Iss) (tid : Nat), (Instr.fget st d a p).wf = true →
     Calm s c ((Use.src a.toNat 2).add ((Use.dst d.toNat 2).add (Use.pdst p.toNat))) → c.g.tids = [tid] →
     laneOk s c (fun tid => c.src64 s tid a.toNat) 8 .read true false →
     let at_ := c.lanePa s (c.src64 s tid a.toNat)
     s.homeWaits c.tm.core false [at_] = false →
     let s0 := s.prepAll c [(c.src64 s tid a.toNat, at_)]
     let v := leNat (s0.homeBytes at_.1 8)
     (v.testBit 63 = true → exec (.fget st d a p) s = .next ((owes (s0.acquire c.tm.core) c tid false
       ((.p p.toNat, some 0) :: resultRegs d.toNat 2 false (some v))).advance c.t c.gid (1 + st.toNat))) ∧
     (v.testBit 63 = false → 256 ≤ s0.deferUsed at_.1 → exec (.fget st d a p) s =
       .next ((owes s0 c tid false [(.p p.toNat, some 1)]).advance c.t c.gid (1 + st.toNat))) ∧
     (v.testBit 63 = false → s0.deferUsed at_.1 < 256 →
       let s1 := owes s0 c tid true ((.p p.toNat, none) :: resultRegs d.toNat 2 false none)
       exec (.fget st d a p) s = .next (({ s1 with units := { s1.units with defer := s1.units.defer ++ [(at_.1, [(c.t, s0.nextId)])] } } : State).advance
         c.t c.gid (1 + st.toNat)))) ∧
  (∀ (st : BitVec 2) (d a : BitVec 7) (p : BitVec 3) (s : State) (c : Iss) (tid : Nat), (Instr.fput st d a p).wf = true →
     Calm s c ((Use.src a.toNat 2).add ((Use.src d.toNat 2).add (Use.pdst p.toNat))) → c.g.tids = [tid] →
     laneOk s c (fun tid => c.src64 s tid a.toNat) 8 .write true true →
     let at_ := c.lanePa s (c.src64 s tid a.toNat)
     s.homeWaits c.tm.core true [at_] = false → s.canRelease c.tm.core = true →
     let r := released s c true
     let s0 := r.prepAll c [(c.src64 r tid a.toNat, at_)]
     let v := (c.src64 s0 tid d.toNat).toNat ||| 2 ^ 63
     exec (.fput st d a p) s = .next ((owes ((s0.homeWrite { core := some c.tm.core, pte := some at_.2, ctx := c.tm.ctx } at_.1 (natLe 8 v)).answerDeferred at_.1 v) c tid false
       [(.p p.toNat, some (if (leNat (s0.homeBytes at_.1 8)).testBit 63 then 1 else 0))]).advance c.t c.gid (1 + st.toNat)))

/-- R228, R230: QLOCK joins the queue of its address, with a token and predicate 0, or is refused with predicate 1 while 1,024 entries of the
slice are in use; QUNLOCK by the holder releases and passes the lock on, by any other thread it does nothing. The number in the token,
which the spec leaves open, is the model's choice (log 9). The core's dirty words of the line go home first (R104). -/
def Obligations.QueueLocks : Prop :=
  ∀ (st : BitVec 2) (d a : BitVec 7) (p : BitVec 3) (s : State) (c : Iss) (tid : Nat), c.g.tids = [tid] →
    laneNamed s c (fun tid => c.src64 s tid a.toNat) 8 .write true true →
    let at_ := c.lanePa s (c.src64 s tid a.toNat)
    s.homeWaits c.tm.core false [at_] = false →
    ((Instr.qlock st d a p).wf = true → Calm s c ((Use.src a.toNat 2).add ((Use.dst d.toNat 1).add (Use.pdst p.toNat))) →
      let s0 := s.prepAll c [(c.src64 s tid a.toNat, at_)]
      (s0.lockUsed at_.1 < 1024 →
        let tok := 2 ^ 31 + s0.nextId % 2 ^ 31
        exec (.qlock st d a p) s = .next (((({ s0 with nextId := s0.nextId + 1 } : State).setLock at_.1
          (FMap.getD s0.units.locks at_.1 [] ++ [(c.t, tid, tok)])).owe c.t s0.nextId tid false false
            ((.p p.toNat, some 0) :: resultRegs d.toNat 1 false (some tok))).advance c.t c.gid (1 + st.toNat))) ∧
      (1024 ≤ s0.lockUsed at_.1 → exec (.qlock st d a p) s =
        .next ((owes s0 c tid false ((.p p.toNat, some 1) :: resultRegs d.toNat 1 false (some 0))).advance c.t c.gid (1 + st.toNat)))) ∧
    ((Instr.qunlock st a).wf = true → Calm s c (Use.src a.toNat 2) → mayRelease s c (s.holdsLock c.t tid at_.1) →
      let s1 := released s c (s.holdsLock c.t tid at_.1)
      let s0 := s1.prepAll c [(c.src64 s1 tid a.toNat, at_)]
      exec (.qunlock st a) s = .next ((if s0.holdsLock c.t tid at_.1 then s0.setLock at_.1 ((FMap.getD s0.units.locks at_.1 []).drop 1) else s0).advance
        c.t c.gid (1 + st.toNat)))

/-- R127, R249: FENCE gives each thread a token with the next sequence number and keeps what the fence covers: the engine operations of the team
that are not done, the results its thread is owed and its accesses that are held, and the lines of non-coherent ranges that hold its stores (R103). No
earlier acquire holds it (R393). Nothing else of the team changes. -/
def Obligations.FenceToken : Prop :=
  ∀ (st cl : BitVec 2) (d : BitVec 7) (e : BitVec 2) (s : State) (c : Iss) (tid : Nat), (Instr.fence st cl d e).wf = true →
    Apart s c (Use.dst d.toNat 1) → c.endsWell → c.g.tids = [tid] → tid < c.tm.threads.length →
    let q := ((c.tm.thread tid).fseq + 1) % 2 ^ 31
    ∃ s' tm, exec (.fence st cl d e) s = .next s' ∧ SameMachine s s' ∧ SameOthers s s' c.t ∧ s'.team? c.t = some tm ∧
      (∀ r, codeReg d.toNat = some r → d.toNat < 120 → (r.isT = true → c.goesOn) → tm.reg tid r = BitVec.ofNat 64 (2 ^ 31 + q)) ∧
      (∀ u r, (r.isT = true → c.goesOn) → (u ≠ tid ∨ r.isTeam = true ∨ codeReg d.toNat ≠ some r) → tm.reg u r = c.tm.reg u r) ∧
      (tm.thread tid).fseq = q ∧
      (tm.thread tid).fences = (c.tm.thread tid).fences ++ [⟨q, cl.toNat, e.toNat,
        if cl.getLsbD 1 then (s.ops.filter (fun o => o.2.team == some c.t && !o.2.done)).map Prod.fst else [],
        if cl.getLsbD 0 then (c.tm.wbs.filter (fun w => w.tid == some tid && w.val.isNone)).map (fun w => w.id) ++
          (c.tm.laters.filter (fun l => l.threads.any (fun x => x.1 == tid))).map (fun l => l.id) else [], false,
        if cl.getLsbD 0 then (c.tm.thread tid).ncs else []⟩] ∧
      tm.kexc = c.tm.kexc ∧ SameTeam c.tm (tm.updThread tid (fun th => { th with fseq := (c.tm.thread tid).fseq, fences := (c.tm.thread tid).fences }))

/-- R36, R125, R250, R251: the five PWAITs go on, as an acquire, when what every thread waits for has come about: the phase of an object in
scratch (out of range at once; without a data error) or in memory has ended, the counter is at or below its threshold, the fence has completed, the lock is held.
R247, R250: a phase has ended for an object with expected arrivals that stands 1 to 32,767 phases past it, counted modulo 65,536; for an object whose
expected arrivals are 0 none has. A page without a route raises its machine check when the group comes to the wait, which is the model's choice (log
53, R387). -/
def Obligations.PwaitGoesOn : Prop :=
  ∀ (st : BitVec 2) (k : BitVec 6) (v thr : BitVec 7) (cnt : BitVec 2) (s : State) (c : Iss),
    (Apart s c ((Use.ksrc k.toNat 1).add (Use.src v.toNat 1)) →
      let a := (c.k s k.toNat).toNat % 2 ^ 32
      a % 16 = 0 → s.scrTrap c.t a 16 = none →
      (∀ tid ∈ c.g.tids, ∀ u off, s.scrAt c.t a 16 = some (u, off) →
        (Phase.ofNat (s.phGet (.scr u off))).past (c.src s tid v.toNat).toNat = true) →
      exec (.pwaitS st k v) s = .next ((waited s c (.scratch a) (fun th _ => th)).advance c.t c.gid (1 + st.toNat))) ∧
    (Apart s c ((Use.ksrc k.toNat 1).add (Use.src v.toNat 1)) → ∀ e, c.laneAddr s (c.k s k.toNat) 16 .rmw false false = .ok e →
      let pa := paOf e (c.k s k.toNat)
      s.needsGrant (some e) pa false = false → s.prepWaits c.tm.core pa 16 = false →
      let s0 := (s.fillTlb c.tm.xlat (c.k s k.toNat) e).homePrep c.tm.core pa 16
      let s1 := if ∀ tid ∈ c.g.tids, (c.tm.thread tid).pwait = true then s0 else s0.noRoute c.tm.dieOf c.tm.ctx pa
      (∀ tid ∈ c.g.tids, (Phase.ofNat (s1.phGet (.mem pa e))).past (c.src s1 tid v.toNat).toNat = true) →
      exec (.pwaitG st k v) s = .next ((waited s1 c (.glob (c.k s k.toNat)) (fun th _ => th)).advance c.t c.gid (1 + st.toNat))) ∧
    (Apart s c {} → c.g.tids ≠ [] → FMap.getD c.tm.cnt cnt.toNat 0 ≤ thr.toNat →
      exec (.pwaitCnt st cnt thr) s = .next ((waited s c .none (fun th _ => th)).advance c.t c.gid (1 + st.toNat))) ∧
    (Apart s c (Use.src v.toNat 1) → (∀ tid ∈ c.g.tids, fenceDone (c.tm.thread tid) (c.src s tid v.toNat).toNat = true) →
      exec (.pwaitFence st v) s = .next ((waited s c .none (fenced s c v)).advance c.t c.gid (1 + st.toNat))) ∧
    (Apart s c (Use.src v.toNat 1) → (∀ tid ∈ c.g.tids, s.lockDone c.t tid (c.src s tid v.toNat).toNat = true) →
      exec (.pwaitLock st v) s = .next ((waited s c .none (fun th _ => th)).advance c.t c.gid (1 + st.toNat))) ∧
    ∀ (p : Phase) (n : Nat), p.phase < 2 ^ 16 → n < 2 ^ 16 → (p.past n = true ↔ p.expa ≠ 0 ∧ ∃ d, 1 ≤ d ∧ d ≤ 32767 ∧ p.phase = (n + d) % 2 ^ 16)

/-- R73, R365: an execution of a floating lane instruction or of a cross-thread instruction that raises an enabled flag while the crumb log is on
completes as any other does, with one record, of the header of its run and the lowest thread of its group.
R365: what a record does: next rises by 1 modulo 2^32, also when the ring's page does not translate and the record is dropped; else the record's four
words, the enabled flags raised and the source, the header, core, slot and thread, and the time, stand at base + 32 x (next mod 2^lg). The ring lies in
memory of this package that is no tracked tile and holds no data error, and its page is granted and its granule free. -/
def Obligations.CrumbRecords : Prop :=
  (∀ (i : Instr) (u : Use) (w : List (Nat × Reg × DWord)) (fl : BitVec 5) (s : State) (c : Iss), i.wf = true → Ready s c u → c.endsWell →
     ((∃ p : Plain, float i = some p ∧ u = p.use ∧ w = p.writes s c ∧ fl = p.flags s c) ∨
      (∃ x : Crossed, crossing i = some x ∧ u = x.use ∧ w = x.writes s c ∧ fl = x.flags s c ∧ WholeCrews c)) →
     enabled c.tm.eff.sr fl ≠ 0 → c.tm.eff.sr.crumb.getLsbD 0 = true → (∀ e, s.xlate c.tm.xlat true (ringVa s c.tm) .write = .ok e → isMem (paOf e (ringVa s c.tm)) = true) →
     ∃ s', exec i s = .next s' ∧ WroteOnly (s.crumb c.tm (enabled c.tm.eff.sr fl) false c.g.hdr c.low) s' c w fl) ∧
  (∀ (s : State) (tm : Team) (x : Ctx) (cause : BitVec 5) (matrix : Bool) (hdr : DWord) (tid : Nat),
     s.mem.wf = true → FMap.get? s.ctxs tm.ctx = some x → cause ≠ 0 → tm.eff.sr.crumb.getLsbD 0 = true →
     let s' := s.crumb tm cause matrix hdr tid
     (s'.ctx tm.ctx).sr.crumbc = BitVec.ofNat 64 (x.sr.crumbc.toNat % 2 ^ 32 + (x.sr.crumbc.toNat / 2 ^ 32 + 1) % 2 ^ 32 * 2 ^ 32) ∧
     (∀ p, s.xlate tm.xlat true (ringVa s tm) .write = .error p → s'.mem = s.mem ∧ s'.units = s.units) ∧
     (∀ e, s.xlate tm.xlat true (ringVa s tm) .write = .ok e → let pa := paOf e (ringVa s tm)
       isMem pa = true → s.foreign pa = false → s.needsGrant (some e) pa true = false → s.sealedIn pa 32 = false → pteTde e = false →
       FMap.get? s.links.poison (pa / 64) = none →
       s'.mem.num pa 8 = cause.toNat + (if matrix then 256 else 0) ∧ s'.mem.num (pa + 8) 8 = hdr.toNat ∧
       s'.mem.num (pa + 16) 8 = (tm.core + tm.slot * 2 ^ 10 + tid * 2 ^ 16) % 2 ^ 64 ∧ s'.mem.num (pa + 24) 8 = s.timeNs % 2 ^ 64))

/-- R34, R119, R165, R231-R244: an engine copy with room, by a group of one thread: a release comes first, or, behind an acquire that has not taken
effect, is made before its first part (R393); the counter of its class rises, its k
registers become pending, the record (TCLASS: the tile) is read as far as it can be, and the group moves on without waiting for the copy; where
sr.cpymode says so and the core's queue is full it is refused with status 8 instead.
R34, R231, R238: what an engine copy starts with: refused, its token has status 8, its predicate 1 and no counter changes; else one operation
of the thread and the context, with its counter one higher, its predicate 0 and its k registers owed, tries its first part. That the predicate is
written when the copy issues is the model's reading (log 36). -/
def Obligations.CopiesIssue : Prop :=
  ((∀ (i : Instr) (x : Copying) (s : State) (c : Iss) (tid : Nat), copying i = some x → i.wf = true → Apart s c (x.use c) → c.alone tid →
     let s0 := starts s c (!copyRefused s c)
     let s1 := s0.copyOne c x.cls x.kd (.record x.e (x.args s c)) [⟨.glob (c.k s x.a.toNat), .skip, if x.e = .sread then 256 else 64, 0, .record⟩]
       (startsAfter s c (!copyRefused s c) tid) tid
     copyRoom s0 c x.cls → stands s1 c → ∃ st : BitVec 2, exec i s = .next (issued s1 c tid (gap st))) ∧
   (∀ (st : BitVec 2) (d a : BitVec 6) (s : State) (c : Iss) (tid : Nat),
     Apart s c (copyUse c (Use.ksrc a.toNat 1)) → c.alone tid →
     let s0 := starts s c (!copyRefused s c)
     let s1 := s0.copyOne c 0 [d.toNat] (.tclass (c.k s a.toNat) 0) [⟨.glob (c.k s a.toNat), .skip, 1, 0, .tile⟩] (startsAfter s c (!copyRefused s c) tid) tid
     copyRoom s0 c 0 → stands s1 c → exec (.tclass st d a) s = .next (issued s1 c tid (gap st)))) ∧
  (∀ (s : State) (c : Iss) (cls tid d : Nat) (kind : OpKind) (chunks : List Chunk) (after : List Nat),
     let flagged (v : DWord) : State :=
       if bit c.tm.eff.sr.cpymode.toNat 0 then ({ s with nextId := s.nextId + 1 } : State).writeRegs c.t c.gid 0 [(tid, .p (bits c.tm.eff.sr.cpymode.toNat 3 1), v)]
       else { s with nextId := s.nextId + 1 }
     (copyRefused s c = true → s.copyOne c cls [d] kind chunks after tid = (flagged 1).owe c.t s.nextId tid true false [(.k d, some (BitVec.ofNat 64 (8 * 2 ^ 32)))]) ∧
     (copyRefused s c = false →
       let s1 := (flagged 0).owe c.t s.nextId tid true false [(.k d, none)] 0 true
       ∃ n, s.copyOne c cls [d] kind chunks after tid =
         (s1.addOp { c.newOp tid cls kind [s.nextId] with copyq := true, chunks, bytes := n, after }).2.landNext s1.nextId) ∧
     ∀ (s : State) (o : Op) (tm : Team), o.team = some c.t → o.cls < 4 → s.team? c.t = some tm →
       FMap.get? (s.addOp o).2.ops s.nextId = some { o with gen := (s.ctx o.ctx).gen } ∧ ∃ tm', (s.addOp o).2.team? c.t = some tm' ∧ ∀ n, FMap.getD tm'.cnt n 0 =
         if n = o.cls then FMap.getD tm.cnt n 0 + 1 else FMap.getD tm.cnt n 0)

/-- R245: CFLUSH writes the dirty bytes of the core's lines home that lie in the range and in a non-coherent range, CINV drops such lines; the token
tells the bytes of the lines; an empty range has status 1. No fence waits any more for the lines (R103), and no earlier acquire holds either (R393); they come
after accesses of their threads that are on their way. The token has its value when the instruction issues, which is the model's reading (log 23). -/
def Obligations.LineOps : Prop :=
  ∀ (st : BitVec 2) (d a b : BitVec 6) (s : State) (c : Iss), Apart s c ((Use.ksrc a.toNat 1).add ((Use.ksrc b.toNat 1).add (Use.kdst d.toNat 1))) →
    let va := c.k s a.toNat
    let len := (c.k s b.toNat).toNat
    let ls := if len = 0 then [] else c.ncLines s va len
    let token (n : Nat) : DWord := if len = 0 then BitVec.ofNat 64 (2 ^ 32) else BitVec.ofNat 64 (128 * n)
    let s0 := ls.foldl (fun s l => if l.2.runs.isEmpty then s else s.writeBack c.tm.core l.1) s
    let s1 := ls.foldl (fun s l => (s.updCore c.tm.core (fun k => { k with lines := FMap.erase k.lines l.1 })).ncDone c.tm.core l.1) s
    ∀ tid, c.g.tids = [tid] → inOrder c →
      ((∀ l ∈ ls, s.canWriteBack l.1 l.2 = true) →
        exec (.cflush st d a b) s = .next ((owesK s0 tid c [(.k d.toNat, some (token ls.length))]).advance c.t c.gid (gap st))) ∧
      exec (.cinv st d a b) s = .next ((owesK s1 tid c [(.k d.toNat, some (token ls.length))]).advance c.t c.gid (gap st))

/-- R105, R247, R248: BINIT, BARRIVE and BEXPECT of an object in range, by a group of one thread: the object is updated in one step, and the token
tells the phase; an object or operand whose expected arrivals are 0 gives status 5 and changes nothing; the core's own words of the object go home
first (R104), and BARRIVE then releases. An object out of range gives status 4 to all three, but a BINIT operand whose expected arrivals are 0 gives 5
there too (R235). BARRIVE alone waits behind an earlier acquire (R393). The phase in the token of a refused operation, 0, is the model's reading (log 37). -/
def Obligations.PhaseOps : Prop :=
  ∀ (st : BitVec 2) (d a b : BitVec 6) (g : BitVec 1) (s : State) (c : Iss) (tid : Nat) (p : PhAt), c.g.tids = [tid] →
    let near (s : State) : State := match p with
      | .mem pa e => ((s.fillTlb c.tm.xlat (c.k s a.toNat) e).homePrep c.tm.core pa 16).noRoute c.tm.dieOf c.tm.ctx pa
      | .scr _ _ => s
    let see (s : State) : Phase × Nat := (Phase.ofNat (s.phGet p), FMap.getD s.units.heldArr p.key 0)
    let told (s : State) (v : Nat) : State := (owesK s tid c [(.k d.toNat, some (BitVec.ofNat 64 v))]).advance c.t c.gid (gap st)
    let w := (c.k s b.toNat).toNat
    (Apart s c ((Use.ksrc b.toNat 1).add ((Use.ksrc a.toNat 1).add (Use.kdst d.toNat 1))) → inOrder c →
      (s.findPhase c g (c.k s a.toNat) false = .at p → exec (.binit st d a b g) s = .next (
        if w % 2 ^ 12 = 0 then told s (5 * 2 ^ 32)
        else told ((near s).phUpdate p (fun _ => (⟨w % 2 ^ 12, 0, 0, 0, 0, bits w 31 16⟩, 0)) c.tm.ctx) (bits w 31 16))) ∧
      (s.findPhase c g (c.k s a.toNat) false = .none → exec (.binit st d a b g) s = .next (told s (if w % 2 ^ 12 = 0 then 5 * 2 ^ 32 else 4 * 2 ^ 32))) ∧
      (s.findPhase c g (c.k s a.toNat) true = .none → exec (.bexpect st d a b g) s = .next (told s (4 * 2 ^ 32))) ∧
      (s.findPhase c g (c.k s a.toNat) true = .at p → exec (.bexpect st d a b g) s = .next (
        told ((near s).phUpdate p (fun x => ({ x.1 with expb := (x.1.expb + (c.k s b.toNat).toNat % 2 ^ 32) % 2 ^ 32 }, x.2)) c.tm.ctx) (see (near s)).1.phase))) ∧
    (Calm s c (Use.add {} ((Use.ksrc a.toNat 1).add (Use.kdst d.toNat 1))) →
      (s.findPhase c g (c.k s a.toNat) true = .none → exec (.barrive st d a g) s = .next (told s (4 * 2 ^ 32))) ∧
      (s.findPhase c g (c.k s a.toNat) true = .at p → mayRelease (near s) c ((see (near s)).1.expa != 0) →
      let s0 := released (near s) c ((see (near s)).1.expa != 0)
      exec (.barrive st d a g) s = .next (
        if (see s0).1.expa = 0 then told s0 (5 * 2 ^ 32)
        else told (s0.phUpdate p (fun y => (if y.1.expa = 0 then (y, 0, 5) else (Phase.arrive y, Phase.toward y, 0)).1) c.tm.ctx) (Phase.toward (see s0)))))

/-- R283, R284, R286: SCLAIM takes the slots it asks for when each is free or its own, a free one in state empty with fmt, tr, cls, f and cval 0, and
otherwise none, with busy in its token; SCLASS reads a
slot's descriptor; SREL waits, holding its list, for fills and for the matrix instructions that wait. Groups of one thread. -/
def Obligations.SlotOps : Prop :=
  ∀ (st : BitVec 2) (d a : BitVec 6) (s : State) (c : Iss) (tid : Nat), Apart s c ((Use.ksrc a.toNat 1).add (Use.kdst d.toNat 1)) → c.g.tids = [tid] →
    let k := s.core c.tm.core
    let x := (c.k s a.toNat).toNat
    ((∀ n, n < 16 → x.testBit n = true → (k.slot n).state = 0 ∨ k.holds c.t n = true) →
      ∃ k' : CoreSt, exec (.sclaim st d a) s = .next (told (s.updCore c.tm.core (fun _ => k')) c tid d (gap st) (k'.heldMask c.t)) ∧
        { k' with slots := k.slots } = k ∧ (∀ n, n < 16 → x.testBit n = true → k'.holds c.t n = true ∧
          ((k.slot n).state = 0 → k'.slot n = { state := 1, team := c.t, data := (k'.slot n).data })) ∧
        (∀ n, 16 ≤ n ∨ x.testBit n = false ∨ k.holds c.t n = true → k'.slot n = k.slot n)) ∧
    ((∃ n, n < 16 ∧ x.testBit n = true ∧ (k.slot n).state ≠ 0 ∧ k.holds c.t n = false) →
      exec (.sclaim st d a) s = .next (told s c tid d (gap st) (k.heldMask c.t + 2 ^ 16))) ∧
    exec (.sclass st d a) s = .next (told s c tid d (gap st) ((k.slot (x % 16)).desc c.t)) ∧
    (let mine := (List.range 16).filter (fun n => x.testBit n && k.holds c.t n)
      let s1 := owesK s tid c [(.k d.toNat, none)]
      let waits := mine.flatMap (s.holders c.t)
      let r : SRel := { core := c.tm.core, team := c.t, mask := mine.foldl (fun m n => m + 2 ^ n) 0, waits, wb := s.nextId }
      exec (.srel st d a) s = .next ((({ s1 with nextId := s.nextId + 2, rels := FMap.set s.rels (s.nextId + 1) r } : State).tryRel (s.nextId + 1)).advance
        c.t c.gid (gap st)))

/-- R119, R165, R288-R295: MMA, MMASP and MMAG of one thread, once every signature is in, no slot is being filled and no earlier one of the team waits
on the register, and where R288 names no trap: a release, which behind an acquire that has not taken effect waits with the operation (R393), the signatures consumed, the class-2 counter raised, and the slots read whole into the operation. -/
def Obligations.MatrixIssues : Prop :=
  ∀ (i : Instr) (u : Use) (f : State → Iss → Mat) (s : State) (c : Iss) (tid : Nat), multiplying i = some (u, f) → i.wf = true → Apart s c u → c.alone tid →
    let m := f s c
    let s0 := starts s c true
    let k := s0.core c.tm.core
    m.cv < c.tm.tr.cv → c.behind m.cv = false → c.matTrap s m = none → signed s c m → signed s0 c m → s0.cntRoom c.t 2 = true →
    ∃ st : BitVec 2, exec i s = .next (issued ((s0.updTeam c.t (fun tm =>
        { tm with cv := FMap.set tm.cv m.cv ((FMap.getD tm.cv m.cv (0, 0)).1, 0) }.updThread tid (fun th => { th with mwait := none }))).addOp
      { (c.newOp tid 2 (.mma (c.tm.accBase + m.u) c.tm.ival m.zi m.fin m.nel (k.slot m.a) (m.bs.map k.slot) (m.meta?.map k.slot)) []) with
        after := startsAfter s c true tid, bad := (k.slotError m.names).map (fun _ => (4, 0)), badPa := ((k.slotError m.names).map (fun h => s0.windowPa 2 c.tm.core (h * 64))).getD 0 }).2
          c tid (gap st))

/-- R67: for i8 operands the 64 products A(i, kk) x B(kk, j) of the slots' bytes as integers and their sum are exact, and the sum is added into the
i32 element modulo 2^32; no partial, count or promotion applies and no flag is raised, and nothing else of the core changes, no other element of the
accumulator memory among it. B is one slot, or one for each eight rows of A (R294); with a metadata slot the two products of each group of four are
those it names (R293). -/
def Obligations.MatrixProduct : Prop :=
  ∀ (k : CoreSt) (unit ival : Nat) (fin : Bool) (a : OSlot) (bs : List OSlot) (m : Option OSlot), a.fmt = 6 → bs.length = 1 ∨ bs.length = 8 →
    (∀ b ∈ bs, b.fmt = 6) → FMap.getD k.cnt unit 0 = 0 →
    let r := k.matmul unit ival false fin a bs m
    let b (i : Nat) : OSlot := (bs[if bs.length = 8 then i / 8 else 0]?).getD {}
    (∀ i j, i < 64 → j < 64 → r.1.elem (unit * 64 + i) j = BitVec.ofInt 32 ((k.elem (unit * 64 + i) j).toNat + (match m with
      | none => ((List.range 64).map (fun kk => i8At a.tr a i kk * i8At (b i).tr (b i) kk j)).sum
      | some m => ((List.range 16).map (fun g =>
          let x := m.num (8 * i) 8 / 2 ^ (4 * g) % 4
          let y := m.num (8 * i) 8 / 2 ^ (4 * g + 2) % 4
          if y ≤ x then 0
          else i8At false a i (2 * g) * i8At (b i).tr (b i) (4 * g + x) j + i8At false a i (2 * g + 1) * i8At (b i).tr (b i) (4 * g + y) j)).sum))) ∧
    (∀ row e, row / 64 ≠ unit → e < 64 → r.1.elem row e = k.elem row e) ∧ { r.1 with acc := k.acc } = k ∧ r.2 = 0

/-- R297, R299: AZERO issues one operation, which behind an acquire that has not taken effect waits with its release (R119, R393); AWIN sets the window of each crew of its group. A window or range beyond the rows of the team traps. -/
def Obligations.AccumulatorOps : Prop :=
  ∀ (st : BitVec 2) (k : BitVec 6) (s : State) (c : Iss),
    let x := (c.k s k.toNat).toNat
    let lo := bits x 15 0
    let hi := bits x 31 16
    (Apart s c (Use.ksrc k.toNat 1) →
      (hi ≠ 0 → c.tm.tr.acc / 64 < lo + hi → exec (.azero st k) s = .next (s.trapAll c.t c.gid c.g .window)) ∧
      (∀ tid, c.alone tid → hi = 0 ∨ lo + hi ≤ c.tm.tr.acc / 64 → stands (starts s c true) c →
        (starts s c true).cntRoom c.t 2 = true →
        exec (.azero st k) s = .next (issued ((starts s c true).addOp { c.newOp tid 2 (.azero (c.tm.accBase + lo) hi) [] with
          after := startsAfter s c true tid }).2 c tid (gap st)))) ∧
    (Ready s c (Use.ksrc k.toNat 1) → c.endsWell →
      (hi < lo ∨ c.tm.tr.acc < hi → exec (.awin st k) s = .next (s.trapAll c.t c.gid c.g .window)) ∧
      (lo ≤ hi → hi ≤ c.tm.tr.acc → ∃ s' tm, exec (.awin st k) s = .next s' ∧ SameMachine s s' ∧ SameOthers s s' c.t ∧ s'.team? c.t = some tm ∧
        SameTeam c.tm { tm with aw := c.tm.aw } ∧ tm.kexc = c.tm.kexc ∧
        (∀ w, FMap.getD tm.aw w (0, 0) = if w ∈ c.g.tids.map (· / 32) then (lo, hi) else FMap.getD c.tm.aw w (0, 0)) ∧
        ∀ tid r, (r.isT = true → c.goesOn) → tm.reg tid r = c.tm.reg tid r))

/-- R301: APROMO sets the team's promotion interval to n, and has no other effect. -/
def Obligations.PromotionInterval : Prop :=
  ∀ (st : BitVec 2) (n : BitVec 7) (s : State) (c : Iss), Ready s c {} → c.endsWell →
    ∃ s' tm, exec (.apromo st n) s = .next s' ∧ SameMachine s s' ∧ SameOthers s s' c.t ∧ s'.team? c.t = some tm ∧
      SameTeam c.tm { tm with ival := c.tm.ival } ∧ tm.ival = n.toNat ∧ tm.kexc = c.tm.kexc ∧
      ∀ tid r, (r.isT = true → c.goesOn) → tm.reg tid r = c.tm.reg tid r

/-- R69, R133, R298: ARD and AWR of rows inside the crews' windows that no earlier matrix operation has still to write: the units concerned are
promoted first, ARD's results bringing the flags of that (R72); each thread is owed, or stores, the element of its row, its half and its place in its
crew. ARD reads no data error. -/
def Obligations.AccumulatorElements : Prop :=
  ∀ (st : BitVec 2) (k : BitVec 6) (d : BitVec 7) (n : BitVec 6) (h : BitVec 1) (s : State) (c : Iss),
    let row (tid : Nat) : Nat := c.tm.accBase * 64 + (c.accRow s k.toNat n.toNat tid).getD 0
    (∀ tid ∈ c.g.tids, (c.accRow s k.toNat n.toNat tid).isSome = true ∧ s.rowBusy c.t (row tid) = false) →
    let q := (dedup (c.g.tids.map (fun tid => row tid / 64))).foldl (fun (x : CoreSt × BitVec 5) u => ((x.1.settle u).1, x.2 ||| (x.1.settle u).2))
      (s.core c.tm.core, 0)
    let s0 := (s.updCore c.tm.core (fun _ => q.1)).raiseFlags c 0 q.2
    (Ready s c ((Use.ksrc k.toNat 1).add (Use.dst d.toNat 1)) → (∀ tid ∈ c.g.tids, row tid * 4 + (32 * h.toNat + tid % 32) / 16 ∉ (s.core c.tm.core).accBad) →
      exec (.ard st k d n h) s = .next (s0.oweAll c (gap st) (fl := q.2) (fun tid =>
      resultRegs d.toNat 1 true (some ((s0.core c.tm.core).elem (row tid) (32 * h.toNat + tid % 32)).toNat)))) ∧
    (Ready s c ((Use.ksrc k.toNat 1).add (Use.src d.toNat 1)) → exec (.awr st k d n h) s = .next ((s0.updCore c.tm.core (fun k =>
      c.g.tids.foldl (fun (k : CoreSt) tid => { k with acc := FMap.set k.acc (row tid * 64 + 32 * h.toNat + tid % 32) (c.src s0 tid d.toNat) }) k)).advance c.t c.gid (gap st)))

/-- R119, R300: ALD and AST of one thread, of rows of the team and an aligned address: a release, which behind an acquire that has not taken effect
waits with the operation (R393), the status register owed, and one operation
that moves the rows to or from memory or scratch; an empty range has status 1, reserved bits 5, scratch out of range 4, and moves nothing. -/
def Obligations.AccumulatorMoves : Prop :=
  ∀ (st : BitVec 2) (k : BitVec 6) (d : BitVec 7) (store : Bool) (s : State) (c : Iss) (tid : Nat),
    let i : Instr := if store then .ast st k d else .ald st k d
    i.wf = true → Apart s c ((Use.ksrc k.toNat 2).add (Use.dst d.toNat 1)) → c.alone tid → 
    let s0 := starts s c true
    let a := c.k s k.toNat
    let y := (c.k s (k.toNat + 1)).toNat
    let f := bits y 15 0
    let m := bits y 31 16
    let addr := if y.testBit 32 then a.toNat else a.toNat % 2 ^ 32
    let moves (at_ : Loc) : List Chunk := (List.range m).map (fun r =>
      let row := Loc.acc (c.tm.accBase * 64 + f + r) 0
      let near := at_.add (256 * r)
      ⟨if store then row else near, if store then near else row, 256, 0, .move⟩)
    stands s0 c → s0.cntRoom c.t 2 = true → f + m ≤ c.tm.tr.acc → addr % 256 = 0 →
    ∃ o : Op, exec i s = .next (issued ((({ s0 with nextId := s0.nextId + 1 } : State).owe c.t s0.nextId tid false false
        (resultRegs d.toNat 1 false none) 0 true).addOp o).2 c tid (gap st)) ∧ o.team = some c.t ∧ o.ctx = c.tm.ctx ∧
      o.cls = 2 ∧ o.tid = tid ∧ o.wbs = [s0.nextId] ∧ o.done = false ∧ o.after = startsAfter s c true tid ∧
      (m = 0 → o.status = 1 ∧ o.chunks = []) ∧
      (m ≠ 0 → y / 2 ^ 33 ≠ 0 → o.status = 5 ∧ o.chunks = []) ∧
      (m ≠ 0 → y / 2 ^ 33 = 0 → y.testBit 32 = true → o.status = 0 ∧ o.chunks = moves (.glob a)) ∧
      (m ≠ 0 → y / 2 ^ 33 = 0 → y.testBit 32 = false → s0.scrAt c.t addr (256 * m) = none → o.status = 4 ∧ o.chunks = []) ∧
      (m ≠ 0 → y / 2 ^ 33 = 0 → y.testBit 32 = false → ∀ u off, s0.scrAt c.t addr (256 * m) = some (u, off) → o.status = 0 ∧ o.chunks = moves (.scr u off))

/-- R260: a ⊕ b of HACC by its sub, and the flags that it raises. -/
def accTwo (sr : SysRegs) (u : BitVec 3) (a b : Word) : Word × BitVec 5 :=
  if u = 0 then (a + b, 0) else if u = 1 then asWord (fAdd f32 (rmOf sr 0) a.toNat b.toNat) else if u = 2 then (minS a b, 0)
  else if u = 3 then (maxS a b, 0) else (a ||| b, 0)

/-- R261: the values of the lanes of one key combined in ascending order, with the union of the flags. -/
def accLanes (sr : SysRegs) (u : BitVec 3) (x : Word) (ys : List Word) : Word × BitVec 5 :=
  ys.foldl (fun acc y => ((accTwo sr u acc.1 y).1, acc.2 ||| (accTwo sr u acc.1 y).2)) (x, 0)

/-- R260: a value placed by HACC: with .add.f32 a NaN becomes the canonical one, and a signalling NaN raises nv. -/
def accPlaced (u : BitVec 3) (x : Word) : Word × BitVec 5 :=
  if u = 1 && (Num.ofBits f32 x.toNat).isNan then (0x7FC00000, if (Num.ofBits f32 x.toNat).isSnan then flNv else flNone) else (x, 0)

/-- R256, R259-R261, R264: HINS, HPROBE, HDEL and HACC without a trap: the operations of the group's keys perform one after another, flags of HACC
are raised, and every thread is owed its status and value.
R259: a thread with a reserved key is owed status 7 and value 0.
R253-R261: one keyed operation, of a key that is not reserved, by the lanes whose values are x and ys: HPROBE and HINS of a key that the table holds
give 2 and the value held and change nothing; HPROBE and HDEL of a key it does not hold give 1; HDEL of one it holds leaves a tombstone with its value
and gives 6; HINS of a key it does not hold offers x, which goes to the first slot of its bucket that is empty or a tombstone (3), else to the next
spill entry (4), else nowhere (5); HACC combines its lanes' values in ascending order and adds them to the value held, if the key is there (2), or
places them as HINS does. Spill entries read or written without a route raise machine checks (R387). That what is no table gives 8 to every lane, the
lanes of an HDEL above the first too, for which R261 says absent, is the model's reading (log 65). -/
def Obligations.KeyedHashes : Prop :=
  (∀ (i : Instr) (st : BitVec 2) (op : Nat) (u : BitVec 3) (k : BitVec 6) (q : BitVec 7) (s s1 : State) (c : Iss)
     (res : List (Nat × List (Reg × Option DWord))) (fl : BitVec 5),
     hashing i = some (st, op, u, k, q) → i.wf = true → Calm s c (useHash op k q) →
     s.keyedAll c ((c.k s k.toNat).toNat % 2 ^ 32) op u q.toNat = .ok (s1, res, [], fl) →
     exec i s = .next ((s1.raiseFlags c 0 fl).oweAll c (gap st) (fl := fl) (fun tid => ((res.find? (fun r => r.1 == tid)).map Prod.snd).getD []))) ∧
  (∀ (s s1 : State) (c : Iss) (b op : Nat) (u : BitVec 3) (q : Nat) (res : List (Nat × List (Reg × Option DWord))) (traps : List (Nat × Trap))
     (fl : BitVec 5), s.keyedAll c b op u q = .ok (s1, res, traps, fl) → ∀ tid ∈ c.g.tids, badKey (c.src s tid q) = true →
     res.find? (fun r => r.1 == tid) = some (tid, hashOwed q 7 (some 0))) ∧
  (∀ (s : State) (tm : Team) (b : Nat) (u : BitVec 3) (t : Nat) (k x : Word) (ys : List Word), badKey k = false →
     (s.htabOf t b = .ok none → ∀ op, s.keyed tm b op u t k (x :: ys) = .ok (s, ⟨8, 0, 8, 0, 0⟩)) ∧
     (∀ h seen, s.htabOf t b = .ok (some h) →
       let s1 := s.spillRoute tm seen
       let acc := accLanes tm.eff.sr u x ys
       (∀ p, s.hfind tm h k = .ok (seen, some p) →
         let v : Word := BitVec.ofNat 32 (s1.hget h p / 2 ^ 32)
         (∀ op, op = 0 ∨ op = 1 → s.keyed tm b op u t k (x :: ys) = .ok (s1, ⟨2, v, 2, v, 0⟩)) ∧
         s.keyed tm b 2 u t k (x :: ys) = .ok ((s1.hput h p 0xFFFFFFFE v.toNat).putHtab { h with nlive := h.nlive - 1, ntomb := h.ntomb + 1 }, ⟨6, v, 1, 0, 0⟩) ∧
         (u.toNat < 5 → let r := accTwo tm.eff.sr u v acc.1
           s.keyed tm b 3 u t k (x :: ys) = .ok (s1.hput h p k.toNat r.1.toNat, ⟨2, r.1, 2, r.1, acc.2 ||| r.2⟩))) ∧
       (s.hfind tm h k = .ok (seen, none) →
         let vacant (p : HPos) : Bool := s1.hget h p % 2 ^ 32 == 0xFFFFFFFF || s1.hget h p % 2 ^ 32 == 0xFFFFFFFE
         let slots := h.slots (hashBucket k h.n)
         let slot (p : HPos) (v : Word) : State := (s1.hput h p k.toNat v.toNat).putHtab { h with
           nlive := h.nlive + 1, ntomb := if s1.hget h p % 2 ^ 32 = 0xFFFFFFFE then h.ntomb - 1 else h.ntomb }
         let spill (p : HPos) (v : Word) : State :=
           ((s1.spillRoute tm p.parts).hput h p k.toNat v.toNat).putHtab { h with nlive := h.nlive + 1, sused := h.sused + 1 }
         let pl := accPlaced u acc.1
         (∀ op, op = 1 ∨ op = 2 → s.keyed tm b op u t k (x :: ys) = .ok (s1, ⟨1, 0, 1, 0, 0⟩)) ∧
         (∀ p, slots.find? vacant = some p → s.keyed tm b 0 u t k (x :: ys) = .ok (slot p x, ⟨3, x, 2, x, 0⟩) ∧
           (u.toNat < 5 → s.keyed tm b 3 u t k (x :: ys) = .ok (slot p pl.1, ⟨3, pl.1, 3, pl.1, acc.2 ||| pl.2⟩))) ∧
         (slots.find? vacant = none → h.sused < h.scap → ∀ p, s1.spillAt tm h h.sused = .ok p →
           s.keyed tm b 0 u t k (x :: ys) = .ok (spill p x, ⟨4, x, 2, x, 0⟩) ∧
           (u.toNat < 5 → s.keyed tm b 3 u t k (x :: ys) = .ok (spill p pl.1, ⟨4, pl.1, 4, pl.1, acc.2 ||| pl.2⟩))) ∧
         (slots.find? vacant = none → h.scap ≤ h.sused → s.keyed tm b 0 u t k (x :: ys) = .ok (s1, ⟨5, 0, 5, 0, 0⟩) ∧
           (u.toNat < 5 → s.keyed tm b 3 u t k (x :: ys) = .ok (s1, ⟨5, 0, 5, 0, acc.2 ||| pl.2⟩))))))

/-- R254: the bucket of key k in a table of 2^n buckets. -/
def Obligations.HashBucket : Prop :=
  ∀ (k h0 h1 h2 : Word) (n : Nat), 4 ≤ n → n ≤ 12 → h0 = k ^^^ (k >>> 16) → h1.toNat = h0.toNat * 0x6A09E667 % 2 ^ 32 → h2 = h1 ^^^ (h1 >>> 13) →
    hashBucket k n = (h2 >>> (32 - n)).toNat

/-- R256, R257, R262, R263: HSTAT, HCLAIM, HREL and HDRAIN of one thread: counts and status; a new empty table where nothing is claimed; a table that
is live no more; the live entries in order, all of them or as many as there is room for. No data error is in the table (R265). -/
def Obligations.WholeTables : Prop :=
  ∀ (st : BitVec 2) (k : BitVec 6) (q : BitVec 7) (s : State) (c : Iss) (tid : Nat), c.g.tids = [tid] →
    let b := (c.k s k.toNat).toNat % 2 ^ 32
    let answers (s : State) (l : List (Reg × Option DWord)) : Host.Outcome State Fault Refusal := .next ((owes s c tid false l).advance c.t c.gid (gap st))
    ((Instr.hstat st k q).wf = true → Calm s c ((Use.ksrc k.toNat 1).add (Use.dst q.toNat 4)) → ∀ h, s.htabOf c.t b = .ok (some h) →
      exec (.hstat st k q) s = answers s ([(.v q.toNat, some (BitVec.ofNat 64 h.nlive)), (.v (q.toNat + 1), some (BitVec.ofNat 64 h.ntomb)),
        (.v (q.toNat + 2), some 0), (.v (q.toNat + 3), some ((BitVec.ofNat 32 h.sused).setWidth 64))])) ∧
    ((Instr.hrel st k q).wf = true → Calm s c ((Use.ksrc k.toNat 1).add (Use.dst (q.toNat + 2) 2)) → ∀ h, s.htabOf c.t b = .ok (some h) →
      exec (.hrel st k q) s = answers (s.scrPut h.u (h.b - 64) (h.header false)) (hashOwed q.toNat 0 (some (BitVec.ofNat 32 h.nlive)))) ∧
    ((Instr.hclaim st k q).wf = true → Calm s c ((Use.ksrc k.toNat 3).add (Use.dst (q.toNat + 2) 2)) →
      let k1 := c.k s (k.toNat + 1)
      let k2 := c.k s (k.toNat + 2)
      let n := bits (c.k s k.toNat).toNat 35 32
      (claimRange c.tm (c.k s k.toNat) k1 k2 = true → exec (.hclaim st k q) s = answers s (hashOwed q.toNat 11 none)) ∧
      (claimRange c.tm (c.k s k.toNat) k1 k2 = false → s.tableTrap c.t (b - 64) 64 = none → (leNat (s.scrGet c.t (b - 64) 1)).testBit 4 = true →
        exec (.hclaim st k q) s = answers s (hashOwed q.toNat 9 none)) ∧
      (claimRange c.tm (c.k s k.toNat) k1 k2 = false → s.tableTrap c.t (b - 64) 64 = none → (leNat (s.scrGet c.t (b - 64) 1)).testBit 4 = false →
        exec (.hclaim st k q) s = answers (s.clearTable ⟨c.t, b, n, 0, 0, 0, k2.toNat, k1⟩) (hashOwed q.toNat 0 (some (BitVec.ofNat 32 (2 ^ n)))))) ∧
    ((Instr.hdrain st k q).wf = true → Calm s c ((Use.ksrc k.toNat 1).add ((Use.src q.toNat 3).add (Use.dst (q.toNat + 2) 2))) →
      let d := (c.src s tid q.toNat).toNat
      let m := (c.src s tid (q.toNat + 1)).toNat
      let f := (c.src s tid (q.toNat + 2)).toNat
      ∀ h, s.htabOf c.t b = .ok (some h) →
      (drainRange c.tm c.t h d m f = true → exec (.hdrain st k q) s = answers s (hashOwed q.toNat 11 none)) ∧
      (drainRange c.tm c.t h d m f = false → ∀ seen l, s.liveEntries c.tm h = .ok (seen, l) →
        let s1 := (List.range (l.take m).length).foldl (fun (s : State) i => s.scrPut c.t (d + 8 * i) (natLe 8 (((l.take m)[i]?).getD 0))) (s.spillRoute c.tm seen)
        exec (.hdrain st k q) s = if m < l.length then answers s1 (hashOwed q.toNat 10 (some (BitVec.ofNat 32 m)))
          else answers (if f = 1 then s1.clearTable h else s1) (hashOwed q.toNat 0 (some (BitVec.ofNat 32 l.length)))))

/-- R268-R271, R275, R277, R278: regions by instruction: an instruction that is forbidden there aborts the open regions of its threads with cause
forbidden before it takes effect, and the others go on with it in the same issue, which is the model's reading (log 21); XBEGIN opens them, with the whole interval from the ordering clock on; XRD reads a bound; XABORT
ends the thread's region at its handler; XEND releases (R105, R138), before it seals where an acquire has not taken effect (R393), and begins to close; XST keeps its bytes at the core and sends its request; XLD
sends its request with its own bytes. The core's dirty words of the line go home before a request (R104). That the group goes on at once after XEND
(log 45), and that an XLD of bytes all its own does not join the read set (log 22), are the model's readings. -/
def Obligations.RegionOps : Prop :=
  ∀ (st w : BitVec 2) (e : BitVec 1) (k : BitVec 6) (v d a : BitVec 7) (o : BitVec 6) (s : State) (c : Iss) (tid : Nat) (r : Region),
    (Apart s c ((Use.ksrc k.toNat 1).add ⟨[], [], v.toNat + 1, false⟩) → c.endsWell → c.g.tids.Nodup → s.openRegions c.tm.core + c.g.tids.length ≤ 64 →
      ∃ s' tm, exec (.xbegin st e k v) s = .next s' ∧ SameMachine s s' ∧ SameOthers s s' c.t ∧ s'.team? c.t = some tm ∧
        (∀ tid ∈ c.g.tids, tid < c.tm.threads.length → (tm.thread tid).region = some { strict := e == 1, handler := c.k s k.toNat, creg := v.toNat } ∧
          (tm.thread tid).xlo = BitVec.ofNat 64 s.ordClock ∧ (tm.thread tid).xhi = BitVec.ofNat 64 (2 ^ 63 - 1)) ∧
        (∀ tid, tid ∉ c.g.tids → tm.thread tid = c.tm.thread tid) ∧ (∀ tid q, (q.isT = true → c.goesOn) → tm.reg tid q = c.tm.reg tid q)) ∧
    ((Instr.xrd st e v).wf = true → Ready s c (Use.dst v.toNat 2) → c.endsWell → ∃ s', exec (.xrd st e v) s = .next s' ∧ OwesOnly s s' c (c.owed (fun tid =>
      resultRegs v.toNat 2 false (some (if e = 1 then (c.tm.thread tid).xhi.toNat else (c.tm.thread tid).xlo.toNat))))) ∧
    (Apart s c {} → exec (.xabort st v) s = .next (s.advance c.t c.gid (gap st))) ∧
    (∀ (i : Instr) (x : Use × Bool), outlawed c i = some x → Ready s c x.1 → c.closing = false → (x.2 = true → c.acquiring = false) →
      let inR := c.g.tids.filter (fun tid => (c.tm.thread tid).region.isSome)
      let s1 := inR.foldl (fun s tid => s.abortRegion c.t tid 7 0) s
      inR ≠ [] → (s1.iss = none → exec i s = .next (s1.issued c.t)) ∧
        (∀ c', s1.iss = some c' → Apart s1 c' x.1 → (x.2 = true → c'.acquiring = false) → exec i s = exec i s1)) ∧
    (inside c tid r →
      (Ready s c {} →
        let s1 := s.abortRegion c.t tid 6 v.toNat
        s1.iss = none → exec (.xabort st v) s = .next (s1.issued c.t)) ∧
      ((Instr.xend st k v).wf = true → Ready s c ((Use.dst v.toNat 2).add (Use.kdst k.toNat 1)) → 
        let s0 := starts s c true
        let s1 := owes (owesAll s0 c k none) c tid false (resultRegs v.toNat 2 false none)
        exec (.xend st k v) s = .next (((inRegion s1 c tid (fun r =>
          { r with stage := 1, toSeal := sortNat (dedup (r.reads ++ r.writeSet)), xe := some (s0.nextId + 1, s0.nextId), late := s.lateIssue c true })).updTeam c.t (fun tm =>
            { tm with xends := FMap.set tm.xends s0.nextId ([tid], none) })).advance c.t c.gid (gap st))) ∧
      (let va := c.src64 s tid a.toNat + o.signExtend 64 * BitVec.ofNat 64 (2 ^ (w.toNat + 1))
        let n := 2 ^ (w.toNat + 1)
        let pa := (c.lanePa s va).1
        let s0 := s.fillTlb c.tm.xlat va (c.lanePa s va).2
        ((Instr.xst st w d a o).wf = true → Ready s c ((Use.src a.toNat 2).add (Use.src d.toNat (widthRegs w))) → c.xAbort s tid va n true = none →
          let bs := natLe n (c.srcNat s0 tid d.toNat (widthRegs w))
          let gen := s0.genAt c.tm.xlat va
          exec (.xst st w d a o) s = .next (((inRegion s0 c tid (fun r => { r with
            writes := (List.range n).foldl (fun m i => FMap.set m (pa + i) ((bs[i]?).getD 0)) r.writes
            writeSet := dedup (r.writeSet ++ [pa / 32])
            ptes := FMap.set r.ptes (pa / 32) (c.lanePa s va).2
            gen := some (min gen (r.gen.getD gen)) })).sendReq c tid true va pa (c.lanePa s va).2 n [] []).advance c.t c.gid (gap st))) ∧
        ((Instr.xld st w d a o).wf = true → Ready s c ((Use.src a.toNat 2).add (Use.dst d.toNat (widthRegs w))) → c.xAbort s tid va n false = none →
          let own := (List.range n).filterMap (fun i => (FMap.get? r.writes (pa + i)).map (fun b => (pa + i, b)))
          let s1 : State := { s0 with nextId := s0.nextId + 1 }
          let s2 := if own.length = n then s1 else inRegion s1 c tid (fun r => { r with reads := dedup (r.reads ++ [pa / 32]) })
          exec (.xld st w d a o) s = .next ((State.sendReq (s2.owe c.t s0.nextId tid false false (resultRegs d.toNat (widthRegs w) (w != 3) none))
            c tid false va pa (c.lanePa s va).2 n own [s0.nextId]).advance c.t c.gid (gap st)))))

/-- R330-R336, R354-R356: SCOMMIT, SRAISE, SQUERY, SSTART, SSTOP, GLAUNCH and QPUT of one thread: a release where the instruction makes one, the
token and the predicate owed, one operation without a counter, which performs at once as far as it can, or, behind an acquire that has not taken
effect, once its release has been made (R393). -/
def Obligations.DirectIssues : Prop :=
  ∀ (i : Instr) (x : Direct) (s : State) (c : Iss) (tid : Nat), operating i = some x → i.wf = true → Apart s c (x.use.add x.writes) →
    c.g.tids = [tid] → ∃ st : BitVec 2, exec i s = .next (((x.start (starts s c x.rel) c tid (startsAfter s c x.rel tid)).opNext ((starts s c x.rel).nextId + 1)).advance
      c.t c.gid (gap st))

/-- R315, R333: a raise of a started set that is accepted takes the next sequence number and is in flight; of a set that is not started or is stopping
it has status 5, of a cell beyond the set 6. -/
def Obligations.RaiseAccepted : Prop :=
  ∀ (s : State) (x : Xlat) (va : DWord) (cell amt pte : Nat), s.xlate x false va .read = .ok pte →
    (s.setAt (paOf pte va) = none → s.opRaise x va cell amt = .done s [0, 5]) ∧
    (∀ sid e, s.setAt (paOf pte va) = some (sid, e) → FMap.get? s.sets sid = some e →
      (e.stopping = true → s.opRaise x va cell amt = .done s [0, 5]) ∧
      (e.stopping = false → e.n ≤ cell → s.opRaise x va cell amt = .done s [0, 6]) ∧
      (e.stopping = false → cell < e.n → ∃ s' e', s.opRaise x va cell amt = .done s' [e.rseq + 1, 0] ∧ FMap.get? s'.sets sid = some e' ∧ e'.rseq = e.rseq + 1 ∧
        e'.raises = e.raises ++ [⟨e.rseq + 1, cell, (cleanAmt (BitVec.ofNat 32 amt)).1⟩] ∧ e'.cells = e.cells ∧
        { s' with sets := s.sets } = s))

/-- R100, R167, R372: without priv SRD, SWR and TLBI take the privilege trap; with it SRD reads a register of the context, SWR writes one, and TLBI
asks every die once, then goes on when all have answered. -/
def Obligations.SystemRegisters : Prop :=
  ∀ (st : BitVec 2) (k : BitVec 6) (r : BitVec 15) (s : State) (c : Iss),
    let x := s.ctx c.tm.ctx
    (Ready s c (Use.kdst k.toNat 1) →
      (c.tm.eff.priv = false → exec (.srd st k r) s = .next (s.trapAll c.t c.gid c.g { cause := 2 })) ∧
      (c.tm.eff.priv = true → exec (.srd st k r) s = .next ((owesAll s c k (some (x.sr.read s.ordClock r.toNat))).advance c.t c.gid (gap st)))) ∧
    (Ready s c (Use.ksrc k.toNat 1) →
      (c.tm.eff.priv = false → exec (.swr st k r) s = .next (s.trapAll c.t c.gid c.g { cause := 2 }) ∧
        exec (.tlbi st k) s = .next (s.trapAll c.t c.gid c.g { cause := 2 })) ∧
      (c.tm.eff.priv = true →
        exec (.swr st k r) s = .next (({ s with ctxs := FMap.set s.ctxs c.tm.ctx { x with sr := x.sr.write r.toNat (c.k s k.toNat) } } : State).advance
          c.t c.gid (gap st)) ∧
        (s.shoots.find? (fun y => y.team == c.t && y.grp == c.gid) = none →
          let w := (c.k s k.toNat).toNat
          let n := bits w 10 0
          let y : Shoot := { id := s.nextId, team := c.t, grp := c.gid, ctx := n, all := w.testBit 11, vpn := bits w 56 12, dies := [0, 1, 2, 3], gen := (s.ctx n).gen + 1 }
          let z : Ctx := { s.ctx n with gen := (s.ctx n).gen + 1 }
          exec (.tlbi st k) s = .next (({ s with nextId := s.nextId + 1, shoots := s.shoots ++ [y], ctxs := FMap.set s.ctxs n z } : State).hold c.t c.gid)) ∧
        (∀ y, s.shoots.find? (fun y => y.team == c.t && y.grp == c.gid) = some y → y.dies = [] →
          exec (.tlbi st k) s = .next (({ s with shoots := s.shoots.filter (fun z => z.id != y.id) } : State).advance c.t c.gid (gap st)))))

/-- R87, R105, R127, R158, R251: RESULT_WRITEBACK writes an owed result once no earlier one to its register is owed, as an acquire where it is the token
of an engine operation (R120; that the acquire is made when the token is written is the model's reading, log 23), and the flags that come with it are set (R72); FENCE_COMPLETE completes the oldest fence once what it covers has performed, stores to non-coherent ranges flushed (R103); SCRATCH_PAGE_REFILL pins the page into a free frame, the lowest, which is the model's choice (R87 names none; log 39); WAITER_REEVALUATE lets every waiting group look again. -/
def Obligations.ResultEvents : Prop :=
  ∀ (s : State) (t : Nat) (tm : Team), s.team? t = some tm →
    (∀ i w x, tm.wbs[i]? = some w → w.val = some x → tm.stored = 0 → (∀ j o, j < i → tm.wbs[j]? = some o → o.reg = w.reg → o.tid ≠ w.tid) →
      exec (.resultWriteback t i) s = .next ((if w.obs = true ∧ tm.life ≠ .saved then s.acquire tm.core else s).updTeam t (fun tm => tm.writeWb s.clock w)) ∧
      (tm.writeWb s.clock w).kexc = tm.kexc ||| w.fl ∧
      (w.reg.isT = false → (∀ n, w.reg = .p n → n < 7) → (w.reg.isTeam = false → w.tid.getD 0 < tm.threads.length) →
        ∀ y, goodValue w.reg x y → (tm.writeWb s.clock w).reg (w.tid.getD 0) w.reg = y)) ∧
    (∀ tid f, (tm.thread tid).fences.find? (fun f => !f.done) = some f → (∀ id ∈ f.ops, ∀ o, s.op? id = some o → o.done = true) →
      (∀ w ∈ tm.wbs, w.val = none → w.id ∉ f.owed) → (∀ l ∈ tm.laters, l.id ∉ f.owed) → (f.cls % 2 = 1 → s.canRelease tm.core = true ∧ f.ncs = []) →
      exec (.fenceComplete t tid) s = .next ((if f.cls % 2 = 1 then s.release tm.core else s).updThread t tid (fun th =>
        { th with fences := th.fences.map (fun g => if g.seq = f.seq then { g with done := true } else g) }))) ∧
    (∀ page f, tm.active = true → page ∈ tm.refill → f < 128 → frameAt s tm.core f = none → (∀ g, g < f → frameAt s tm.core g ≠ none) →
      exec (.scratchPageRefill t page) s = .next ((s.updCore tm.core (fun k => k.take 1 (f * 4096) 4096)).updTeam t (fun tm => { tm with pinned := FMap.set tm.pinned page f, refill := tm.refill.filter (· != page) }))) ∧
    ∃ s' tm', exec (.waiterReevaluate t) s = .next s' ∧ s'.team? t = some tm' ∧ tm'.reeval = s.clock ∧ (∀ g ∈ tm'.groups, g.2.held = false) ∧
      tm'.threads = tm.threads ∧ SameOthers s s' t ∧ SameMachine s s'

/-- R35, R121, R235, R236, R240, R286, R292, R299, R394: the events of operations: the next part moves; an operation whose parts have all landed is finished, a matrix
operation acting on its unit (rows without a data error, R364), AZERO clearing its units; an SREAD looks at the candidates again (R321); bytes that nothing counted yet are counted first (R237); the oldest operation of a class retires once it is
done and its status is written; an ordered set is
added into its elements in index order, once the contributors' own words of its lines are home (R104), its destination read at that event, where R240
has it as it stands when the last contribution arrives, which is the model's reading (log 36); slots of a waiting SREL become free; failed parts park, are tried again, or are given up. -/
def Obligations.EngineEvents : Prop :=
  (∀ (s : State) (id : Nat) (o : Op), s.op? id = some o →
    (o.chunks ≠ [] → exec (.engineBytesLand id) s = .next (s.opNext id)) ∧
    (o.done = false → o.landed = true → s.matrixTurn id o = true → o.counts = true →
      exec (.engineComplete id) s = .next (s.updOp id (fun o => { o with chunks := Chunk.counting o.uncounted }))) ∧
    (o.done = false → o.landed = true → s.matrixTurn id o = true → o.counts = false →
      (∀ first n, o.kind = .azero first n → exec (.engineComplete id) s = .next
        ((s.updCore o.core (fun k => (List.range n).foldl (fun (k : CoreSt) i => k.clearUnit (first + i)) k)).finish id o)) ∧
      (∀ unit ival zi fin nel a bs m, o.kind = .mma unit ival zi fin nel a bs m → (∀ e ∈ s.ops, e.1 < id → e.2.core = o.core → e.2.done = true) →
        (zi = true ∨ ∀ h ∈ (s.core o.core).accBad, h / 256 ≠ unit) →
        let r := (s.core o.core).matmul unit ival zi fin a bs m
        exec (.engineComplete id) s = .next ((s.updCore o.core (fun _ => r.1)).finish id { o with flags := o.flags ||| r.2 })) ∧
      (o.kind = .ald ∨ o.kind = .copy → exec (.engineComplete id) s = .next (s.finish id o)) ∧
      (∀ sid cell cur ver res mx, o.kind = .sread sid cell cur ver res mx → exec (.engineComplete id) s = .next ((s.finish id o).lookAhead sid))) ∧
    (∀ c rest va, o.failed = c :: rest → s.unitFault o c = some va → s.queued o.team o.ctx < 64 → o.phase = .none →
      let page := va.toNat / 4096
      let unit := c :: rest.filter (fun d => touches o d page)
      ∃ s', exec (.faultUnitPark id) s = .next s' ∧
        FMap.get? s'.faults s.nextId = some { team := o.team, ctx := o.ctx, agent := .engine, op := id, va, chunks := unit } ∧
        (s'.op? id).map (fun o => (o.failed, o.parked)) = some (rest.filter (fun d => !touches o d page), o.parked + 1))) ∧
  (∀ (s : State) (t cls id : Nat) (o : Op), s.ops.find? (fun e => e.2.team == some t && e.2.cls == cls) = some (id, o) → o.done = true →
    (∀ tm, s.team? t = some tm → ∀ w ∈ tm.wbs, w.id ∉ o.wbs) → exec (.engineRetire t cls) s = .next ((({ s with ops := FMap.erase s.ops id } : State).updTeam t (fun tm =>
      { tm with cnt := FMap.set tm.cnt cls (FMap.getD tm.cnt cls 0 - 1) })).raiseMatrix t o.flags o.hdr o.tid)) ∧
  (∀ (s : State) (start n : Nat), (s.redSet start n).length = n → n ≠ 0 → (∀ e ∈ s.redSet start n, e.2.1.landed = true) →
    let l := s.redSet start n
    let ps := (setElems l).flatMap Prod.snd
    (∀ p ∈ ps, s.setWaits l p = false) →
    exec (.cpyredSetInstall start n) s = .next (l.foldl (fun s e => s.contributed ((l.head?.map Prod.fst).getD 0) e)
      ((setElems l).foldl (fun s w => s.setElem l w) (s.setPrep l ps))) ∧
    ∀ (s : State) (a at_ e0 e1 e2 e3 : Nat), (∀ i, i < 4 → s.poisoned (at_ + i) 1 = none) →
      s.setElem l (a, [(at_, e0), (at_ + 1, e1), (at_ + 2, e2), (at_ + 3, e3)]) =
        s.homeWriteN { pte := some e0, op := (l.head?.map Prod.fst).getD 0, ctx := (l.head?.map (fun e => e.2.1.ctx)).getD 0 } at_
          (natLe 4 (setSum l a (leNat ((List.range 4).flatMap (fun i => s.homeBytes (at_ + i) 1))))) 2) ∧
  (∀ (s : State) (rel : Nat) (r : SRel), FMap.get? s.rels rel = some r → ∃ s', exec (.slotRelease rel) s = .next s' ∧
    ∀ n, n < 16 → (((s.core r.core).slot n).state ≠ 2 → r.mask.testBit n = true → (s.core r.core).holds r.team n = true →
        (∀ w ∈ r.waits, w % 16 = n → ∀ tm, s.team? r.team = some tm → tm.waitsAt w = false) → ((s'.core r.core).slot n).state = 0) ∧
      (r.mask.testBit n = false ∨ ((s.core r.core).slot n).state = 2 ∨ (s.core r.core).holds r.team n = false → (s'.core r.core).slot n = (s.core r.core).slot n)) ∧
  (∀ (s : State) (fu : Nat) (u : FaultUnit), FMap.get? s.faults fu = some u → u.agent = .engine → ∀ o, s.op? u.op = some o → o.phase = .none → o.status = 0 → (∀ e a, o.kind ≠ .record e a) →
    (∃ s', exec (.faultReplay fu) s = .next s' ∧ s'.faults = FMap.erase s.faults fu ∧
      (s'.op? u.op).map (fun o => (o.chunks, o.parked)) = some (u.chunks ++ o.chunks, o.parked - 1)) ∧
    (∃ s', exec (.faultDeclareUnserviceable fu) s = .next s' ∧ s'.faults = FMap.erase s.faults fu ∧
      (s'.op? u.op).map (fun o => (o.chunks, o.parked, o.fault)) =
        some (Chunk.counting (u.chunks.foldl (fun n c => n + c.nom) 0) ++ o.chunks, o.parked - 1, true)))

/-- R27, R29, R33, R38, R339, R346, R348-R353, R382: the events of teams: what each one changes, where its conditions hold: placement of a saved team and of
a grid team, activation, parking, rotation, retirement, discarding, saving, and a die's pre-emption from its request to its completion. A team that
retires or is discarded waits for a commit of it under way (R141), a discarded one for its held accesses too, and its launch counts it or takes it back; one that is saved waits for its matrix operations and its core's stores.
R355, R380: when the last team of a launch has retired its command gets its status and the count of faulted teams, or its completion block is written
and takes an arrival.
R33: a grid team starts with every thread at the entry, its registers, windows, counters and flags 0, and the promotion interval of sr.promote.
These are the model's choices: that a placement that succeeds is tried again in the same clock (log 3); that retirement and a save release the core,
and that a save waits for that (log 44; R352 names the matrix operations); that DISCARD_REQUEUE settles the cell (log 43); that a rotation is one step (log 62). -/
def Obligations.TeamEvents : Prop :=
  (∀ (s : State) (die id : Nat) (tm : Team) (s1 : State), s.launches = [] → s.teams = [(id, tm)] → id < 2 ^ 64 → tm.dieOf = die → tm.life = .saved →
    (s.ctx tm.ctx).v = true → s.placeSaved id tm = some s1 →
    exec (.teamPlace die) s = .next { s1 with agenda := .teamPlace die :: s1.agenda }) ∧
  (∀ (s : State) (die id : Nat) (l : Machine.Launch) (s1 : State), s.teams = [] → s.launches = [(id, l)] → id < 2 ^ 64 → l.die = die → l.open = true →
    (s.ctx l.ctx).v = true → s.placeLaunch id l = some s1 → exec (.teamPlace die) s = .next { s1 with agenda := .teamPlace die :: s1.agenda }) ∧
  (∀ (s s' : State) (id cl q : Nat) (l : Machine.Launch), s.putGrid id l cl q = some s' → ∃ core tm, s.coreFor (clusterCores cl) l.ctx false l.tr = some core ∧
    s'.team? s.nextId = some tm ∧ tm.core = core ∧ tm.ctx = l.ctx ∧ tm.launch = some id ∧ tm.grid = l.coord q ∧ tm.tr = l.tr ∧ tm.life = .live ∧
    (∀ n, n < 64 → tm.kreg n = 0) ∧ tm.kf = 0 ∧ tm.kexc = 0 ∧ (∀ n, FMap.getD tm.cv n (0, 0) = (0, 0)) ∧ (∀ n, FMap.getD tm.aw n (0, 0) = (0, 0)) ∧
    (∀ n, FMap.getD tm.cnt n 0 = 0) ∧ tm.ival = (s.ctx l.ctx).sr.promote.toNat % 128 ∧ tm.wbs = [] ∧ tm.threads.length = l.tr.threads ∧
    (∀ core', core' ≠ core → s'.core core' = s.core core') ∧
    ∀ tid, tid < l.tr.threads → let th := tm.thread tid
      th.pc = l.tr.entry ∧ th.npc = l.tr.entry ∧ th.exited = false ∧ th.p = 0 ∧ th.xlo = 0 ∧ th.xhi = 0 ∧ th.epc = 0 ∧ th.ecause = 0 ∧ th.eva = 0 ∧
      th.hm = false ∧ th.rr = false ∧ ∀ n, tm.reg tid (.v n) = 0) ∧
  (∀ (s : State) (core t base : Nat) (tm : Team),
    longest s.clock ((s.waiting core).filter (fun e => s.coreOpen core e.2.ctx && (s.fitsActive core e.2.tr).isSome)) = some (t, tm) →
    s.fitsActive core tm.tr = some base → exec (.teamActivate core) s = .next (s.activate t base false)) ∧
  (∀ (s : State) (core t : Nat) (tm : Team), (∃ e ∈ s.waiting core, s.fitsActive core e.2.tr = none) →
    (∀ e ∈ s.waiting core, s.fitsActive core e.2.tr = none ∨ s.coreOpen core e.2.ctx = false) →
    eldest ((s.activeOn core).filter (fun e => (e.2.life == .live || e.2.life == .saving) && s.allWait e.1 e.2)) = some (t, tm) → exec (.teamPark core) s = .next (s.park t)) ∧
  (∀ (s : State) (core t : Nat) (tm : Team), (s.core core).held = false →
    longest s.clock ((s.parkedOn core).filter (fun e => (e.2.life == .live || e.2.life == .saving) && decide (0 < s.kindLimit core e.2.standing) && e.2.parkedReady &&
      e.2.readySince.any (fun c => decide (c + 125000 ≤ s.clock)))) = some (t, tm) → s.shareAllows core tm.standing = true →
    ∀ base, s.fitsActive core tm.tr = some base → exec (.rotation core) s = .next (s.activate t base true)) ∧
  (∀ (s : State) (t : Nat) (tm : Team), s.team? t = some tm →
    (tm.life = .live ∨ tm.life = .faulted → tm.live = [] → s.finished tm = true → s.canRelease tm.core = true → tm.applying = false →
      let s0 := ((((s.release tm.core).dropRegions t).settleCell tm true).tally tm).releaseTeam t
      exec (.teamRetire t) s = .next (match tm.launch with
        | none => s0
        | some l => s0.finishLaunch l)) ∧
    (tm.life = .discarding → (∀ c, c < 4 → FMap.getD tm.cnt c 0 = 0) → tm.laters = [] → tm.applying = false →
      (tm.launch = none → exec (.discardRequeue t) s = .next ((s.settleCell tm false).releaseTeam t)) ∧
      (∀ l, tm.launch = some l → let s0 := s.settleCell tm false
        exec (.discardRequeue t) s = .next (({ s0 with launches := FMap.upd s0.launches l (fun e =>
          { e with requeue := e.requeue ++ [e.index tm.grid] }) } : State).releaseTeam t))) ∧
    (tm.applying = true → exec (.teamRetire t) s = .next s ∧ exec (.discardRequeue t) s = .next s) ∧
    (∀ l x, tm.launch = some l → FMap.get? s.launches l = some x → (s.tally tm).launches = FMap.set s.launches l { x with
      retired := x.retired + 1, sumRet := x.sumRet + tm.ret, sumClk := x.sumClk + (s.clock - tm.placedAt), left := x.left - 1
      tfaults := if tm.life = .faulted then x.tfaults + 1 else x.tfaults }) ∧
    (tm.life = .saving → tm.live ≠ [] → s.mayWrite t tm = true →
      (FMap.getD tm.cnt 2 0 ≠ 0 ∨ s.canRelease tm.core = false ∨ (∃ th ∈ tm.threads, ∃ r, th.region = some r ∧ r.stage ≠ 0) →
        exec (.teamSave t) s = .next (s.updTeam t (fun tm => { tm with proceeds := true }))) ∧
      (FMap.getD tm.cnt 2 0 = 0 → s.canRelease tm.core = true → (∀ th ∈ tm.threads, ∀ r, th.region = some r → r.stage = 0) →
        let s0 := s.gather t tm
        (s0.saveError t = none →
          let s1 := (s0.storeArea t 1).updCore tm.core (fun c => { c.freeSlots t with full := false })
          exec (.teamSave t) s = .next ((s1.updTeam t (fun tm =>
            { tm with life := .saved, active := false, pinned := [], refill := [], rotated := false, proceeds := true })).updDie
            tm.dieOf (fun d => { d with pend := d.pend.filter (· != t), late := d.late || decide (d.goAt + d.reqDl < s1.clock) }))) ∧
        (∀ str pa, s0.saveError t = some (str, pa) → exec (.teamSave t) s = .next ((s0.contextMc tm.dieOf str tm.ctx pa).startDiscard t))))) ∧
  (∀ (s : State) (lid : Nat) (l : Machine.Launch), FMap.get? s.launches lid = some l →
    let status := if l.tfaults = 0 then 0 else 12
    let count := min l.tfaults (2 ^ 24 - 1)
    let x : Xlat := ⟨l.die, l.ctx, (s.ctx l.ctx).root.toNat, (s.ctx l.ctx).priv⟩
    (l.left ≠ 0 → s.finishLaunch lid = s) ∧
    (l.left = 0 → (∀ f ∈ s.faults, f.2.agent = .launch → f.2.op ≠ lid) →
      (∀ q, l.cmd = some q → s.finishLaunch lid = { s with
        cmds := FMap.upd s.cmds q (fun c => { c with stage := 3, status, count }), launches := FMap.erase s.launches lid }) ∧
      (l.cmd = none → l.block = 0 → s.finishLaunch lid = { s with launches := FMap.erase s.launches lid }) ∧
      (l.cmd = none → l.block ≠ 0 → ∀ s1 s2, s.deadWrite l.dead x (l.block + 16) (natLe 16 (status + count * 2 ^ 8)) = .ok s1 →
        s1.deadArrive l.dead x l.block = .ok s2 → s.finishLaunch lid = { s2 with launches := FMap.erase s2.launches lid }))) ∧
  (∀ (s : State) (die : Nat), ((s.die die).busy = true → exec (.preemptionRequest die) s = .next s) ∧
    ((s.die die).busy = false → ∃ s', exec (.preemptionRequest die) s = .next s' ∧ (s'.die die).busy = true ∧ (s'.die die).goAt = s.clock ∧
      (s'.die die).reqCtx = (s.die die).prqCtx.toNat ∧ (s'.die die).reqDl = (s.die die).prqDl.toNat ∧
      (∀ i, i < 192 → (s.die die).prqMask.getLsbD i = true → (s'.core (die * 192 + i)).held = true) ∧
      ∀ t tm, (t, tm) ∈ s.teams → tm.ctx = (s.die die).prqCtx.toNat → tm.core / 192 = die → (s.die die).prqMask.getLsbD (tm.core % 192) = true → tm.life ≠ .saved →
        t ∈ (s'.die die).pend) ∧
    ((s.die die).busy = true → (s.die die).pend = [] → exec (.preemptionComplete die) s = .next (((s.freeCores die).updDie die (fun d => { d with busy := false })).interrupt
      die 3 0 (s.die die).reqCtx 0)) ∧
    (∀ i, i < 192 → ((s.freeCores die).core (die * 192 + i)).held = false ∧ { (s.freeCores die).core (die * 192 + i) with held := (s.core (die * 192 + i)).held } = s.core (die * 192 + i)) ∧
    (∀ core, (∀ i, i < 192 → core ≠ die * 192 + i) → (s.freeCores die).core core = s.core core) ∧ { s.freeCores die with cores := s.cores } = s ∧
    ∃ s', exec (.prqLateClear die) s = .next s' ∧ (s'.die die).late = false ∧ ∀ d, d ≠ die → s'.die d = s.die d)

/-- R92, R94, R103, R104, R112: the events of D lines: a reader joins the sharers and receives the line; a writer's request sends invalidations to the other
sharers; a line that comes into a full cache takes the place of another (R1 gives the capacity; that no line leaves while fewer than 512 are held, and
that the one which leaves can be written back, is the model's choice: log 64); an invalidation drops the copy and is acknowledged; with the last acknowledgement the store performs (a machine check where it has no route, R387) and the writer alone is recorded; an eviction
takes a pointer away, and no more while an invalidation is pending; dirty S bytes go home, and so does an evicted line of another class. -/
def Obligations.LineEvents : Prop :=
  ∀ (s : State) (core line : Nat),
    let d := s.dent line
    (line ∈ (s.core core).dreads → d.writer = none → isMem (line * 128) = true → ∀ s1, s.makeRoom core line = some s1 → ∃ s', exec (.lineReadRequest core line) s = .next s' ∧ s'.dent line = d.join core ∧
      (∃ l, FMap.get? (s'.core core).lines line = some l ∧ l.coh = 1 ∧ l.excl = false ∧ l.nc = false ∧ ∀ i, i < 128 → FMap.get? l.cells i = some ((s1.homeBytes (line * 128) 128).getD i 0, false)) ∧
      line ∉ (s'.core core).dreads ∧ s'.mem = s1.mem) ∧
    ((s.core core).lines.length < 512 ∨ (FMap.get? (s.core core).lines line).isSome = true → s.makeRoom core line = some s) ∧
    (512 ≤ (s.core core).lines.length → FMap.get? (s.core core).lines line = none → ∀ s1, s.makeRoom core line = some s1 →
      ∃ other l, FMap.get? (s.core core).lines other = some l ∧ s.canWriteBack other l = true ∧ s1 = s.evict core other) ∧
    ((s.core core).busyD line = true → d.writer = none → ∃ s', exec (.exclusiveRequest core line) s = .next s' ∧
      s'.dent line = { d with writer := some core, pend := (d.targets core).length, acks := 0 } ∧
      (∀ k, k ∈ d.targets core → line ∈ (s'.core k).invs) ∧ (∀ k, k ∉ d.targets core → s'.core k = s.core k)) ∧
    (line ∈ (s.core core).invs → ∃ s', exec (.invalidation core line) s = .next s' ∧ s'.dent line = { d with acks := d.acks + 1 } ∧
      (s'.core core).invs = (s.core core).invs.erase line ∧ ∀ l, FMap.get? (s'.core core).lines line = some l → l.coh ≠ 1 ∨ l.nc = true) ∧
    (d.acks ≠ 0 → exec (.invalidationAck core line) s = .next (s.setDent line { d with acks := d.acks - 1, pend := d.pend - 1 })) ∧
    (∀ l, FMap.rising (s.core core).lines = true → FMap.get? (s.core core).lines line = some l → l.coh = 1 → l.nc = false → d.crs = false → s.canWriteBack line l = true → ∃ s', exec (.evictionNotice core line) s = .next s' ∧
      FMap.get? (s'.core core).lines line = none ∧ core ∉ (s'.dent line).ptrs ∧ (∀ k, k ≠ core → (k ∈ (s'.dent line).ptrs ↔ k ∈ d.ptrs)) ∧ (d.writer ≠ none → (s'.dent line).st = d.st)) ∧
    (∀ l, FMap.get? (s.core core).lines line = some l → l.coh ≠ 1 ∨ l.nc = true → s.canWriteBack line l = true →
      exec (.evictionNotice core line) s = .next (s.dropLine core line)) ∧
    (∀ pa pte ctx bs, (s.core core).dstores.find? (fun x => x.1 == line) = some (line, pa, pte, ctx, bs) → d.writer = some core → d.pend = 0 →
      s.needsGrant (some pte) pa true = false → s.sealedIn pa bs.length = false → ∀ s1, s.makeRoom core line = some s1 → ∃ s', exec (.exclusiveGrant core line) s = .next s' ∧
        s'.mem = ((s1.noRoute (core / 192) ctx pa).homeWrite { core := some core, keep := true, pte := some pte, ctx } pa bs).mem ∧ s'.dent line = { st := 2, ptrs := [core] } ∧
        (FMap.get? (s'.core core).lines line).map (fun l => l.excl) = some true) ∧
    (∀ l, FMap.get? (s.core core).lines line = some l → l.coh = 0 → l.nc = false → l.runs ≠ [] → s.canWriteBack line l = true →
      exec (.lineWriteback core line) s = .next (s.writeBack core line))

/-- R97, R98, R100: pages shared between packages: requests join the queue of the page's record and are served in order, with recalls before a grant; recalls
send dirty words home, once no seal holds them (R275); an answer, a release and a grant change who holds the page; a die acknowledges a shootdown once its accesses have performed.
That RECALL_ANSWER and HOLDER_GRANT also stand for the progress of the record's queue inside the package is the model's reading (log 47). -/
def Obligations.PageEvents : Prop :=
  (∀ (s : State) (pkg page : Nat), s.foreign (page * 4096) = false →
    let h := s.holder page
    (∀ w : Bool, exec (if w then .holderWriteRequest pkg page else .holderReadRequest pkg page) s =
      .next ((s.setHolder page { h with reqs := h.reqs ++ [(pkg, w)] }).serve page (h.reqs.length + 1))) ∧
    (pkg ∈ h.recalls → h.crs = false → (h.reqs.head?.map Prod.snd) = some true → exec (.recallAnswer pkg page) s =
      .next ((s.setHolder page { h with recalls := h.recalls.filter (· != pkg), ptrs := h.ptrs.filter (· != pkg) }).serve page (h.reqs.length + 1))) ∧
    (h.crs = false → ∃ s', exec (.holderRelease pkg page) s = .next s' ∧ pkg ∉ (s'.holder page).ptrs ∧ (∀ q, q ≠ pkg → (q ∈ (s'.holder page).ptrs ↔ q ∈ h.ptrs)) ∧
      s'.mem = s.mem) ∧
    (∀ excl, exec (.holderGrant page excl) s = .next (s.serve page (h.reqs.length + 1)))) ∧
  (∀ (s : State) (page : Nat) (ex : Bool), FMap.get? s.links.held page = some ex → s.collectReady page = true →
    let kept (drop : Bool) : List (Nat × Bool) := s.links.asked.filter (· != (page, drop))
    exec (.recallDowngrade page) s = .next { s.collectPage page false with
      links := { (s.collectPage page false).links with asked := kept false, held := FMap.set (s.collectPage page false).links.held page false } } ∧
    exec (.recallInvalidate page) s = .next { s.collectPage page true with
      links := { (s.collectPage page true).links with asked := kept true, held := FMap.erase (s.collectPage page true).links.held page } }) ∧
  (∀ (s : State) (page : Nat) (excl w : Bool), FMap.rising s.links.wants = true → s.foreign (page * 4096) = true → FMap.get? s.links.wants page = some w →
    ∃ s', exec (.holderGrant page excl) s = .next s' ∧ FMap.get? s'.links.held page = some (FMap.getD s.links.held page false || excl) ∧
      (FMap.get? s'.links.wants page = if excl || !w then none else some w) ∧ { s' with links := s.links } = s) ∧
  (∀ (s : State) (die id : Nat) (x : Shoot), s.shoots.find? (fun x => x.id == id) = some x → die ∈ x.dies → s.units.greqs = [] → s.units.crumbs = [] → s.holdsOld die x = false → s.latersOld die x = false →
    let cores := (s.cores.map Prod.fst).filter (fun c => c / 192 == die)
    (∀ c ∈ cores, (s.core c).lines = [] ∧ (s.core c).dstores = []) → s.shoots = [x] → ∃ s', exec (.tlbShootdownAck die id) s = .next s' ∧
      (∀ t ∈ (s'.die die).tlb, x.hits t = false) ∧ (∀ y ∈ s'.shoots, y.dies = x.dies.filter (· != die)))

/-- R271-R276: the slices' side of regions: a request whose page is granted (R98) and that meets no seal, error or strict conflict, and behind which no earlier access of its thread is
still to be made (R104, R393), takes its bytes and narrows, the slice keeping of the bounds that the request carries and those it has sent the larger
lower and the smaller upper one, which is the model's reading (log 65: R272 says last carried or last sent); a narrowing reaches its region; a closing
region seals granule by granule and chooses the lowest position left; the position reaches each granule, and then the region ends, as an acquire (R138). -/
def Obligations.RegionEvents : Prop :=
  (∀ (s : State) (q : GReq) (tm : Team) (r : Region), s.units.greqs = [q] → s.team? (q.region / 1024) = some tm → s.regionAt q.region = some r →
    (s.gran q.gran).sealed = none → tm.earlier [q.region % 1024] q.id = false → (s.core tm.core).busyD (q.pa / 128) = false → s.prepWaits tm.core q.pa q.n = false →
    s.needsGrant (some q.pte) q.pa q.write = false → (q.write = false → q.own.length ≠ q.n → s.poisoned q.pa q.n = none) →
    let s0 := ({ s with units := { s.units with greqs := [] } } : State).homePrep tm.core q.pa q.n
    let gr := s0.gran q.gran
    s0.strictConflict gr q.region q.write = false →
    let s1 := (s0.setGran q.gran { gr with recs := FMap.set gr.recs q.region (max (gr.bound q.region).1 q.lo, min (gr.bound q.region).2 q.hi) }).narrowFor
      q.gran q.region q.write
    let v := leNat ((List.range q.n).map (fun i => FMap.getD q.own (q.pa + i) (((s1.homeBytes q.pa q.n)[i]?).getD 0)))
    exec (.granuleRequest q.id) s = .next (q.wbs.foldl (fun (s : State) id => s.answer (q.region / 1024) id
      (fun i => BitVec.ofNat 64 (v / 2 ^ (32 * i) % 2 ^ 32))) s1)) ∧
  (∀ (s : State) (m : NMsg) (tm : Team), s.units.nmsgs = [m] → s.team? (m.region / 1024) = some tm → m.region % 1024 < tm.threads.length →
    (∃ r, (tm.thread (m.region % 1024)).region = some r ∧ r.stage ≠ 2) → 0 ≤ m.val → m.val < 2 ^ 63 → ∃ s' tm', exec (.narrowing m.id) s = .next s' ∧ s'.units.nmsgs = [] ∧
      s'.team? (m.region / 1024) = some tm' ∧
      let th := tm.thread (m.region % 1024)
      let th' := tm'.thread (m.region % 1024)
      (m.isLo = true → th'.xlo.toNat = max th.xlo.toNat m.val.toNat ∧ th'.xhi = th.xhi) ∧ (m.isLo = false → th'.xlo = th.xlo ∧ th'.xhi.toNat = min th.xhi.toNat m.val.toNat)) ∧
  (∀ (s : State) (t tid : Nat) (tm : Team) (r : Region), s.team? t = some tm → (tm.thread tid).region = some r → r.stage = 1 →
    (∀ q ∈ s.units.greqs, q.region ≠ t * 1024 + tid) →
    (r.late = true → tm.earlier [tid] ((r.xe.map Prod.fst).getD 0) = false → s.canRelease tm.core = true → exec (.seal t tid) s =
      .next ((s.release tm.core).updRegion t tid (fun r => { r with late := false }))) ∧
    (r.late = false → ∀ g rest, r.toSeal = g :: rest → (∀ y, (s.gran g).sealed = some y → y = t * 1024 + tid) →
      let gr := s.gran g
      let lo := if r.writeSet.contains g then max (gr.bound (t * 1024 + tid)).1 (max gr.wpos (gr.rpos + 1)) else (gr.bound (t * 1024 + tid)).1
      exec (.seal t tid) s = .next ((s.setGran g { gr with sealed := some (t * 1024 + tid) }).updRegion t tid (fun r =>
        { r with toSeal := rest, sealed := r.sealed ++ [g], lo := max r.lo lo, hi := min r.hi (gr.bound (t * 1024 + tid)).2 }))) ∧
    (r.late = false → r.toSeal = [] →
      let lo := max (tm.thread tid).xlo.toNat r.lo
      let hi := min (tm.thread tid).xhi.toNat r.hi
      let s0 := (s.updThread t tid (fun th => { th with xlo := BitVec.ofNat 64 lo, xhi := BitVec.ofNat 64 hi })).imageRegion t tid none
      exec (.seal t tid) s = .next (if hi < lo then s0.abortRegion t tid 1 0 else s0.updRegion t tid (fun r => { r with stage := 2 })))) ∧
  (∀ (s : State) (t tid : Nat) (tm : Team) (r : Region), s.team? t = some tm → (tm.thread tid).region = some r → r.stage = 2 →
    let p := (tm.thread tid).xlo.toNat
    (∀ g rest, r.sealed = g :: rest → (r.writeSet.contains g = true → s.needsGrant (FMap.get? r.ptes g) (g * 32) true = false) →
      exec (.commitApply t tid) s = .next ((s.applyAt (t * 1024 + tid) r tm.core tm.ctx g p).updRegion t tid (fun r => { r with sealed := rest }))) ∧
    (r.sealed = [] → let s0 := s.acquire tm.core
      exec (.commitApply t tid) s = .next ((({ s0 with ordClock := max s0.ordClock (p + 1) } : State).updTeam t (fun tm =>
      (tm.settle tid (some p)).updThread tid (fun th => { th with region := th.region.map (fun r => { r with xe := none }) }))).dropRegion t tid)))

/-- R315, R318-R324, R327, R329, R336: the events of standing sets: the oldest raise is absorbed; a slot goes as the weights say; a quiet set's records and its
quiescence record are written, the phase object and the vector signalled, and what waits or is parked goes on later with the same record (R394); a stopped set ends.
R313, R321: a cell that enters the first L candidates has its two prefetch regions read, once; an entry in which either has a nonzero bit where R313
asks for zeros is treated as empty.
The model's readings: that the record's count of faulted cells is 2^24 - 1 when it does not fit, and which cell a class of weight 0 is given (log 66);
that rseq is written at the stop only, and that a write to a page that is dead is dropped until the present work ends (log 42).
R318, R320: a dispatch makes the cell running on the core chosen, with what it had to commit kept as disp, and a new team of its set stands there. -/
def Obligations.SetEvents : Prop :=
  (∀ (s : State) (sid : Nat) (e : Machine.SSet), FMap.get? s.sets sid = some e → s.setHeld sid = false →
     (∀ r rest, e.raises = r :: rest → e.out = none ∨ e.dead = [] →
       (e.queues r = false → exec (.raiseAbsorb sid) s =
         .next (({ s with sets := FMap.set s.sets sid { e.absorb r [] with raises := rest, dead := e.dead } } : State).lookAhead sid)) ∧
       (e.queues r = true → ∀ tags, s.tagsOf (s.setXlat e) e r.cell = .ok tags →
         let s0 := s.sawTags (s.setXlat e) e r.cell
         exec (.raiseAbsorb sid) s = .next (({ s0 with sets := FMap.set s0.sets sid { e.absorb r tags with raises := rest, dead := [] } } : State).lookAhead sid))) ∧
     (∀ die s1, let s0 := s.fwTake die
       let classes := sortNat (dedup ((s0.openSets.filter (fun e => !(e.2.eligible die).isEmpty)).map (fun e => e.2.cls)))
       s0.slotTry die ((s0.die die).w.map (fun e => (e.1, (e.2 : Int)))) classes.length classes = some s1 → exec (.dispatchSlot die) s = .next s1) ∧
     (∀ l, e.out = some l → exec (.quiescenceRecord sid) s = .next (s.signalSet sid e l)) ∧
     (e.out = none → e.due = true → e.quiet = true → e.stopping = false →
       let g := e.rgen + 1
       let record := g + e.aseq * 2 ^ 64 + e.ncommit * 2 ^ 128 + e.maxRes * 2 ^ 192 + sid * 2 ^ 224 + min e.nfault (2 ^ 24 - 1) * 2 ^ 232 + s.timeNs % 2 ^ 64 * 2 ^ 256
       let e' : Machine.SSet := { e with due := false, rgen := g, ncommit := 0 }
       let fin (s : State) : State :=
         let s := s.updSet sid (fun e => { e with out := none, dead := [] })
         if e.vector = 0 then s else s.interrupt e.die 1 e.vector e.ctx sid
       ∀ s1, (s.updSet sid (fun _ => e')).setWrites sid e' (e.image false ++ [(e.qrec, natLe 64 record), (e.va + 192, natLe 8 g)]) = .ok s1 →
         (e.phase = 0 → exec (.quiescenceRecord sid) s = .next (fin s1)) ∧
         (e.phase ≠ 0 → let s2 := s1.updSet sid (fun e => { e with out := some [] })
           ∀ s3, s2.deadArrive e.dead (s2.setXlat e') e.phase = .ok s3 → exec (.quiescenceRecord sid) s = .next (fin s3))) ∧
     (e.stopping = true → e.out = none → e.raises = [] → (∀ c ∈ e.cells, c.2.state ≠ 2 ∧ c.2.pina = 0 ∧ c.2.pinb = 0) →
       ∀ s1, s.setWrites sid e (e.image true ++ [(e.va + 184, natLe 8 e.rseq), (e.va + 177, [0])]) = .ok s1 →
         ∃ s', exec (.sstopComplete sid) s = .next s' ∧ s'.sets = FMap.erase s1.sets sid ∧ s'.mem = s1.mem)) ∧
  (∀ (s s' : State) (die sid cell : Nat) (e : Machine.SSet) (c : Cell), FMap.get? s.sets sid = some e → s.dispatch die sid e cell c = some s' →
     ∃ core e' tm, s.standCore e die c = some core ∧ FMap.get? s'.sets sid = some e' ∧
       e'.cell cell = Cell.norm { c with disp := c.res, res := 0, inacc := 0, state := 2, lastc := core, lastv := true } ∧
       (∀ d, d ≠ cell → e'.cell d = e.cell d) ∧ s'.team? s.nextId = some tm ∧ tm.core = core ∧ tm.ctx = e.ctx ∧ tm.cell = some (sid, cell) ∧ tm.tr = e.tr) ∧
  (∀ (s : State) (sid c : Nat) (e : Machine.SSet) (bs : List Byte), FMap.get? s.sets sid = some e → e.look ≠ 0 → e.pref ≠ 0 → e.stopping = false →
     [0, 1, 2, 3].flatMap e.firsts = [c] → e.toRead = [] →
     (c ∈ e.front → s.lookAhead sid = { s with sets := FMap.upd s.sets sid (fun e => { e with front := [c], toRead := [] }) }) ∧
     (c ∉ e.front → s.vget (s.setXlat e) (e.pref + BitVec.ofNat 64 (32 * c)) 32 = .ok bs →
       let w := leNat bs
       let s0 := s.vroute (s.setXlat e) (e.pref + BitVec.ofNat 64 (32 * c)) 32
       let s1 := if w / 2 ^ 96 % 2 ^ 32 ≠ 0 ∨ w / 2 ^ 224 % 2 ^ 32 ≠ 0 then s0
         else (s0.prefetchRange (s.setXlat e) (BitVec.ofNat 64 (w % 2 ^ 64)) (w / 2 ^ 64 % 2 ^ 32)).prefetchRange (s.setXlat e)
           (BitVec.ofNat 64 (w / 2 ^ 128 % 2 ^ 64)) (w / 2 ^ 192 % 2 ^ 32)
       s.lookAhead sid = { s1 with sets := FMap.upd s1.sets sid (fun e => { e with front := [c], toRead := [] }) }))

/-- R377-R381, R394: the events of queues: a doorbell takes a greater write pointer of an enabled queue; a replica goes; the running kernel fetches the next entry; each command begins
with its operation and ends with its status, its completion, which takes an arrival where it names a phase object (R380), and rp; suspension is cleared. That
WAIT raises the machine check of a page without a route once, at its first look, is the model's reading (log 53). -/
def Obligations.QueueEvents : Prop :=
  (∀ (s : State) (q : Nat) (wp : BitVec 64), s.units.late = [] →
    let ok : Prop := q < 1024 ∧ s.qRlogOk q = true ∧ s.qfield q 74 74 = 0 ∧ s.qfield q 75 75 = 1 ∧ s.qfield q 191 128 ≤ wp.toNat ∧
      wp.toNat - s.qfield q 255 192 ≤ 2 ^ s.qfield q 68 64
    (ok → exec (.doorbell q wp) s = .next (s.qUpdate q 128 64 wp.toNat)) ∧ (¬ ok → exec (.doorbell q wp) s = .next s)) ∧
  (∀ (s : State) (die q : Nat), FMap.rising (s.die die).replicas = true → ∃ s', exec (.replicaInvalidate die q) s = .next s' ∧
    FMap.get? (s'.die die).replicas q = none ∧ (∀ d, d ≠ die → s'.die d = s.die d) ∧
    (q < 1024 → exec (.queueSuspendClear q) s = .next (s.qUpdate q 76 1 0))) ∧
  (∀ (s : State) (q : Nat) (bs : List Byte), s.boot.state = 2 → q < 1024 → s.qfield q 75 75 = 1 → s.qfield q 76 76 = 0 → s.qRlogOk q = true → s.qfield q 255 192 < s.qfield q 191 128 →
    (s.ctx (s.queueXlat q).ctx).v = true → FMap.get? s.cmds q = none →
    let va : DWord := BitVec.ofNat 64 (s.qfield q 63 0 + 64 * (s.qfield q 255 192 % 2 ^ s.qfield q 68 64))
    s.vget (s.queueXlat q) va 64 = .ok bs →
    let c : Cmd := { bytes := bs, entry := va }
    exec (.queueFetch q) s = .next (({ s with cmds := FMap.set s.cmds q (if c.badop then { c with stage := 3, status := 13 } else c) } : State).vroute
      (s.queueXlat q) va 64)) ∧
  (∀ (s : State) (q : Nat) (c : Cmd), FMap.get? s.cmds q = some c → s.cmdHeld q = false →
    let x := s.queueXlat q
    (c.stage = 1 →
      (c.num 0 1 = 1 →
        let a : Ask := { rec_ := c.va 16, ext := (c.num 24 2, c.num 26 2, c.num 28 2), curve := c.num 30 1 % 4, cohort := c.num 31 1, prio := s.qfield q 73 72, table := c.va 32,
                         cmd := some q }
        ∀ s1 v, s.opLaunch x a = .done s1 v → exec (.launch q) s = .next (if nth v 1 = 0 then s1.cmdRun q none else s1.cmdEnd q (nth v 1))) ∧
      (c.num 0 1 = 2 → ∀ s1 v, s.opStart x (c.va 16) c.dead = .done s1 v → exec (.startSet q) s = .next (s1.cmdEnd q (nth v 0 / 2 ^ 32))) ∧
      (c.num 0 1 = 3 → ∀ s1 v, s.opStop x (c.va 16) none (some q) = .done s1 v →
        exec (.stopSet q) s = .next (match v with | [] => s1.cmdRun q none | w :: _ => s1.cmdEnd q (w / 2 ^ 32))) ∧
      (c.num 0 1 = 4 → ∀ s1 v, s.opRaise x (c.va 16) (c.num 24 3) (c.num 28 4) = .done s1 v → exec (.raise q) s = .next (s1.cmdEnd q (nth v 1))) ∧
      (c.num 0 1 = 5 → ∃ o : Op, o.team = none ∧ o.ctx = x.ctx ∧
        o.kind = .record .cpy [c.va 16, c.va 24, c.va 32, c.va 40, c.va 48, BitVec.ofNat 64 (c.num 56 4)] ∧
        exec (.copy q) s = .next ((s.addOp o).2.cmdRun q (some s.nextId))) ∧
      (c.num 0 1 = 6 → (c.va 16).toNat % 16 = 0 → ∀ s1, s.arriveAt x (c.va 16) = .ok s1 → exec (.signal q) s = .next (s1.cmdEnd q 0)) ∧
      (c.num 0 1 = 7 → (c.va 16).toNat % 16 = 0 → ∀ e, s.xlate x false (c.va 16) .rmw = .ok e → s.needsGrant (some e) (paOf e (c.va 16)) false = false →
        let s0 := if c.seen then s else ({ s with cmds := FMap.upd s.cmds q (fun c => { c with seen := true }) } : State).noRoute x.die x.ctx (paOf e (c.va 16))
        s0.poisoned (paOf e (c.va 16)) 16 = none → exec (.wait q) s = .next (if (Phase.ofNat (s0.phGet (.mem (paOf e (c.va 16)) e))).past (c.num 24 2) = true then s0.cmdEnd q 0 else s0))) ∧
    (c.stage = 3 → ∀ s1, s.deadWrite c.dead x (c.entry + 4) (natLe 4 (c.status + c.count * 2 ^ 8)) = .ok s1 →
      let ends (s : State) : State := { s.qUpdate q 192 64 (s.qfield q 255 192 + 1) with cmds := FMap.erase (s.qUpdate q 192 64 (s.qfield q 255 192 + 1)).cmds q }
      (c.va 8 = 0 → exec (.commandComplete q) s = .next (ends s1)) ∧
      (c.va 8 ≠ 0 → ∀ s2, s1.deadArrive c.dead x (c.va 8) = .ok s2 → exec (.commandComplete q) s = .next (ends s2))))

/-- R326, R345, R372, R373, R375, R382, R383: the events of registers: a context is loaded, from a record without a data error: its validity, privilege and root,
and each system register as an SWR of the record's value leaves it; weights that sum to 256 are to be applied, others are bad; reports, rings and lost
counts are acknowledged; a base register takes its value with its low bits clear. That an apply that finds the sum 256 leaves an earlier bad bit set, and
that writing 1 alone clears it, is the model's reading (log 66): R326 has the bit speak of the last apply. -/
def Obligations.RegisterEvents : Prop :=
  ∀ (s : State) (n die : Nat) (v : BitVec 64) (w : BitVec 32),
    (n < 2048 → (∀ e ∈ s.links.poison, ¬ (s.local (s.mmio.ctbase.toNat + 512 * n) / 64 ≤ e.1 ∧ e.1 * 64 < s.local (s.mmio.ctbase.toNat + 512 * n) + 512)) →
      ∃ s', exec (.ctload n) s = .next s' ∧
      let a := s.local (s.mmio.ctbase.toNat + 512 * n)
      (s'.ctx n).v = (BitVec.ofNat 64 (s.mem.num a 8)).getLsbD 0 ∧ (s'.ctx n).priv = (BitVec.ofNat 64 (s.mem.num a 8)).getLsbD 1 ∧
      (s'.ctx n).root = BitVec.ofNat 64 (bits (BitVec.ofNat 64 (s.mem.num (a + 8) 8)).toNat 55 21 * 2 ^ 21) ∧ (s'.ctx n).gen = (s.ctx n).gen ∧
      (∀ r o, ((r, o) ∈ [(0, 0x10), (1, 0x18), (2, 0x20), (3, 0x28), (4, 0x30), (5, 0x38), (6, 0x40), (8, 0x48), (9, 0x50)] ∨
          (∃ i, i < 16 ∧ ((r, o) = (0x10 + i, 0x100 + 8 * i) ∨ (r, o) = (0x20 + i, 0x180 + 8 * i)))) →
        (s'.ctx n).sr.read s.ordClock r = ((s.ctx n).sr.write r (BitVec.ofNat 64 (s.mem.num (a + o) 8))).read s.ordClock r) ∧
      { s' with ctxs := s.ctxs } = s ∧ ∀ m, m ≠ n → s'.ctx m = s.ctx m) ∧
    (let sum := (s.mmio.fw.map Prod.snd).sum
     (sum = 256 → ∃ s', exec .fwctlApply s = .next s' ∧ { s' with dies := s.dies } = s ∧ ∀ d, s'.die d = if d < 4 then { s.die d with wNext := some s.mmio.fw } else s.die d) ∧
     (sum ≠ 256 → exec .fwctlApply s = .next { s with mmio := { s.mmio with bad := true } })) ∧
    exec .fwctlBadClear s = .next { s with mmio := { s.mmio with bad := false } } ∧
    exec .mcrAck s = .next { s with mmio := { s.mmio with mcr := s.mmio.mcr.drop 1 } } ∧
    (∃ s', exec (.irqRpWrite die w) s = .next s' ∧ (s'.die die) = { s.die die with irqRp := w } ∧ ∀ d, d ≠ die → s'.die d = s.die d) ∧
    (∃ s', exec (.irqLostClear die) s = .next s' ∧ (s'.die die) = { s.die die with irqLost := 0 } ∧ ∀ d, d ≠ die → s'.die d = s.die d) ∧
    exec (.registerWrite 0x20000 v) s = .next { s with mmio := { s.mmio with qtbase := BitVec.ofNat 64 (v.toNat / 128 * 128) } } ∧
    exec (.registerWrite 0x20008 v) s = .next { s with mmio := { s.mmio with ctbase := BitVec.ofNat 64 (v.toNat / 512 * 512) } } ∧
    exec (.registerWrite 0x500000 v) s = .next { s with mmio := { s.mmio with tdbase := BitVec.ofNat 64 (v.toNat / 2 ^ 31 * 2 ^ 31) } } ∧
    (∀ core, core < 768 → exec (.registerWrite (0x200000 + 4 * core) v) s = .next (s.updCore core (fun c =>
      { c with share := BitVec.ofNat 32 (min (v.toNat % 32) 16 + min (v.toNat / 256 % 32) 16 * 256) })))

/-- R6, R384-R386: reset, boot and attestation: a reset gives everything its reset value but memory with its data errors, the agenda, the clock, the
model's counters, and of the links the package's id, whether it is a spare, and its pools, and starts the ROM; the entries of the tile directory, backed
in the 2 GiB from the tdbase that was in force and in those from the tdbase of 0 that the reset leaves (log 8), read 0 (R302, R374); what a reset keeps
is the model's reading (log 24); the ROM tries SPI flash, then NVMe, then waits in recovery; a recovery image is read on request; a report is made on request
over nonce, digest, rollback counter and part number. What the images hold and the signature are free values (log 33); that the reason of the second of two failed sources stands is the model's reading
(log 51). -/
def Obligations.BootEvents : Prop :=
  ∀ (s : State) (v : BitVec 64),
    (∃ s', exec .deviceReset s = .next s' ∧
      (s.mem.wf = true → ∀ b, s'.mem.byte b = if (s.local s.mmio.tdbase.toNat ≤ b ∧ b < s.local s.mmio.tdbase.toNat + 2 ^ 31) ∨
        (s.local 0 ≤ b ∧ b < s.local 0 + 2 ^ 31) then 0 else s.mem.byte b) ∧ s'.boot = { State.reset.boot with state := 1 } ∧
      s'.links = { State.reset.links with pkg := s.links.pkg, spare := s.links.spare, pool := s.links.pool, poison := s.links.poison } ∧
      s'.agenda = s.agenda ∧ s'.clock = s.clock ∧
      { s' with mem := [], links := {}, boot := {}, agenda := [], clock := 0, freeCtr := 0, nextId := 1 } = State.reset) ∧
    (s.boot.state = 1 →
      (s.verdict 1 = 0 → exec .bootImageVerified s = .next (s.start 1)) ∧
      (s.verdict 1 ≠ 0 → s.verdict 2 = 0 → exec .bootImageVerified s = .next (({ s with boot := { s.boot with reason := s.verdict 1 } } : State).start 2)) ∧
      (s.verdict 1 ≠ 0 → s.verdict 2 ≠ 0 → ∃ s', exec .bootImageVerified s = .next s' ∧ s'.boot.state = 3 ∧ s'.boot.source = 2 ∧ s'.boot.reason = s.verdict 2)) ∧
    (exec (.rwgo v) s = .next (if v.getLsbD 0 = true ∧ s.boot.state = 3 then { s with boot := { s.boot with state := 4 } } else s)) ∧
    (s.boot.state = 4 → (s.verdict 3 = 0 → exec .recoveryImageVerified s = .next (s.start 3)) ∧
      (s.verdict 3 ≠ 0 → ∃ s', exec .recoveryImageVerified s = .next s' ∧ s'.boot.state = 3 ∧ s'.boot.source = 3 ∧ s'.boot.reason = s.verdict 3)) ∧
    (exec (.atgo v) s = .next (if v.getLsbD 0 = true ∧ s.boot.busy = false then { s with boot := { s.boot with busy := true } } else s)) ∧
    (s.boot.busy = true → ∃ s', exec .attestReportReady s = .next s' ∧ s'.boot.busy = false ∧ s'.boot.ready = true ∧
      s'.boot.report.setWidth 896 = s.boot.statement ∧ s'.boot.report.extractLsb' 896 912 = Config.ed448Sign s.boot.statement ∧ { s' with boot := s.boot } = s)

/-- R80, R373, R379, R387-R391: the events of links, host, control cores and sensors: a flit that arrives whole stores its bytes, one that does not is sent
again; the host stores bytes where it reaches, page by page, the control cores anywhere but in too few bytes of a window; a failed package's routes and pages are lost, those of the others stay, it leaves the records of pages that are homed here, whose queues go on, and
nothing else changes; a throttled cluster is marked until its throttling
ends. Retries, retunings and life records are counted, and whether a flit raises watches is a free value, which are the model's choices (log 10), as is
what a narrow store at a window does (log 54). -/
def Obligations.PackageEvents : Prop :=
  ∀ (s : State) (pa w cluster pkg : Nat) (data : List Byte) (v : BitVec 64),
    (isMem pa = true → s.sealedIn pa data.length = false) → (∃ watch : Bool,
      exec (.flitReceive true pa data) s = .next (({ s with freeCtr := s.freeCtr + 1 } : State).homeWriteN { watch } pa data (data.length / 128 + 2))) ∧
    exec (.flitReceive false pa data) s = .next { s with links := { s.links with retries := s.links.retries + 1 } } ∧
    (data ≠ [] → pa % 4096 + data.length ≤ 4096 →
      (hostReaches pa = true → performs s pa data.length → exec (.hostWrite pa data) s = .next (s.homeWriteN { watch := false } pa data (data.length / 128 + 2))) ∧
      (hostReaches pa = false → exec (.hostWrite pa data) s = .next s)) ∧
    (∀ (first rest : List Byte) (s1 : State), pa % 4096 + first.length = 4096 → exec (.hostWrite pa first) s = .next s1 →
      exec (.hostWrite pa (first ++ rest)) s = exec (.hostWrite (pa + first.length) rest) s1) ∧
    (narrowWindow pa (min (2 ^ w) 8) = false → performs s pa (min (2 ^ w) 8) → exec (.controlCoreAccess true pa w v) s =
      .next (s.homeWriteN { watch := false } pa (natLe (min (2 ^ w) 8) v.toNat) (min (2 ^ w) 8 / 128 + 2))) ∧
    (narrowWindow pa (min (2 ^ w) 8) = true → exec (.controlCoreAccess true pa w v) s = .next s) ∧
    exec (.controlCoreAccess false pa w v) s = .next s ∧
    (s.links.holders = [] → ∃ s', exec (.packageFailure pkg) s = .next s' ∧ (∀ p, p ∈ s'.links.routes ↔ p ∈ s.links.routes ∧ p ≠ pkg) ∧
      (∀ p, p ∈ s'.links.failed ↔ p ∈ s.links.failed ∨ p = pkg) ∧ (∀ p e, (p, e) ∈ s'.links.held ↔ (p, e) ∈ s.links.held ∧ paPkg (p * 4096) ≠ pkg) ∧
      (∀ p w, (p, w) ∈ s'.links.wants ↔ (p, w) ∈ s.links.wants ∧ paPkg (p * 4096) ≠ pkg) ∧
      { s' with links := s.links } = s ∧
      { s'.links with routes := s.links.routes, failed := s.links.failed, held := s.links.held, wants := s.links.wants } = s.links) ∧
    (∃ s0 : State, (∀ (page : Nat) (h : Holder), FMap.get? s.links.holders page = some h → ∃ h' : Holder, FMap.get? s0.links.holders page = some h' ∧ pkg ∉ h'.ptrs ∧ pkg ∉ h'.recalls ∧
        (∀ q, q ≠ pkg → (q ∈ h'.ptrs ↔ q ∈ h.ptrs) ∧ (q ∈ h'.recalls ↔ q ∈ h.recalls)) ∧ h'.reqs = h.reqs.filter (fun r => r.1 != pkg)) ∧
      { s0 with links := s.links } = s ∧
      exec (.packageFailure pkg) s = .next (s0.links.holders.foldl (fun s e => s.serve e.1 (e.2.reqs.length + 1)) s0)) ∧
    (∃ s', exec (.thermalThrottle cluster) s = .next s' ∧ cluster ∈ s'.links.throttled ∧ (∀ c, c ≠ cluster → (c ∈ s'.links.throttled ↔ c ∈ s.links.throttled))) ∧
    (∃ s', exec (.throttleEnd cluster) s = .next s' ∧ cluster ∉ s'.links.throttled ∧ (∀ c, c ≠ cluster → (c ∈ s'.links.throttled ↔ c ∈ s.links.throttled))) ∧
    exec .controlLoopRetune s = .next { s with links := { s.links with retunes := s.links.retunes + 1 } } ∧
    exec .lifeRecordUpdate s = .next { s with links := { s.links with lifeRecords := s.links.lifeRecords + 1 } }

/-- R143-R160, R162-R168: decoding what is encoded gives back every well-formed instruction, with every operand at every value its encoding admits, and leaves
what follows. -/
def Obligations.DecodeEncode : Prop :=
  ∀ (i : Instr) (bs rest : List Byte), i.wf = true → encodeBytes i = some bs → decode (bs ++ rest) = .ok (i, rest)

/-- R168: what the decoder gives is a well-formed instruction; a run header and a trailer are judged where they stand (R152, R154). -/
def Obligations.DecodeWellFormed : Prop :=
  ∀ (bs rest : List Byte) (i : Instr), decode bs = .ok (i, rest) →
    i.wf = true ∨ (∃ len trl pred sense chk, i = .runh len trl pred sense chk) ∨ ∃ c0 c1 c2 cnt, i = .runt c0 c1 c2 cnt

/-- R144, R146-R149, R162, R173-R175: words written out bit by bit from the formats decode to the instructions they stand for. -/
def Obligations.DecodeWords : Prop :=
  wordInstr 0b00000110000010000010000110111101#32 = some (.ffma 3 0 4 2 3) ∧
  wordInstr 0b00001110010000000100100001011011#32 = some (.atomg 0 0 9 16 7 0) ∧
  wordInstr 0b0000100000100010 = some (.iadd16 1 2)

/-- R192, R370: a step with an empty agenda executes the next instruction of the group that is chosen: the one its word decodes to.
R17, R152, R347: where the threads chosen stand at a run header, the header executes for the new group.
That an event of the agenda executes before any issue is the model's choice (log 3). -/
def Obligations.StepRunsDecoded : Prop :=
  (∀ (s : State) (core t gid : Nat) (tm : Team) (g : Group) (w : BitVec 32) (i : Instr), s.agenda = [] → s.choose = some (core, .go t gid) →
     s.team? t = some tm → FMap.get? tm.groups gid = some g → g.body[g.idx]? = some w → wordInstr w = some i →
     step s = exec i { s with cursor := max s.cursor (2 * core), cur := some (t, gid) }) ∧
  ((∀ (s : State) (core t : Nat) (tids : List Nat) (tm : Team) (w : BitVec 32) (i : Instr), s.agenda = [] → s.choose = some (core, .form t tids) →
     s.team? t = some tm → let th := tm.thread (tids.headD 0)
     th.mid = none → th.pc.getLsbD 0 = false → s.fetchWord tm.xlat th.pc = .ok w → reached s tm.xlat th.pc → isHeader w = true → wordInstr w = some i →
     let g : Group := { tids, hdr := th.pc, next := th.pc, body := [], trl := none, chk := false, due := s.clock }
     step s = exec i (({ s with cursor := max s.cursor (2 * core), cur := some (t, tm.nextGroup) } : State).updTeam t (fun tm =>
       { tm with groups := FMap.set tm.groups tm.nextGroup g, nextGroup := tm.nextGroup + 1 }))) ∧
   (∀ (s : State) (e : Instr) (rest : List Instr), s.agenda = e :: rest → step s = exec e { s with agenda := rest }))

/-- Every step that does not stop keeps memory in its canonical form, which is that of a list whose unlisted bytes read 0 (log 1). -/
def Obligations.StepKeepsInv : Prop :=
  ∀ s s' : State, s.Inv → step s = .next s' → s'.Inv

/-- Memory reads what was written last: a store of n bytes is read back, and every byte outside them reads as before (R1, R3); the canonical form that
it keeps, and what an unlisted byte reads as, are the model's (log 1).
R88: bytes written in a team's own scratch or a resident team's are read back there, and every other byte of every scratch stands. -/
def Obligations.ReadAfterWrite : Prop :=
  (∀ (m : Memory) (a : Nat) (bs : List Byte), m.wf = true →
     (m.storeBytes a bs).wf = true ∧ (m.storeBytes a bs).bytes a bs.length = bs ∧
     ∀ b, b < a ∨ a + bs.length ≤ b → (m.storeBytes a bs).byte b = m.byte b) ∧
  (∀ (s : State) (t a n u off : Nat) (bs : List Byte), bs.length = n → s.scrAt t a n = some (u, off) →
     (s.scrWrite t a bs).scrRead t a n = bs ∧
     (∀ w k, (w ≠ u ∨ k < off ∨ off + n ≤ k) → (s.scrWrite t a bs).scrGet w k 1 = s.scrGet w k 1) ∧
     (s.scrWrite t a bs).mem = s.mem)

/-- R326, R366, R372, R382-R384: reset: no team, set, launch, operation or command is there; every context is invalid, with the system registers' reset
values; the package is at its first boot state, and the MMIO registers are at the reset values that their rules give. These values the spec does not
give, and they are the model's choices: qtbase, ctbase and tdbase 0, of each context priv 0 and root 0, and caches empty (log 8); memory lists nothing,
and every byte reads 0 (log 1). The invariant holds. -/
def Obligations.ResetState : Prop :=
  let s := State.reset
  s.Inv ∧ s.teams = [] ∧ s.sets = [] ∧ s.launches = [] ∧ s.ops = [] ∧ s.cmds = [] ∧ s.boot.state = 0 ∧ (∀ n, (s.ctx n).v = false) ∧
    (∀ core, (s.core core).lines = []) ∧ s.mem = [] ∧ (∀ a, s.mem.byte a = 0) ∧
    s.mmio.mcr = [] ∧ s.mmio.mcrLost = 0 ∧ s.mmio.bad = false ∧ s.mmio.qtbase = 0 ∧ s.mmio.ctbase = 0 ∧ s.mmio.tdbase = 0 ∧
    (∀ n, FMap.getD s.mmio.fw n 0 = if n = 0 then 256 else 0) ∧
    (∀ n, (s.ctx n).priv = false ∧ (s.ctx n).root = 0 ∧ (s.ctx n).sr.tvec = 0 ∧ (s.ctx n).sr.tdel = 0 ∧ (s.ctx n).sr.fmode = 0 ∧ (s.ctx n).sr.check = 0 ∧
      (s.ctx n).sr.promote = 16 ∧ (s.ctx n).sr.cpymode = 0 ∧ (s.ctx n).sr.shadow = 0 ∧ (s.ctx n).sr.crumb = 0 ∧ (s.ctx n).sr.crumbc = 4) ∧
    (∀ d, (s.die d).irqRp = 0 ∧ (s.die d).irqLost = 0 ∧ (s.die d).prqMask = 0 ∧ (s.die d).prqCtx = 0 ∧ (s.die d).prqDl = 0 ∧ (s.die d).busy = false ∧
      (s.die d).late = false)
end

