-- ==== Sys2Proof/Laws/FMap.lean ====
section
/-! SUPPORT. Reading a table after setting, changing or removing a key; the keys stay rising. -/

namespace Sys2Proof

variable {α : Type}

@[simp] theorem FMap.get?_nil (n : Nat) : FMap.get? ([] : FMap α) n = none := rfl
@[simp] theorem FMap.getD_nil (n : Nat) (d : α) : FMap.getD ([] : FMap α) n d = d := rfl

@[simp] theorem FMap.get?_set_self (m : FMap α) (n : Nat) (a : α) : (FMap.set m n a).get? n = some a := by
  induction m with
  | nil => simp [FMap.set, FMap.get?]
  | cons e m ih =>
    obtain ⟨k, b⟩ := e
    by_cases h : n < k
    · simp [FMap.set, FMap.get?, h]
    · by_cases h' : n = k <;> simp [FMap.set, FMap.get?, h, h', ih]

theorem FMap.get?_set_ne (m : FMap α) {n k : Nat} (a : α) (h : k ≠ n) : (FMap.set m n a).get? k = m.get? k := by
  induction m with
  | nil => simp [FMap.set, FMap.get?, h]
  | cons e m ih =>
    obtain ⟨j, b⟩ := e
    by_cases h1 : n < j
    · by_cases h2 : k < n
      · have : k < j := by omega
        simp [FMap.set, FMap.get?, h1, h2, this]
      · simp [FMap.set, FMap.get?, h1, h2, h]
    · by_cases h3 : n = j
      · subst h3
        simp [FMap.set, FMap.get?, h]
      · simp [FMap.set, FMap.get?, h1, h3, ih]

theorem FMap.get?_set (m : FMap α) (n k : Nat) (a : α) : (FMap.set m n a).get? k = if k = n then some a else m.get? k := by
  by_cases h : k = n
  · subst h; simp
  · simp [h, FMap.get?_set_ne]

@[simp] theorem FMap.getD_set_self (m : FMap α) (n : Nat) (a d : α) : (FMap.set m n a).getD n d = a := by simp [FMap.getD]

theorem FMap.getD_set_ne (m : FMap α) {n k : Nat} (a d : α) (h : k ≠ n) : (FMap.set m n a).getD k d = m.getD k d := by
  simp [FMap.getD, FMap.get?_set_ne, h]

theorem FMap.getD_set (m : FMap α) (n k : Nat) (a d : α) : (FMap.set m n a).getD k d = if k = n then a else m.getD k d := by
  by_cases h : k = n
  · subst h; simp
  · simp [h, FMap.getD_set_ne]

theorem FMap.set_set (m : FMap α) (n : Nat) (a b : α) : (m.set n a).set n b = m.set n b := by
  induction m with
  | nil => simp [FMap.set]
  | cons e m ih =>
    obtain ⟨k, c⟩ := e
    by_cases h : n < k
    · simp [FMap.set, h]
    · by_cases h' : n = k <;> simp [FMap.set, h, h', ih]

theorem FMap.get?_upd (m : FMap α) (n k : Nat) (f : α → α) :
    (FMap.upd m n f).get? k = if k = n then (m.get? n).map f else m.get? k := by
  unfold FMap.upd
  split
  · next a h => by_cases e : k = n <;> simp [FMap.get?_set, e, h]
  · next h => by_cases e : k = n <;> simp [e, h]

@[simp] theorem FMap.get?_upd_self (m : FMap α) (n : Nat) (f : α → α) : (FMap.upd m n f).get? n = (m.get? n).map f := by
  simp [FMap.get?_upd]

theorem FMap.upd_upd (m : FMap α) (n : Nat) (f g : α → α) : (m.upd n f).upd n g = m.upd n (fun a => g (f a)) := by
  cases h : m.get? n with
  | none => simp [FMap.upd, h]
  | some a => simp [FMap.upd, h, FMap.set_set]

theorem FMap.get?_upd_ne (m : FMap α) {n k : Nat} (f : α → α) (h : k ≠ n) : (FMap.upd m n f).get? k = m.get? k := by
  simp [FMap.get?_upd, h]

/-- Rising keys, one entry at a time. -/
theorem FMap.rising_cons (k : Nat) (a : α) (m : FMap α) : FMap.rising ((k, a) :: m) = true ↔ (∀ e ∈ m, k < e.1) ∧ FMap.rising m = true := by
  induction m generalizing k a with
  | nil => simp [FMap.rising]
  | cons e m ih =>
    obtain ⟨j, b⟩ := e
    simp only [FMap.rising, Bool.and_eq_true, decide_eq_true_eq, List.mem_cons, forall_eq_or_imp]
    constructor
    · rintro ⟨h1, h2⟩
      refine ⟨⟨h1, fun e he => ?_⟩, h2⟩
      exact lt_trans h1 (((ih j b).mp h2).1 e he)
    · rintro ⟨⟨h1, -⟩, h3⟩
      exact ⟨h1, h3⟩

theorem FMap.mem_set (m : FMap α) (n : Nat) (a : α) (e : Nat × α) (h : e ∈ FMap.set m n a) : e = (n, a) ∨ e ∈ m := by
  induction m with
  | nil => simpa [FMap.set] using h
  | cons x m ih =>
    obtain ⟨k, b⟩ := x
    simp only [FMap.set] at h
    split at h
    · simpa using h
    · split at h
      · rcases List.mem_cons.mp h with h | h
        · exact .inl h
        · exact .inr (List.mem_cons_of_mem _ h)
      · rcases List.mem_cons.mp h with h | h
        · exact .inr (by simp [h])
        · rcases ih h with h | h
          · exact .inl h
          · exact .inr (List.mem_cons_of_mem _ h)

theorem FMap.mem_erase (m : FMap α) (n : Nat) (e : Nat × α) (h : e ∈ FMap.erase m n) : e ∈ m := by
  induction m with
  | nil => simp [FMap.erase] at h
  | cons x m ih =>
    obtain ⟨k, b⟩ := x
    simp only [FMap.erase] at h
    split at h
    · exact h
    · split at h
      · exact List.mem_cons_of_mem _ h
      · rcases List.mem_cons.mp h with h | h
        · simp [h]
        · exact List.mem_cons_of_mem _ (ih h)

theorem FMap.rising_set (m : FMap α) (n : Nat) (a : α) (h : FMap.rising m = true) : FMap.rising (FMap.set m n a) = true := by
  induction m with
  | nil => rfl
  | cons x m ih =>
    obtain ⟨k, b⟩ := x
    obtain ⟨h1, h2⟩ := (FMap.rising_cons k b m).mp h
    simp only [FMap.set]
    split
    · next hn =>
      refine (FMap.rising_cons _ _ _).mpr ⟨fun e he => ?_, h⟩
      rcases List.mem_cons.mp he with he | he
      · simpa [he] using hn
      · exact lt_trans hn (h1 e he)
    · next hn =>
      split
      · next e => subst e; exact (FMap.rising_cons _ _ _).mpr ⟨h1, h2⟩
      · next hne =>
        refine (FMap.rising_cons _ _ _).mpr ⟨fun e he => ?_, ih h2⟩
        rcases FMap.mem_set _ _ _ _ he with he | he
        · subst he; simp; omega
        · exact h1 e he

theorem FMap.rising_erase (m : FMap α) (n : Nat) (h : FMap.rising m = true) : FMap.rising (FMap.erase m n) = true := by
  induction m with
  | nil => rfl
  | cons x m ih =>
    obtain ⟨k, b⟩ := x
    obtain ⟨h1, h2⟩ := (FMap.rising_cons k b m).mp h
    simp only [FMap.erase]
    split
    · exact h
    · split
      · exact h2
      · exact (FMap.rising_cons _ _ _).mpr ⟨fun e he => h1 e (FMap.mem_erase _ _ _ he), ih h2⟩

/-- Below every key nothing is listed. -/
theorem FMap.get?_below (m : FMap α) (n : Nat) (h : ∀ e ∈ m, n < e.1) : m.get? n = none := by
  cases m with
  | nil => rfl
  | cons x m => simp [FMap.get?, h x (by simp)]

theorem FMap.get?_erase (m : FMap α) (n k : Nat) (h : FMap.rising m = true) :
    (FMap.erase m n).get? k = if k = n then none else m.get? k := by
  induction m with
  | nil => simp [FMap.erase, FMap.get?]
  | cons x m ih =>
    obtain ⟨j, b⟩ := x
    obtain ⟨h1, h2⟩ := (FMap.rising_cons j b m).mp h
    by_cases hn : n < j
    · by_cases hk : k = n
      · subst hk; simp [FMap.erase, FMap.get?, hn]
      · simp [FMap.erase, hn, hk]
    · by_cases hj : n = j
      · subst hj
        by_cases hk : k = n
        · subst hk; simp [FMap.erase, FMap.get?_below m k h1]
        · by_cases hlt : k < n
          · simp [FMap.erase, FMap.get?, hk, hlt, FMap.get?_below m k (fun e he => lt_trans hlt (h1 e he))]
          · simp [FMap.erase, FMap.get?, hk, hlt]
      · by_cases hkj : k < j
        · have hkn : k ≠ n := by omega
          simp [FMap.erase, FMap.get?, hn, hj, hkj, hkn]
        · by_cases hk : k = j
          · subst hk
            have : k ≠ n := fun e => hj e.symm
            simp [FMap.erase, FMap.get?, hn, hj, this]
          · simp [FMap.erase, FMap.get?, hn, hj, hkj, hk, ih h2]

/-- A key listed in a table has an entry there. -/
theorem FMap.mem_of_get? (m : FMap α) (n : Nat) (a : α) (h : m.get? n = some a) : (n, a) ∈ m := by
  induction m with
  | nil => simp at h
  | cons x m ih =>
    obtain ⟨k, b⟩ := x
    simp only [FMap.get?] at h
    split at h
    · simp at h
    · split at h
      · next e => subst e; simp at h; simp [h]
      · exact List.mem_cons_of_mem _ (ih h)

end Sys2Proof
end

