-- ==== Sys2Proof/Laws/Memory.lean ====
section
/-! SUPPORT. Memory: a byte read after a store, and the canonical form that every store keeps. -/

namespace Sys2Proof.Machine

open Sys2Proof

theorem Memory.wf_iff (m : Memory) : m.wf = true ↔ FMap.rising m = true ∧ ∀ c ∈ m, c.2 ≠ 0 := by
  simp [Memory.wf]

/-- Storing one byte keeps the canonical form. -/
theorem Memory.wf_store (m : Memory) (a : Nat) (b : Byte) (h : m.wf = true) : (m.store a b).wf = true := by
  obtain ⟨h1, h2⟩ := (Memory.wf_iff m).mp h
  unfold Memory.store
  split
  · exact (Memory.wf_iff _).mpr ⟨FMap.rising_erase _ _ h1, fun c hc => h2 c (FMap.mem_erase _ _ _ hc)⟩
  · next hb =>
    refine (Memory.wf_iff _).mpr ⟨FMap.rising_set _ _ _ h1, fun c hc => ?_⟩
    rcases FMap.mem_set _ _ _ _ hc with hc | hc
    · subst hc; exact hb
    · exact h2 c hc

/-- Storing bytes keeps the canonical form. -/
theorem Memory.wf_storeBytes (bs : List Byte) (m : Memory) (a : Nat) (h : m.wf = true) : (m.storeBytes a bs).wf = true := by
  induction bs generalizing m a with
  | nil => exact h
  | cons b bs ih => exact ih _ _ (Memory.wf_store m a b h)

/-- Storing a number keeps the canonical form. -/
theorem Memory.wf_storeNum (m : Memory) (a n x : Nat) (h : m.wf = true) : (m.storeNum a n x).wf = true :=
  Memory.wf_storeBytes _ m a h

/-- A byte read after one byte was stored. -/
theorem Memory.byte_store (m : Memory) (a k : Nat) (b : Byte) (h : m.wf = true) : (m.store a b).byte k = if k = a then b else m.byte k := by
  have h1 := ((Memory.wf_iff m).mp h).1
  unfold Memory.store Memory.byte FMap.getD
  split
  · next hb =>
    subst hb
    rw [FMap.get?_erase _ _ _ h1]
    split <;> rfl
  · rw [FMap.get?_set]
    split <;> rfl

/-- A byte outside the stored ones reads as before. -/
theorem Memory.byte_storeBytes_out (bs : List Byte) (m : Memory) (a k : Nat) (h : m.wf = true) (hk : k < a ∨ a + bs.length ≤ k) :
    (m.storeBytes a bs).byte k = m.byte k := by
  induction bs generalizing m a with
  | nil => rfl
  | cons b bs ih =>
    simp only [List.length_cons] at hk
    rw [Memory.storeBytes, ih _ _ (Memory.wf_store m a b h) (by omega), Memory.byte_store m a k b h, if_neg (by omega)]

/-- The bytes stored are read back. -/
theorem Memory.bytes_storeBytes (bs : List Byte) (m : Memory) (a : Nat) (h : m.wf = true) : (m.storeBytes a bs).bytes a bs.length = bs := by
  induction bs generalizing m a with
  | nil => rfl
  | cons b bs ih =>
    rw [Memory.storeBytes, List.length_cons, Memory.bytes, ih _ _ (Memory.wf_store m a b h),
      Memory.byte_storeBytes_out bs _ (a + 1) a (Memory.wf_store m a b h) (by omega), Memory.byte_store m a a b h]
    simp

theorem leNat_natLe (n x : Nat) : leNat (natLe n x) = x % 256 ^ n := by
  induction n generalizing x with
  | zero => simp [natLe, leNat, Nat.mod_one]
  | succ n ih =>
    rw [natLe, leNat, ih, pow_succ', Nat.mod_mul]
    simp

@[simp] theorem length_natLe (n x : Nat) : (natLe n x).length = n := by
  induction n generalizing x with
  | zero => rfl
  | succ n ih => simp [natLe, ih]

/-- A number stored is read back modulo 256^n (R3). -/
theorem Memory.num_storeNum (m : Memory) (a n x : Nat) (h : m.wf = true) : (m.storeNum a n x).num a n = x % 256 ^ n := by
  have := Memory.bytes_storeBytes (natLe n x) m a h
  rw [length_natLe] at this
  rw [Memory.num, Memory.storeNum, this, leNat_natLe]

end Sys2Proof.Machine
end

