-- ==== Sys2Proof/Laws/State.lean ====
section
/-! SUPPORT. What the updates of a state, a team and a thread leave as it was, one field at a time. -/

namespace Sys2Proof.Machine

@[simp] theorem State.updTeam_agenda (s : State) (t : Nat) (f : Team → Team) : (s.updTeam t f).agenda = s.agenda := rfl
@[simp] theorem State.updTeam_clock (s : State) (t : Nat) (f : Team → Team) : (s.updTeam t f).clock = s.clock := rfl
@[simp] theorem State.updTeam_cursor (s : State) (t : Nat) (f : Team → Team) : (s.updTeam t f).cursor = s.cursor := rfl
@[simp] theorem State.updTeam_cur (s : State) (t : Nat) (f : Team → Team) : (s.updTeam t f).cur = s.cur := rfl
@[simp] theorem State.updTeam_freeCtr (s : State) (t : Nat) (f : Team → Team) : (s.updTeam t f).freeCtr = s.freeCtr := rfl
@[simp] theorem State.updTeam_nextId (s : State) (t : Nat) (f : Team → Team) : (s.updTeam t f).nextId = s.nextId := rfl
@[simp] theorem State.updTeam_mem (s : State) (t : Nat) (f : Team → Team) : (s.updTeam t f).mem = s.mem := rfl
@[simp] theorem State.updTeam_ctxs (s : State) (t : Nat) (f : Team → Team) : (s.updTeam t f).ctxs = s.ctxs := rfl
@[simp] theorem State.updTeam_cores (s : State) (t : Nat) (f : Team → Team) : (s.updTeam t f).cores = s.cores := rfl
@[simp] theorem State.updTeam_dies (s : State) (t : Nat) (f : Team → Team) : (s.updTeam t f).dies = s.dies := rfl
@[simp] theorem State.updTeam_ops (s : State) (t : Nat) (f : Team → Team) : (s.updTeam t f).ops = s.ops := rfl
@[simp] theorem State.updTeam_faults (s : State) (t : Nat) (f : Team → Team) : (s.updTeam t f).faults = s.faults := rfl
@[simp] theorem State.updTeam_sets (s : State) (t : Nat) (f : Team → Team) : (s.updTeam t f).sets = s.sets := rfl
@[simp] theorem State.updTeam_launches (s : State) (t : Nat) (f : Team → Team) : (s.updTeam t f).launches = s.launches := rfl
@[simp] theorem State.updTeam_rels (s : State) (t : Nat) (f : Team → Team) : (s.updTeam t f).rels = s.rels := rfl
@[simp] theorem State.updTeam_shoots (s : State) (t : Nat) (f : Team → Team) : (s.updTeam t f).shoots = s.shoots := rfl
@[simp] theorem State.updTeam_units (s : State) (t : Nat) (f : Team → Team) : (s.updTeam t f).units = s.units := rfl
@[simp] theorem State.updTeam_links (s : State) (t : Nat) (f : Team → Team) : (s.updTeam t f).links = s.links := rfl
@[simp] theorem State.updTeam_boot (s : State) (t : Nat) (f : Team → Team) : (s.updTeam t f).boot = s.boot := rfl
@[simp] theorem State.updTeam_mmio (s : State) (t : Nat) (f : Team → Team) : (s.updTeam t f).mmio = s.mmio := rfl
@[simp] theorem State.updTeam_cmds (s : State) (t : Nat) (f : Team → Team) : (s.updTeam t f).cmds = s.cmds := rfl
@[simp] theorem State.updTeam_ordClock (s : State) (t : Nat) (f : Team → Team) : (s.updTeam t f).ordClock = s.ordClock := rfl
@[simp] theorem State.updThread_agenda (s : State) (t tid : Nat) (f : Thread → Thread) : (s.updThread t tid f).agenda = s.agenda := rfl
@[simp] theorem State.updThread_clock (s : State) (t tid : Nat) (f : Thread → Thread) : (s.updThread t tid f).clock = s.clock := rfl
@[simp] theorem State.updThread_cursor (s : State) (t tid : Nat) (f : Thread → Thread) : (s.updThread t tid f).cursor = s.cursor := rfl
@[simp] theorem State.updThread_cur (s : State) (t tid : Nat) (f : Thread → Thread) : (s.updThread t tid f).cur = s.cur := rfl
@[simp] theorem State.updThread_freeCtr (s : State) (t tid : Nat) (f : Thread → Thread) : (s.updThread t tid f).freeCtr = s.freeCtr := rfl
@[simp] theorem State.updThread_nextId (s : State) (t tid : Nat) (f : Thread → Thread) : (s.updThread t tid f).nextId = s.nextId := rfl
@[simp] theorem State.updThread_mem (s : State) (t tid : Nat) (f : Thread → Thread) : (s.updThread t tid f).mem = s.mem := rfl
@[simp] theorem State.updThread_ctxs (s : State) (t tid : Nat) (f : Thread → Thread) : (s.updThread t tid f).ctxs = s.ctxs := rfl
@[simp] theorem State.updThread_cores (s : State) (t tid : Nat) (f : Thread → Thread) : (s.updThread t tid f).cores = s.cores := rfl
@[simp] theorem State.updThread_dies (s : State) (t tid : Nat) (f : Thread → Thread) : (s.updThread t tid f).dies = s.dies := rfl
@[simp] theorem State.updThread_ops (s : State) (t tid : Nat) (f : Thread → Thread) : (s.updThread t tid f).ops = s.ops := rfl
@[simp] theorem State.updThread_faults (s : State) (t tid : Nat) (f : Thread → Thread) : (s.updThread t tid f).faults = s.faults := rfl
@[simp] theorem State.updThread_sets (s : State) (t tid : Nat) (f : Thread → Thread) : (s.updThread t tid f).sets = s.sets := rfl
@[simp] theorem State.updThread_launches (s : State) (t tid : Nat) (f : Thread → Thread) : (s.updThread t tid f).launches = s.launches := rfl
@[simp] theorem State.updThread_rels (s : State) (t tid : Nat) (f : Thread → Thread) : (s.updThread t tid f).rels = s.rels := rfl
@[simp] theorem State.updThread_shoots (s : State) (t tid : Nat) (f : Thread → Thread) : (s.updThread t tid f).shoots = s.shoots := rfl
@[simp] theorem State.updThread_units (s : State) (t tid : Nat) (f : Thread → Thread) : (s.updThread t tid f).units = s.units := rfl
@[simp] theorem State.updThread_links (s : State) (t tid : Nat) (f : Thread → Thread) : (s.updThread t tid f).links = s.links := rfl
@[simp] theorem State.updThread_boot (s : State) (t tid : Nat) (f : Thread → Thread) : (s.updThread t tid f).boot = s.boot := rfl
@[simp] theorem State.updThread_mmio (s : State) (t tid : Nat) (f : Thread → Thread) : (s.updThread t tid f).mmio = s.mmio := rfl
@[simp] theorem State.updThread_cmds (s : State) (t tid : Nat) (f : Thread → Thread) : (s.updThread t tid f).cmds = s.cmds := rfl
@[simp] theorem State.updThread_ordClock (s : State) (t tid : Nat) (f : Thread → Thread) : (s.updThread t tid f).ordClock = s.ordClock := rfl
@[simp] theorem State.updGroup_agenda (s : State) (t g : Nat) (f : Group → Group) : (s.updGroup t g f).agenda = s.agenda := rfl
@[simp] theorem State.updGroup_clock (s : State) (t g : Nat) (f : Group → Group) : (s.updGroup t g f).clock = s.clock := rfl
@[simp] theorem State.updGroup_cursor (s : State) (t g : Nat) (f : Group → Group) : (s.updGroup t g f).cursor = s.cursor := rfl
@[simp] theorem State.updGroup_cur (s : State) (t g : Nat) (f : Group → Group) : (s.updGroup t g f).cur = s.cur := rfl
@[simp] theorem State.updGroup_freeCtr (s : State) (t g : Nat) (f : Group → Group) : (s.updGroup t g f).freeCtr = s.freeCtr := rfl
@[simp] theorem State.updGroup_nextId (s : State) (t g : Nat) (f : Group → Group) : (s.updGroup t g f).nextId = s.nextId := rfl
@[simp] theorem State.updGroup_mem (s : State) (t g : Nat) (f : Group → Group) : (s.updGroup t g f).mem = s.mem := rfl
@[simp] theorem State.updGroup_ctxs (s : State) (t g : Nat) (f : Group → Group) : (s.updGroup t g f).ctxs = s.ctxs := rfl
@[simp] theorem State.updGroup_cores (s : State) (t g : Nat) (f : Group → Group) : (s.updGroup t g f).cores = s.cores := rfl
@[simp] theorem State.updGroup_dies (s : State) (t g : Nat) (f : Group → Group) : (s.updGroup t g f).dies = s.dies := rfl
@[simp] theorem State.updGroup_ops (s : State) (t g : Nat) (f : Group → Group) : (s.updGroup t g f).ops = s.ops := rfl
@[simp] theorem State.updGroup_faults (s : State) (t g : Nat) (f : Group → Group) : (s.updGroup t g f).faults = s.faults := rfl
@[simp] theorem State.updGroup_sets (s : State) (t g : Nat) (f : Group → Group) : (s.updGroup t g f).sets = s.sets := rfl
@[simp] theorem State.updGroup_launches (s : State) (t g : Nat) (f : Group → Group) : (s.updGroup t g f).launches = s.launches := rfl
@[simp] theorem State.updGroup_rels (s : State) (t g : Nat) (f : Group → Group) : (s.updGroup t g f).rels = s.rels := rfl
@[simp] theorem State.updGroup_shoots (s : State) (t g : Nat) (f : Group → Group) : (s.updGroup t g f).shoots = s.shoots := rfl
@[simp] theorem State.updGroup_units (s : State) (t g : Nat) (f : Group → Group) : (s.updGroup t g f).units = s.units := rfl
@[simp] theorem State.updGroup_links (s : State) (t g : Nat) (f : Group → Group) : (s.updGroup t g f).links = s.links := rfl
@[simp] theorem State.updGroup_boot (s : State) (t g : Nat) (f : Group → Group) : (s.updGroup t g f).boot = s.boot := rfl
@[simp] theorem State.updGroup_mmio (s : State) (t g : Nat) (f : Group → Group) : (s.updGroup t g f).mmio = s.mmio := rfl
@[simp] theorem State.updGroup_cmds (s : State) (t g : Nat) (f : Group → Group) : (s.updGroup t g f).cmds = s.cmds := rfl
@[simp] theorem State.updGroup_ordClock (s : State) (t g : Nat) (f : Group → Group) : (s.updGroup t g f).ordClock = s.ordClock := rfl
@[simp] theorem State.hold_agenda (s : State) (t g : Nat) : (s.hold t g).agenda = s.agenda := rfl
@[simp] theorem State.hold_clock (s : State) (t g : Nat) : (s.hold t g).clock = s.clock := rfl
@[simp] theorem State.hold_cursor (s : State) (t g : Nat) : (s.hold t g).cursor = s.cursor := rfl
@[simp] theorem State.hold_cur (s : State) (t g : Nat) : (s.hold t g).cur = s.cur := rfl
@[simp] theorem State.hold_freeCtr (s : State) (t g : Nat) : (s.hold t g).freeCtr = s.freeCtr := rfl
@[simp] theorem State.hold_nextId (s : State) (t g : Nat) : (s.hold t g).nextId = s.nextId := rfl
@[simp] theorem State.hold_mem (s : State) (t g : Nat) : (s.hold t g).mem = s.mem := rfl
@[simp] theorem State.hold_ctxs (s : State) (t g : Nat) : (s.hold t g).ctxs = s.ctxs := rfl
@[simp] theorem State.hold_cores (s : State) (t g : Nat) : (s.hold t g).cores = s.cores := rfl
@[simp] theorem State.hold_dies (s : State) (t g : Nat) : (s.hold t g).dies = s.dies := rfl
@[simp] theorem State.hold_ops (s : State) (t g : Nat) : (s.hold t g).ops = s.ops := rfl
@[simp] theorem State.hold_faults (s : State) (t g : Nat) : (s.hold t g).faults = s.faults := rfl
@[simp] theorem State.hold_sets (s : State) (t g : Nat) : (s.hold t g).sets = s.sets := rfl
@[simp] theorem State.hold_launches (s : State) (t g : Nat) : (s.hold t g).launches = s.launches := rfl
@[simp] theorem State.hold_rels (s : State) (t g : Nat) : (s.hold t g).rels = s.rels := rfl
@[simp] theorem State.hold_shoots (s : State) (t g : Nat) : (s.hold t g).shoots = s.shoots := rfl
@[simp] theorem State.hold_units (s : State) (t g : Nat) : (s.hold t g).units = s.units := rfl
@[simp] theorem State.hold_links (s : State) (t g : Nat) : (s.hold t g).links = s.links := rfl
@[simp] theorem State.hold_boot (s : State) (t g : Nat) : (s.hold t g).boot = s.boot := rfl
@[simp] theorem State.hold_mmio (s : State) (t g : Nat) : (s.hold t g).mmio = s.mmio := rfl
@[simp] theorem State.hold_cmds (s : State) (t g : Nat) : (s.hold t g).cmds = s.cmds := rfl
@[simp] theorem State.hold_ordClock (s : State) (t g : Nat) : (s.hold t g).ordClock = s.ordClock := rfl
@[simp] theorem State.updCore_agenda (s : State) (c : Nat) (f : CoreSt → CoreSt) : (s.updCore c f).agenda = s.agenda := rfl
@[simp] theorem State.updCore_clock (s : State) (c : Nat) (f : CoreSt → CoreSt) : (s.updCore c f).clock = s.clock := rfl
@[simp] theorem State.updCore_cursor (s : State) (c : Nat) (f : CoreSt → CoreSt) : (s.updCore c f).cursor = s.cursor := rfl
@[simp] theorem State.updCore_cur (s : State) (c : Nat) (f : CoreSt → CoreSt) : (s.updCore c f).cur = s.cur := rfl
@[simp] theorem State.updCore_freeCtr (s : State) (c : Nat) (f : CoreSt → CoreSt) : (s.updCore c f).freeCtr = s.freeCtr := rfl
@[simp] theorem State.updCore_nextId (s : State) (c : Nat) (f : CoreSt → CoreSt) : (s.updCore c f).nextId = s.nextId := rfl
@[simp] theorem State.updCore_mem (s : State) (c : Nat) (f : CoreSt → CoreSt) : (s.updCore c f).mem = s.mem := rfl
@[simp] theorem State.updCore_ctxs (s : State) (c : Nat) (f : CoreSt → CoreSt) : (s.updCore c f).ctxs = s.ctxs := rfl
@[simp] theorem State.updCore_teams (s : State) (c : Nat) (f : CoreSt → CoreSt) : (s.updCore c f).teams = s.teams := rfl
@[simp] theorem State.updCore_dies (s : State) (c : Nat) (f : CoreSt → CoreSt) : (s.updCore c f).dies = s.dies := rfl
@[simp] theorem State.updCore_ops (s : State) (c : Nat) (f : CoreSt → CoreSt) : (s.updCore c f).ops = s.ops := rfl
@[simp] theorem State.updCore_faults (s : State) (c : Nat) (f : CoreSt → CoreSt) : (s.updCore c f).faults = s.faults := rfl
@[simp] theorem State.updCore_sets (s : State) (c : Nat) (f : CoreSt → CoreSt) : (s.updCore c f).sets = s.sets := rfl
@[simp] theorem State.updCore_launches (s : State) (c : Nat) (f : CoreSt → CoreSt) : (s.updCore c f).launches = s.launches := rfl
@[simp] theorem State.updCore_rels (s : State) (c : Nat) (f : CoreSt → CoreSt) : (s.updCore c f).rels = s.rels := rfl
@[simp] theorem State.updCore_shoots (s : State) (c : Nat) (f : CoreSt → CoreSt) : (s.updCore c f).shoots = s.shoots := rfl
@[simp] theorem State.updCore_units (s : State) (c : Nat) (f : CoreSt → CoreSt) : (s.updCore c f).units = s.units := rfl
@[simp] theorem State.updCore_links (s : State) (c : Nat) (f : CoreSt → CoreSt) : (s.updCore c f).links = s.links := rfl
@[simp] theorem State.updCore_boot (s : State) (c : Nat) (f : CoreSt → CoreSt) : (s.updCore c f).boot = s.boot := rfl
@[simp] theorem State.updCore_mmio (s : State) (c : Nat) (f : CoreSt → CoreSt) : (s.updCore c f).mmio = s.mmio := rfl
@[simp] theorem State.updCore_cmds (s : State) (c : Nat) (f : CoreSt → CoreSt) : (s.updCore c f).cmds = s.cmds := rfl
@[simp] theorem State.updCore_ordClock (s : State) (c : Nat) (f : CoreSt → CoreSt) : (s.updCore c f).ordClock = s.ordClock := rfl
@[simp] theorem State.updDie_agenda (s : State) (d : Nat) (f : DieSt → DieSt) : (s.updDie d f).agenda = s.agenda := rfl
@[simp] theorem State.updDie_clock (s : State) (d : Nat) (f : DieSt → DieSt) : (s.updDie d f).clock = s.clock := rfl
@[simp] theorem State.updDie_cursor (s : State) (d : Nat) (f : DieSt → DieSt) : (s.updDie d f).cursor = s.cursor := rfl
@[simp] theorem State.updDie_cur (s : State) (d : Nat) (f : DieSt → DieSt) : (s.updDie d f).cur = s.cur := rfl
@[simp] theorem State.updDie_freeCtr (s : State) (d : Nat) (f : DieSt → DieSt) : (s.updDie d f).freeCtr = s.freeCtr := rfl
@[simp] theorem State.updDie_nextId (s : State) (d : Nat) (f : DieSt → DieSt) : (s.updDie d f).nextId = s.nextId := rfl
@[simp] theorem State.updDie_mem (s : State) (d : Nat) (f : DieSt → DieSt) : (s.updDie d f).mem = s.mem := rfl
@[simp] theorem State.updDie_ctxs (s : State) (d : Nat) (f : DieSt → DieSt) : (s.updDie d f).ctxs = s.ctxs := rfl
@[simp] theorem State.updDie_teams (s : State) (d : Nat) (f : DieSt → DieSt) : (s.updDie d f).teams = s.teams := rfl
@[simp] theorem State.updDie_cores (s : State) (d : Nat) (f : DieSt → DieSt) : (s.updDie d f).cores = s.cores := rfl
@[simp] theorem State.updDie_ops (s : State) (d : Nat) (f : DieSt → DieSt) : (s.updDie d f).ops = s.ops := rfl
@[simp] theorem State.updDie_faults (s : State) (d : Nat) (f : DieSt → DieSt) : (s.updDie d f).faults = s.faults := rfl
@[simp] theorem State.updDie_sets (s : State) (d : Nat) (f : DieSt → DieSt) : (s.updDie d f).sets = s.sets := rfl
@[simp] theorem State.updDie_launches (s : State) (d : Nat) (f : DieSt → DieSt) : (s.updDie d f).launches = s.launches := rfl
@[simp] theorem State.updDie_rels (s : State) (d : Nat) (f : DieSt → DieSt) : (s.updDie d f).rels = s.rels := rfl
@[simp] theorem State.updDie_shoots (s : State) (d : Nat) (f : DieSt → DieSt) : (s.updDie d f).shoots = s.shoots := rfl
@[simp] theorem State.updDie_units (s : State) (d : Nat) (f : DieSt → DieSt) : (s.updDie d f).units = s.units := rfl
@[simp] theorem State.updDie_links (s : State) (d : Nat) (f : DieSt → DieSt) : (s.updDie d f).links = s.links := rfl
@[simp] theorem State.updDie_boot (s : State) (d : Nat) (f : DieSt → DieSt) : (s.updDie d f).boot = s.boot := rfl
@[simp] theorem State.updDie_mmio (s : State) (d : Nat) (f : DieSt → DieSt) : (s.updDie d f).mmio = s.mmio := rfl
@[simp] theorem State.updDie_cmds (s : State) (d : Nat) (f : DieSt → DieSt) : (s.updDie d f).cmds = s.cmds := rfl
@[simp] theorem State.updDie_ordClock (s : State) (d : Nat) (f : DieSt → DieSt) : (s.updDie d f).ordClock = s.ordClock := rfl
@[simp] theorem State.newId_agenda (s : State) : s.newId.2.agenda = s.agenda := rfl
@[simp] theorem State.newId_clock (s : State) : s.newId.2.clock = s.clock := rfl
@[simp] theorem State.newId_cursor (s : State) : s.newId.2.cursor = s.cursor := rfl
@[simp] theorem State.newId_cur (s : State) : s.newId.2.cur = s.cur := rfl
@[simp] theorem State.newId_freeCtr (s : State) : s.newId.2.freeCtr = s.freeCtr := rfl
@[simp] theorem State.newId_mem (s : State) : s.newId.2.mem = s.mem := rfl
@[simp] theorem State.newId_ctxs (s : State) : s.newId.2.ctxs = s.ctxs := rfl
@[simp] theorem State.newId_teams (s : State) : s.newId.2.teams = s.teams := rfl
@[simp] theorem State.newId_cores (s : State) : s.newId.2.cores = s.cores := rfl
@[simp] theorem State.newId_dies (s : State) : s.newId.2.dies = s.dies := rfl
@[simp] theorem State.newId_ops (s : State) : s.newId.2.ops = s.ops := rfl
@[simp] theorem State.newId_faults (s : State) : s.newId.2.faults = s.faults := rfl
@[simp] theorem State.newId_sets (s : State) : s.newId.2.sets = s.sets := rfl
@[simp] theorem State.newId_launches (s : State) : s.newId.2.launches = s.launches := rfl
@[simp] theorem State.newId_rels (s : State) : s.newId.2.rels = s.rels := rfl
@[simp] theorem State.newId_shoots (s : State) : s.newId.2.shoots = s.shoots := rfl
@[simp] theorem State.newId_units (s : State) : s.newId.2.units = s.units := rfl
@[simp] theorem State.newId_links (s : State) : s.newId.2.links = s.links := rfl
@[simp] theorem State.newId_boot (s : State) : s.newId.2.boot = s.boot := rfl
@[simp] theorem State.newId_mmio (s : State) : s.newId.2.mmio = s.mmio := rfl
@[simp] theorem State.newId_cmds (s : State) : s.newId.2.cmds = s.cmds := rfl
@[simp] theorem State.newId_ordClock (s : State) : s.newId.2.ordClock = s.ordClock := rfl
@[simp] theorem State.newId_fst (s : State) : s.newId.1 = s.nextId := rfl
@[simp] theorem State.newId_nextId (s : State) : s.newId.2.nextId = s.nextId + 1 := rfl
@[simp] theorem Team.updThread_ctx (tm : Team) (tid : Nat) (f : Thread → Thread) : (tm.updThread tid f).ctx = tm.ctx := rfl
@[simp] theorem Team.updThread_core (tm : Team) (tid : Nat) (f : Thread → Thread) : (tm.updThread tid f).core = tm.core := rfl
@[simp] theorem Team.updThread_slot (tm : Team) (tid : Nat) (f : Thread → Thread) : (tm.updThread tid f).slot = tm.slot := rfl
@[simp] theorem Team.updThread_active (tm : Team) (tid : Nat) (f : Thread → Thread) : (tm.updThread tid f).active = tm.active := rfl
@[simp] theorem Team.updThread_life (tm : Team) (tid : Nat) (f : Thread → Thread) : (tm.updThread tid f).life = tm.life := rfl
@[simp] theorem Team.updThread_launch (tm : Team) (tid : Nat) (f : Thread → Thread) : (tm.updThread tid f).launch = tm.launch := rfl
@[simp] theorem Team.updThread_cell (tm : Team) (tid : Nat) (f : Thread → Thread) : (tm.updThread tid f).cell = tm.cell := rfl
@[simp] theorem Team.updThread_committed (tm : Team) (tid : Nat) (f : Thread → Thread) : (tm.updThread tid f).committed = tm.committed := rfl
@[simp] theorem Team.updThread_grid (tm : Team) (tid : Nat) (f : Thread → Thread) : (tm.updThread tid f).grid = tm.grid := rfl
@[simp] theorem Team.updThread_prio (tm : Team) (tid : Nat) (f : Thread → Thread) : (tm.updThread tid f).prio = tm.prio := rfl
@[simp] theorem Team.updThread_tr (tm : Team) (tid : Nat) (f : Thread → Thread) : (tm.updThread tid f).tr = tm.tr := rfl
@[simp] theorem Team.updThread_groups (tm : Team) (tid : Nat) (f : Thread → Thread) : (tm.updThread tid f).groups = tm.groups := rfl
@[simp] theorem Team.updThread_nextGroup (tm : Team) (tid : Nat) (f : Thread → Thread) : (tm.updThread tid f).nextGroup = tm.nextGroup := rfl
@[simp] theorem Team.updThread_k (tm : Team) (tid : Nat) (f : Thread → Thread) : (tm.updThread tid f).k = tm.k := rfl
@[simp] theorem Team.updThread_kf (tm : Team) (tid : Nat) (f : Thread → Thread) : (tm.updThread tid f).kf = tm.kf := rfl
@[simp] theorem Team.updThread_kexc (tm : Team) (tid : Nat) (f : Thread → Thread) : (tm.updThread tid f).kexc = tm.kexc := rfl
@[simp] theorem Team.updThread_cv (tm : Team) (tid : Nat) (f : Thread → Thread) : (tm.updThread tid f).cv = tm.cv := rfl
@[simp] theorem Team.updThread_aw (tm : Team) (tid : Nat) (f : Thread → Thread) : (tm.updThread tid f).aw = tm.aw := rfl
@[simp] theorem Team.updThread_ival (tm : Team) (tid : Nat) (f : Thread → Thread) : (tm.updThread tid f).ival = tm.ival := rfl
@[simp] theorem Team.updThread_cnt (tm : Team) (tid : Nat) (f : Thread → Thread) : (tm.updThread tid f).cnt = tm.cnt := rfl
@[simp] theorem Team.updThread_eff (tm : Team) (tid : Nat) (f : Thread → Thread) : (tm.updThread tid f).eff = tm.eff := rfl
@[simp] theorem Team.updThread_wbs (tm : Team) (tid : Nat) (f : Thread → Thread) : (tm.updThread tid f).wbs = tm.wbs := rfl
@[simp] theorem Team.updThread_scr (tm : Team) (tid : Nat) (f : Thread → Thread) : (tm.updThread tid f).scr = tm.scr := rfl
@[simp] theorem Team.updThread_pinned (tm : Team) (tid : Nat) (f : Thread → Thread) : (tm.updThread tid f).pinned = tm.pinned := rfl
@[simp] theorem Team.updThread_refill (tm : Team) (tid : Nat) (f : Thread → Thread) : (tm.updThread tid f).refill = tm.refill := rfl
@[simp] theorem Team.updThread_accBase (tm : Team) (tid : Nat) (f : Thread → Thread) : (tm.updThread tid f).accBase = tm.accBase := rfl
@[simp] theorem Team.updThread_regBase (tm : Team) (tid : Nat) (f : Thread → Thread) : (tm.updThread tid f).regBase = tm.regBase := rfl
@[simp] theorem Team.updThread_area (tm : Team) (tid : Nat) (f : Thread → Thread) : (tm.updThread tid f).area = tm.area := rfl
@[simp] theorem Team.updThread_waiter (tm : Team) (tid : Nat) (f : Thread → Thread) : (tm.updThread tid f).waiter = tm.waiter := rfl
@[simp] theorem Team.updThread_reeval (tm : Team) (tid : Nat) (f : Thread → Thread) : (tm.updThread tid f).reeval = tm.reeval := rfl
@[simp] theorem Team.updThread_ret (tm : Team) (tid : Nat) (f : Thread → Thread) : (tm.updThread tid f).ret = tm.ret := rfl
@[simp] theorem Team.updThread_placedAt (tm : Team) (tid : Nat) (f : Thread → Thread) : (tm.updThread tid f).placedAt = tm.placedAt := rfl
@[simp] theorem Team.updThread_activeAt (tm : Team) (tid : Nat) (f : Thread → Thread) : (tm.updThread tid f).activeAt = tm.activeAt := rfl
@[simp] theorem Team.updThread_rotated (tm : Team) (tid : Nat) (f : Thread → Thread) : (tm.updThread tid f).rotated = tm.rotated := rfl
@[simp] theorem Team.updThread_readySince (tm : Team) (tid : Nat) (f : Thread → Thread) : (tm.updThread tid f).readySince = tm.readySince := rfl
@[simp] theorem Team.updThread_k63out (tm : Team) (tid : Nat) (f : Thread → Thread) : (tm.updThread tid f).k63out = tm.k63out := rfl
@[simp] theorem Team.updThread_stored (tm : Team) (tid : Nat) (f : Thread → Thread) : (tm.updThread tid f).stored = tm.stored := rfl
@[simp] theorem Team.updThread_xends (tm : Team) (tid : Nat) (f : Thread → Thread) : (tm.updThread tid f).xends = tm.xends := rfl
@[simp] theorem Team.updThread_soft (tm : Team) (tid : Nat) (f : Thread → Thread) : (tm.updThread tid f).soft = tm.soft := rfl
@[simp] theorem Team.updThread_fresh (tm : Team) (tid : Nat) (f : Thread → Thread) : (tm.updThread tid f).fresh = tm.fresh := rfl
@[simp] theorem Team.updThread_proceeds (tm : Team) (tid : Nat) (f : Thread → Thread) : (tm.updThread tid f).proceeds = tm.proceeds := rfl
@[simp] theorem Team.updThread_laters (tm : Team) (tid : Nat) (f : Thread → Thread) : (tm.updThread tid f).laters = tm.laters := rfl
@[simp] theorem Team.updThread_scrBad (tm : Team) (tid : Nat) (f : Thread → Thread) : (tm.updThread tid f).scrBad = tm.scrBad := rfl
@[simp] theorem Team.updGroup_ctx (tm : Team) (g : Nat) (f : Group → Group) : (tm.updGroup g f).ctx = tm.ctx := rfl
@[simp] theorem Team.updGroup_core (tm : Team) (g : Nat) (f : Group → Group) : (tm.updGroup g f).core = tm.core := rfl
@[simp] theorem Team.updGroup_slot (tm : Team) (g : Nat) (f : Group → Group) : (tm.updGroup g f).slot = tm.slot := rfl
@[simp] theorem Team.updGroup_active (tm : Team) (g : Nat) (f : Group → Group) : (tm.updGroup g f).active = tm.active := rfl
@[simp] theorem Team.updGroup_life (tm : Team) (g : Nat) (f : Group → Group) : (tm.updGroup g f).life = tm.life := rfl
@[simp] theorem Team.updGroup_launch (tm : Team) (g : Nat) (f : Group → Group) : (tm.updGroup g f).launch = tm.launch := rfl
@[simp] theorem Team.updGroup_cell (tm : Team) (g : Nat) (f : Group → Group) : (tm.updGroup g f).cell = tm.cell := rfl
@[simp] theorem Team.updGroup_committed (tm : Team) (g : Nat) (f : Group → Group) : (tm.updGroup g f).committed = tm.committed := rfl
@[simp] theorem Team.updGroup_grid (tm : Team) (g : Nat) (f : Group → Group) : (tm.updGroup g f).grid = tm.grid := rfl
@[simp] theorem Team.updGroup_prio (tm : Team) (g : Nat) (f : Group → Group) : (tm.updGroup g f).prio = tm.prio := rfl
@[simp] theorem Team.updGroup_tr (tm : Team) (g : Nat) (f : Group → Group) : (tm.updGroup g f).tr = tm.tr := rfl
@[simp] theorem Team.updGroup_threads (tm : Team) (g : Nat) (f : Group → Group) : (tm.updGroup g f).threads = tm.threads := rfl
@[simp] theorem Team.updGroup_nextGroup (tm : Team) (g : Nat) (f : Group → Group) : (tm.updGroup g f).nextGroup = tm.nextGroup := rfl
@[simp] theorem Team.updGroup_k (tm : Team) (g : Nat) (f : Group → Group) : (tm.updGroup g f).k = tm.k := rfl
@[simp] theorem Team.updGroup_kf (tm : Team) (g : Nat) (f : Group → Group) : (tm.updGroup g f).kf = tm.kf := rfl
@[simp] theorem Team.updGroup_kexc (tm : Team) (g : Nat) (f : Group → Group) : (tm.updGroup g f).kexc = tm.kexc := rfl
@[simp] theorem Team.updGroup_cv (tm : Team) (g : Nat) (f : Group → Group) : (tm.updGroup g f).cv = tm.cv := rfl
@[simp] theorem Team.updGroup_aw (tm : Team) (g : Nat) (f : Group → Group) : (tm.updGroup g f).aw = tm.aw := rfl
@[simp] theorem Team.updGroup_ival (tm : Team) (g : Nat) (f : Group → Group) : (tm.updGroup g f).ival = tm.ival := rfl
@[simp] theorem Team.updGroup_cnt (tm : Team) (g : Nat) (f : Group → Group) : (tm.updGroup g f).cnt = tm.cnt := rfl
@[simp] theorem Team.updGroup_eff (tm : Team) (g : Nat) (f : Group → Group) : (tm.updGroup g f).eff = tm.eff := rfl
@[simp] theorem Team.updGroup_wbs (tm : Team) (g : Nat) (f : Group → Group) : (tm.updGroup g f).wbs = tm.wbs := rfl
@[simp] theorem Team.updGroup_scr (tm : Team) (g : Nat) (f : Group → Group) : (tm.updGroup g f).scr = tm.scr := rfl
@[simp] theorem Team.updGroup_pinned (tm : Team) (g : Nat) (f : Group → Group) : (tm.updGroup g f).pinned = tm.pinned := rfl
@[simp] theorem Team.updGroup_refill (tm : Team) (g : Nat) (f : Group → Group) : (tm.updGroup g f).refill = tm.refill := rfl
@[simp] theorem Team.updGroup_accBase (tm : Team) (g : Nat) (f : Group → Group) : (tm.updGroup g f).accBase = tm.accBase := rfl
@[simp] theorem Team.updGroup_regBase (tm : Team) (g : Nat) (f : Group → Group) : (tm.updGroup g f).regBase = tm.regBase := rfl
@[simp] theorem Team.updGroup_area (tm : Team) (g : Nat) (f : Group → Group) : (tm.updGroup g f).area = tm.area := rfl
@[simp] theorem Team.updGroup_waiter (tm : Team) (g : Nat) (f : Group → Group) : (tm.updGroup g f).waiter = tm.waiter := rfl
@[simp] theorem Team.updGroup_reeval (tm : Team) (g : Nat) (f : Group → Group) : (tm.updGroup g f).reeval = tm.reeval := rfl
@[simp] theorem Team.updGroup_ret (tm : Team) (g : Nat) (f : Group → Group) : (tm.updGroup g f).ret = tm.ret := rfl
@[simp] theorem Team.updGroup_placedAt (tm : Team) (g : Nat) (f : Group → Group) : (tm.updGroup g f).placedAt = tm.placedAt := rfl
@[simp] theorem Team.updGroup_activeAt (tm : Team) (g : Nat) (f : Group → Group) : (tm.updGroup g f).activeAt = tm.activeAt := rfl
@[simp] theorem Team.updGroup_rotated (tm : Team) (g : Nat) (f : Group → Group) : (tm.updGroup g f).rotated = tm.rotated := rfl
@[simp] theorem Team.updGroup_readySince (tm : Team) (g : Nat) (f : Group → Group) : (tm.updGroup g f).readySince = tm.readySince := rfl
@[simp] theorem Team.updGroup_k63out (tm : Team) (g : Nat) (f : Group → Group) : (tm.updGroup g f).k63out = tm.k63out := rfl
@[simp] theorem Team.updGroup_stored (tm : Team) (g : Nat) (f : Group → Group) : (tm.updGroup g f).stored = tm.stored := rfl
@[simp] theorem Team.updGroup_xends (tm : Team) (g : Nat) (f : Group → Group) : (tm.updGroup g f).xends = tm.xends := rfl
@[simp] theorem Team.updGroup_soft (tm : Team) (g : Nat) (f : Group → Group) : (tm.updGroup g f).soft = tm.soft := rfl
@[simp] theorem Team.updGroup_fresh (tm : Team) (g : Nat) (f : Group → Group) : (tm.updGroup g f).fresh = tm.fresh := rfl
@[simp] theorem Team.updGroup_proceeds (tm : Team) (g : Nat) (f : Group → Group) : (tm.updGroup g f).proceeds = tm.proceeds := rfl
@[simp] theorem Team.updGroup_laters (tm : Team) (g : Nat) (f : Group → Group) : (tm.updGroup g f).laters = tm.laters := rfl
@[simp] theorem Team.updGroup_scrBad (tm : Team) (g : Nat) (f : Group → Group) : (tm.updGroup g f).scrBad = tm.scrBad := rfl
@[simp] theorem Team.leave_ctx (tm : Team) (tid : Nat) : (tm.leave tid).ctx = tm.ctx := rfl
@[simp] theorem Team.leave_core (tm : Team) (tid : Nat) : (tm.leave tid).core = tm.core := rfl
@[simp] theorem Team.leave_slot (tm : Team) (tid : Nat) : (tm.leave tid).slot = tm.slot := rfl
@[simp] theorem Team.leave_active (tm : Team) (tid : Nat) : (tm.leave tid).active = tm.active := rfl
@[simp] theorem Team.leave_life (tm : Team) (tid : Nat) : (tm.leave tid).life = tm.life := rfl
@[simp] theorem Team.leave_launch (tm : Team) (tid : Nat) : (tm.leave tid).launch = tm.launch := rfl
@[simp] theorem Team.leave_cell (tm : Team) (tid : Nat) : (tm.leave tid).cell = tm.cell := rfl
@[simp] theorem Team.leave_committed (tm : Team) (tid : Nat) : (tm.leave tid).committed = tm.committed := rfl
@[simp] theorem Team.leave_grid (tm : Team) (tid : Nat) : (tm.leave tid).grid = tm.grid := rfl
@[simp] theorem Team.leave_prio (tm : Team) (tid : Nat) : (tm.leave tid).prio = tm.prio := rfl
@[simp] theorem Team.leave_tr (tm : Team) (tid : Nat) : (tm.leave tid).tr = tm.tr := rfl
@[simp] theorem Team.leave_threads (tm : Team) (tid : Nat) : (tm.leave tid).threads = tm.threads := rfl
@[simp] theorem Team.leave_nextGroup (tm : Team) (tid : Nat) : (tm.leave tid).nextGroup = tm.nextGroup := rfl
@[simp] theorem Team.leave_k (tm : Team) (tid : Nat) : (tm.leave tid).k = tm.k := rfl
@[simp] theorem Team.leave_kf (tm : Team) (tid : Nat) : (tm.leave tid).kf = tm.kf := rfl
@[simp] theorem Team.leave_kexc (tm : Team) (tid : Nat) : (tm.leave tid).kexc = tm.kexc := rfl
@[simp] theorem Team.leave_cv (tm : Team) (tid : Nat) : (tm.leave tid).cv = tm.cv := rfl
@[simp] theorem Team.leave_aw (tm : Team) (tid : Nat) : (tm.leave tid).aw = tm.aw := rfl
@[simp] theorem Team.leave_ival (tm : Team) (tid : Nat) : (tm.leave tid).ival = tm.ival := rfl
@[simp] theorem Team.leave_cnt (tm : Team) (tid : Nat) : (tm.leave tid).cnt = tm.cnt := rfl
@[simp] theorem Team.leave_eff (tm : Team) (tid : Nat) : (tm.leave tid).eff = tm.eff := rfl
@[simp] theorem Team.leave_wbs (tm : Team) (tid : Nat) : (tm.leave tid).wbs = tm.wbs := rfl
@[simp] theorem Team.leave_scr (tm : Team) (tid : Nat) : (tm.leave tid).scr = tm.scr := rfl
@[simp] theorem Team.leave_pinned (tm : Team) (tid : Nat) : (tm.leave tid).pinned = tm.pinned := rfl
@[simp] theorem Team.leave_refill (tm : Team) (tid : Nat) : (tm.leave tid).refill = tm.refill := rfl
@[simp] theorem Team.leave_accBase (tm : Team) (tid : Nat) : (tm.leave tid).accBase = tm.accBase := rfl
@[simp] theorem Team.leave_regBase (tm : Team) (tid : Nat) : (tm.leave tid).regBase = tm.regBase := rfl
@[simp] theorem Team.leave_area (tm : Team) (tid : Nat) : (tm.leave tid).area = tm.area := rfl
@[simp] theorem Team.leave_waiter (tm : Team) (tid : Nat) : (tm.leave tid).waiter = tm.waiter := rfl
@[simp] theorem Team.leave_reeval (tm : Team) (tid : Nat) : (tm.leave tid).reeval = tm.reeval := rfl
@[simp] theorem Team.leave_ret (tm : Team) (tid : Nat) : (tm.leave tid).ret = tm.ret := rfl
@[simp] theorem Team.leave_placedAt (tm : Team) (tid : Nat) : (tm.leave tid).placedAt = tm.placedAt := rfl
@[simp] theorem Team.leave_activeAt (tm : Team) (tid : Nat) : (tm.leave tid).activeAt = tm.activeAt := rfl
@[simp] theorem Team.leave_rotated (tm : Team) (tid : Nat) : (tm.leave tid).rotated = tm.rotated := rfl
@[simp] theorem Team.leave_readySince (tm : Team) (tid : Nat) : (tm.leave tid).readySince = tm.readySince := rfl
@[simp] theorem Team.leave_k63out (tm : Team) (tid : Nat) : (tm.leave tid).k63out = tm.k63out := rfl
@[simp] theorem Team.leave_stored (tm : Team) (tid : Nat) : (tm.leave tid).stored = tm.stored := rfl
@[simp] theorem Team.leave_xends (tm : Team) (tid : Nat) : (tm.leave tid).xends = tm.xends := rfl
@[simp] theorem Team.leave_soft (tm : Team) (tid : Nat) : (tm.leave tid).soft = tm.soft := rfl
@[simp] theorem Team.leave_fresh (tm : Team) (tid : Nat) : (tm.leave tid).fresh = tm.fresh := rfl
@[simp] theorem Team.leave_proceeds (tm : Team) (tid : Nat) : (tm.leave tid).proceeds = tm.proceeds := rfl
@[simp] theorem Team.leave_laters (tm : Team) (tid : Nat) : (tm.leave tid).laters = tm.laters := rfl
@[simp] theorem Team.leave_scrBad (tm : Team) (tid : Nat) : (tm.leave tid).scrBad = tm.scrBad := rfl
@[simp] theorem Thread.goto_exited (th : Thread) (pc : DWord) : (th.goto pc).exited = th.exited := rfl
@[simp] theorem Thread.goto_v (th : Thread) (pc : DWord) : (th.goto pc).v = th.v := rfl
@[simp] theorem Thread.goto_stamp (th : Thread) (pc : DWord) : (th.goto pc).stamp = th.stamp := rfl
@[simp] theorem Thread.goto_p (th : Thread) (pc : DWord) : (th.goto pc).p = th.p := rfl
@[simp] theorem Thread.goto_xlo (th : Thread) (pc : DWord) : (th.goto pc).xlo = th.xlo := rfl
@[simp] theorem Thread.goto_xhi (th : Thread) (pc : DWord) : (th.goto pc).xhi = th.xhi := rfl
@[simp] theorem Thread.goto_epc (th : Thread) (pc : DWord) : (th.goto pc).epc = th.epc := rfl
@[simp] theorem Thread.goto_ecause (th : Thread) (pc : DWord) : (th.goto pc).ecause = th.ecause := rfl
@[simp] theorem Thread.goto_eva (th : Thread) (pc : DWord) : (th.goto pc).eva = th.eva := rfl
@[simp] theorem Thread.goto_hm (th : Thread) (pc : DWord) : (th.goto pc).hm = th.hm := rfl
@[simp] theorem Thread.goto_rr (th : Thread) (pc : DWord) : (th.goto pc).rr = th.rr := rfl
@[simp] theorem Thread.goto_ran (th : Thread) (pc : DWord) : (th.goto pc).ran = th.ran := rfl
@[simp] theorem Thread.goto_nmid (th : Thread) (pc : DWord) : (th.goto pc).nmid = th.nmid := rfl
@[simp] theorem Thread.goto_trMid (th : Thread) (pc : DWord) : (th.goto pc).trMid = th.trMid := rfl
@[simp] theorem Thread.goto_rcause (th : Thread) (pc : DWord) : (th.goto pc).rcause = th.rcause := rfl
@[simp] theorem Thread.goto_region (th : Thread) (pc : DWord) : (th.goto pc).region = th.region := rfl
@[simp] theorem Thread.goto_age (th : Thread) (pc : DWord) : (th.goto pc).age = th.age := rfl
@[simp] theorem Thread.goto_soft (th : Thread) (pc : DWord) : (th.goto pc).soft = th.soft := rfl
@[simp] theorem Thread.goto_arrivals (th : Thread) (pc : DWord) : (th.goto pc).arrivals = th.arrivals.map (fun r => { r with left := true }) := rfl
@[simp] theorem Thread.goto_xres (th : Thread) (pc : DWord) : (th.goto pc).xres = none := rfl
@[simp] theorem Thread.goto_fseq (th : Thread) (pc : DWord) : (th.goto pc).fseq = th.fseq := rfl
@[simp] theorem Thread.goto_fences (th : Thread) (pc : DWord) : (th.goto pc).fences = th.fences := rfl
@[simp] theorem Thread.goto_armed (th : Thread) (pc : DWord) : (th.goto pc).armed = th.armed := rfl
@[simp] theorem Thread.goto_mcheck (th : Thread) (pc : DWord) : (th.goto pc).mcheck = th.mcheck := rfl
@[simp] theorem Thread.goto_sent (th : Thread) (pc : DWord) : (th.goto pc).sent = th.sent := rfl
@[simp] theorem Thread.goto_yielded (th : Thread) (pc : DWord) : (th.goto pc).yielded = th.yielded := rfl
@[simp] theorem Thread.goto_lver (th : Thread) (pc : DWord) : (th.goto pc).lver = th.lver := rfl
@[simp] theorem Thread.goto_bad (th : Thread) (pc : DWord) : (th.goto pc).bad = th.bad := rfl
@[simp] theorem Thread.goto_due (th : Thread) (pc : DWord) : (th.goto pc).due = th.due := rfl
@[simp] theorem Thread.goto_ncs (th : Thread) (pc : DWord) : (th.goto pc).ncs = th.ncs := rfl
@[simp] theorem Thread.goto_mwait (th : Thread) (pc : DWord) : (th.goto pc).mwait = none := rfl
@[simp] theorem Thread.goto_crossAt (th : Thread) (pc : DWord) : (th.goto pc).crossAt = th.crossAt := rfl
@[simp] theorem Thread.setReg_pc (th : Thread) (r : Reg) (x : DWord) : (th.setReg r x).pc = th.pc := by
  cases r <;> first | rfl | (simp only [Thread.setReg]; split <;> rfl)
@[simp] theorem Thread.setReg_exited (th : Thread) (r : Reg) (x : DWord) : (th.setReg r x).exited = th.exited := by
  cases r <;> first | rfl | (simp only [Thread.setReg]; split <;> rfl)
@[simp] theorem Thread.setReg_stamp (th : Thread) (r : Reg) (x : DWord) : (th.setReg r x).stamp = th.stamp := by
  cases r <;> first | rfl | (simp only [Thread.setReg]; split <;> rfl)
@[simp] theorem Thread.setReg_xlo (th : Thread) (r : Reg) (x : DWord) : (th.setReg r x).xlo = th.xlo := by
  cases r <;> first | rfl | (simp only [Thread.setReg]; split <;> rfl)
@[simp] theorem Thread.setReg_xhi (th : Thread) (r : Reg) (x : DWord) : (th.setReg r x).xhi = th.xhi := by
  cases r <;> first | rfl | (simp only [Thread.setReg]; split <;> rfl)
@[simp] theorem Thread.setReg_epc (th : Thread) (r : Reg) (x : DWord) : (th.setReg r x).epc = th.epc := by
  cases r <;> first | rfl | (simp only [Thread.setReg]; split <;> rfl)
@[simp] theorem Thread.setReg_ecause (th : Thread) (r : Reg) (x : DWord) : (th.setReg r x).ecause = th.ecause := by
  cases r <;> first | rfl | (simp only [Thread.setReg]; split <;> rfl)
@[simp] theorem Thread.setReg_eva (th : Thread) (r : Reg) (x : DWord) : (th.setReg r x).eva = th.eva := by
  cases r <;> first | rfl | (simp only [Thread.setReg]; split <;> rfl)
@[simp] theorem Thread.setReg_hm (th : Thread) (r : Reg) (x : DWord) : (th.setReg r x).hm = th.hm := by
  cases r <;> first | rfl | (simp only [Thread.setReg]; split <;> rfl)
@[simp] theorem Thread.setReg_rr (th : Thread) (r : Reg) (x : DWord) : (th.setReg r x).rr = th.rr := by
  cases r <;> first | rfl | (simp only [Thread.setReg]; split <;> rfl)
@[simp] theorem Thread.setReg_ran (th : Thread) (r : Reg) (x : DWord) : (th.setReg r x).ran = th.ran := by
  cases r <;> first | rfl | (simp only [Thread.setReg]; split <;> rfl)
@[simp] theorem Thread.setReg_mid (th : Thread) (r : Reg) (x : DWord) : (th.setReg r x).mid = th.mid := by
  cases r <;> first | rfl | (simp only [Thread.setReg]; split <;> rfl)
@[simp] theorem Thread.setReg_nmid (th : Thread) (r : Reg) (x : DWord) : (th.setReg r x).nmid = th.nmid := by
  cases r <;> first | rfl | (simp only [Thread.setReg]; split <;> rfl)
@[simp] theorem Thread.setReg_trMid (th : Thread) (r : Reg) (x : DWord) : (th.setReg r x).trMid = th.trMid := by
  cases r <;> first | rfl | (simp only [Thread.setReg]; split <;> rfl)
@[simp] theorem Thread.setReg_rcause (th : Thread) (r : Reg) (x : DWord) : (th.setReg r x).rcause = th.rcause := by
  cases r <;> first | rfl | (simp only [Thread.setReg]; split <;> rfl)
@[simp] theorem Thread.setReg_region (th : Thread) (r : Reg) (x : DWord) : (th.setReg r x).region = th.region := by
  cases r <;> first | rfl | (simp only [Thread.setReg]; split <;> rfl)
@[simp] theorem Thread.setReg_age (th : Thread) (r : Reg) (x : DWord) : (th.setReg r x).age = th.age := by
  cases r <;> first | rfl | (simp only [Thread.setReg]; split <;> rfl)
@[simp] theorem Thread.setReg_held (th : Thread) (r : Reg) (x : DWord) : (th.setReg r x).held = th.held := by
  cases r <;> first | rfl | (simp only [Thread.setReg]; split <;> rfl)
@[simp] theorem Thread.setReg_npc (th : Thread) (r : Reg) (x : DWord) : (th.setReg r x).npc = th.npc := by
  cases r <;> first | rfl | (simp only [Thread.setReg]; split <;> rfl)
@[simp] theorem Thread.setReg_arrivals (th : Thread) (r : Reg) (x : DWord) : (th.setReg r x).arrivals = th.arrivals := by
  cases r <;> first | rfl | (simp only [Thread.setReg]; split <;> rfl)
@[simp] theorem Thread.setReg_xres (th : Thread) (r : Reg) (x : DWord) : (th.setReg r x).xres = th.xres := by
  cases r <;> first | rfl | (simp only [Thread.setReg]; split <;> rfl)
@[simp] theorem Thread.setReg_fseq (th : Thread) (r : Reg) (x : DWord) : (th.setReg r x).fseq = th.fseq := by
  cases r <;> first | rfl | (simp only [Thread.setReg]; split <;> rfl)
@[simp] theorem Thread.setReg_fences (th : Thread) (r : Reg) (x : DWord) : (th.setReg r x).fences = th.fences := by
  cases r <;> first | rfl | (simp only [Thread.setReg]; split <;> rfl)
@[simp] theorem Thread.setReg_armed (th : Thread) (r : Reg) (x : DWord) : (th.setReg r x).armed = th.armed := by
  cases r <;> first | rfl | (simp only [Thread.setReg]; split <;> rfl)
@[simp] theorem Thread.setReg_part (th : Thread) (r : Reg) (x : DWord) : (th.setReg r x).part = th.part := by
  cases r <;> first | rfl | (simp only [Thread.setReg]; split <;> rfl)
@[simp] theorem Thread.setReg_mcheck (th : Thread) (r : Reg) (x : DWord) : (th.setReg r x).mcheck = th.mcheck := by
  cases r <;> first | rfl | (simp only [Thread.setReg]; split <;> rfl)
@[simp] theorem Thread.setReg_sent (th : Thread) (r : Reg) (x : DWord) : (th.setReg r x).sent = th.sent := by
  cases r <;> first | rfl | (simp only [Thread.setReg]; split <;> rfl)
@[simp] theorem Thread.setReg_yielded (th : Thread) (r : Reg) (x : DWord) : (th.setReg r x).yielded = th.yielded := by
  cases r <;> first | rfl | (simp only [Thread.setReg]; split <;> rfl)
@[simp] theorem Thread.setReg_pwait (th : Thread) (r : Reg) (x : DWord) : (th.setReg r x).pwait = th.pwait := by
  cases r <;> first | rfl | (simp only [Thread.setReg]; split <;> rfl)
@[simp] theorem Thread.setReg_due (th : Thread) (r : Reg) (x : DWord) : (th.setReg r x).due = th.due := by
  cases r <;> first | rfl | (simp only [Thread.setReg]; split <;> rfl)
@[simp] theorem Thread.setReg_ncs (th : Thread) (r : Reg) (x : DWord) : (th.setReg r x).ncs = th.ncs := by
  cases r <;> first | rfl | (simp only [Thread.setReg]; split <;> rfl)
@[simp] theorem Thread.setReg_mwait (th : Thread) (r : Reg) (x : DWord) : (th.setReg r x).mwait = th.mwait := by
  cases r <;> first | rfl | (simp only [Thread.setReg]; split <;> rfl)
@[simp] theorem Thread.setReg_crossAt (th : Thread) (r : Reg) (x : DWord) : (th.setReg r x).crossAt = th.crossAt := by
  cases r <;> first | rfl | (simp only [Thread.setReg]; split <;> rfl)

end Sys2Proof.Machine
end

