-- ==== Sys2Proof/Laws/Ops.lean ====
section
/-! SUPPORT. What the shared operations over registers and groups can do: writing registers, advancing a group, the gate. -/

namespace Sys2Proof.Machine

-- Lists and teams.

theorem getElem?_updAt {α : Type} (l : List α) (n i : Nat) (f : α → α) : (updAt l n f)[i]? = if i = n then (l[i]?).map f else l[i]? := by
  induction l generalizing n i with
  | nil => simp [updAt]
  | cons a l ih =>
    cases n with
    | zero => cases i <;> simp [updAt]
    | succ n => cases i <;> simp [updAt, ih]

@[simp] theorem length_updAt {α : Type} (l : List α) (n : Nat) (f : α → α) : (updAt l n f).length = l.length := by
  induction l generalizing n with
  | nil => rfl
  | cons a l ih => cases n <;> simp [updAt, ih]

@[simp] theorem Team.length_updThread (tm : Team) (tid : Nat) (f : Thread → Thread) : (tm.updThread tid f).threads.length = tm.threads.length := by
  simp [Team.updThread]

theorem Team.thread_updThread (tm : Team) (tid i : Nat) (f : Thread → Thread) :
    (tm.updThread tid f).thread i = if i = tid ∧ tid < tm.threads.length then f (tm.thread tid) else tm.thread i := by
  simp only [Team.thread, Team.updThread, getElem?_updAt]
  by_cases h : i = tid
  · subst h
    by_cases h' : i < tm.threads.length
    · simp [h']
    · simp [h']
  · simp [h]

theorem State.team?_updTeam (s : State) (t u : Nat) (f : Team → Team) : (s.updTeam t f).team? u = if u = t then (s.team? t).map f else s.team? u := by
  simp only [State.team?, State.updTeam, FMap.get?_upd]

@[simp] theorem State.team?_updTeam_self (s : State) (t : Nat) (f : Team → Team) : (s.updTeam t f).team? t = (s.team? t).map f := by
  simp [State.team?_updTeam]

theorem State.updTeam_updTeam (s : State) (t : Nat) (f g : Team → Team) : (s.updTeam t f).updTeam t g = s.updTeam t (fun tm => g (f tm)) := by
  simp only [State.updTeam, FMap.upd_upd]

-- Registers.

/-- What a register holds of a value written to it. -/
def Reg.clip : Reg → DWord → DWord
  | .v _, x => (x.setWidth 32).setWidth 64
  | .t _, x => (x.setWidth 32).setWidth 64
  | .p _, x => BitVec.ofNat 64 (x.toNat % 2)
  | .k _, x => x
  | .kf, x => (x.setWidth 4).setWidth 64

/-- A register that can be written: p7 cannot. -/
def Reg.ok : Reg → Bool
  | .p n => decide (n < 7)
  | _ => true

theorem setBits_pred : ∀ (p : Fin 128) (n m : Fin 7) (b : Fin 2),
    (BitVec.ofNat 7 (setBits p.val n.val 1 b.val)).getLsbD m.val = if m = n then b == 1 else (BitVec.ofNat 7 p.val).getLsbD m.val := by
  decide +kernel

theorem getLsbD_setBits (p : BitVec 7) (n m x : Nat) (hn : n < 7) (hm : m < 7) :
    (BitVec.ofNat 7 (setBits p.toNat n 1 (x % 2))).getLsbD m = if m = n then x % 2 == 1 else p.getLsbD m := by
  have := setBits_pred ⟨p.toNat, p.isLt⟩ ⟨n, hn⟩ ⟨m, hm⟩ ⟨x % 2, Nat.mod_lt _ (by decide)⟩
  simp only [BitVec.ofNat_toNat, BitVec.setWidth_eq, Fin.mk.injEq] at this
  rw [this]
  split
  · simp [Fin.ext_iff]
  · rfl

theorem Thread.reg_setReg (th : Thread) (tid : Nat) (r : Reg) (x : DWord) (hr : r.isTeam = false) (ho : r.ok = true) :
    (th.setReg r x).reg tid r = r.clip x := by
  cases r with
  | v n => simp [Thread.setReg, Thread.reg, Reg.clip]
  | t n => simp [Thread.setReg, Thread.reg, Reg.clip]
  | p n =>
    have hn : n < 7 := by simpa [Reg.ok] using ho
    have h7 : n ≠ 7 := by omega
    have := getLsbD_setBits th.p n n x.toNat hn hn
    simp only [Thread.setReg, Thread.reg, Reg.clip, hn, h7, if_true, if_false] at this ⊢
    rw [this]
    rcases Nat.mod_two_eq_zero_or_one x.toNat with h | h <;> simp [h, b2n]
  | k n => simp [Reg.isTeam] at hr
  | kf => simp [Reg.isTeam] at hr

theorem Thread.reg_setReg_ne (th : Thread) (tid : Nat) (r q : Reg) (x : DWord) (h : q ≠ r) : (th.setReg r x).reg tid q = th.reg tid q := by
  cases r with
  | v n =>
    cases q with
    | v m => have : m ≠ n := fun e => h (by rw [e]); simp [Thread.setReg, Thread.reg, FMap.getD_set_ne, this]
    | _ => rfl
  | t n =>
    cases q with
    | t m => have : m ≠ n := fun e => h (by rw [e]); simp [Thread.setReg, Thread.reg, FMap.getD_set_ne, this]
    | _ => rfl
  | p n =>
    by_cases hn : n < 7
    · cases q with
      | p m =>
        have hne : m ≠ n := fun e => h (by rw [e])
        by_cases hm : m < 7
        · have := getLsbD_setBits th.p n m x.toNat hn hm
          simp only [Thread.setReg, Thread.reg, hn, if_true, hne, if_false] at this ⊢
          rw [this]
        · by_cases h7 : m = 7
          · simp [Thread.reg, h7]
          · have : 7 ≤ m := by omega
            simp [Thread.setReg, Thread.reg, hn, h7, BitVec.getLsbD_of_ge _ _ this]
      | _ => simp [Thread.setReg, Thread.reg, hn]
    · simp only [Thread.setReg, hn, if_false]
      cases q <;> rfl
  | k n => cases q <;> rfl
  | kf => cases q <;> rfl

@[simp] theorem Team.length_setReg (tm : Team) (tid : Nat) (r : Reg) (x : DWord) : (tm.setReg tid r x).threads.length = tm.threads.length := by
  cases r <;> simp [Team.setReg]

theorem Team.reg_eq (tm : Team) (tid : Nat) (r : Reg) (h : r.isTeam = false) : tm.reg tid r = (tm.thread tid).reg tid r := by
  cases r <;> simp_all [Team.reg, Reg.isTeam]

theorem Team.setReg_eq (tm : Team) (tid : Nat) (r : Reg) (x : DWord) (h : r.isTeam = false) :
    tm.setReg tid r x = tm.updThread tid (fun th => th.setReg r x) := by
  cases r <;> simp_all [Team.setReg, Reg.isTeam]

/-- A register read after it was written. -/
theorem Team.reg_setReg (tm : Team) (tid i : Nat) (r : Reg) (x : DWord) (ho : r.ok = true)
    (h : r.isTeam = false → i = tid ∧ tid < tm.threads.length) : (tm.setReg tid r x).reg i r = r.clip x := by
  by_cases hr : r.isTeam = false
  · obtain ⟨rfl, hl⟩ := h hr
    rw [Team.setReg_eq _ _ _ _ hr, Team.reg_eq _ _ _ hr, Team.thread_updThread]
    simp [hl, Thread.reg_setReg _ _ _ _ hr ho]
  · cases r <;> simp_all [Team.setReg, Team.reg, Reg.clip, Team.kreg, Reg.isTeam]

/-- Another register, or another thread's, holds what it held. -/
theorem Team.reg_setReg_ne (tm : Team) (tid i : Nat) (r q : Reg) (x : DWord) (h : q = r → r.isTeam = false ∧ i ≠ tid) :
    (tm.setReg tid r x).reg i q = tm.reg i q := by
  by_cases hq : q = r
  · subst hq
    obtain ⟨hr, hi⟩ := h rfl
    rw [Team.setReg_eq _ _ _ _ hr, Team.reg_eq _ _ _ hr, Team.reg_eq _ _ _ hr, Team.thread_updThread]
    simp [hi]
  · by_cases hr : r.isTeam = false
    · rw [Team.setReg_eq _ _ _ _ hr]
      by_cases hqt : q.isTeam = false
      · rw [Team.reg_eq _ _ _ hqt, Team.reg_eq _ _ _ hqt, Team.thread_updThread]
        split
        · next e => rw [Thread.reg_setReg_ne _ _ _ _ _ hq, e.1]
        · rfl
      · cases q <;> simp_all [Team.reg, Team.kreg, Reg.isTeam]
    · cases r with
      | k n =>
        cases q with
        | k m =>
          have : m ≠ n := fun e => hq (by rw [e])
          simp [Team.setReg, Team.reg, Team.kreg, FMap.getD_set_ne, this]
        | _ => rfl
      | kf => cases q <;> first | rfl | exact absurd rfl hq
      | _ => simp [Reg.isTeam] at hr

/-- A team after a list of register writes, in order. -/
def Team.writes (tm : Team) (ws : List (Nat × Reg × DWord)) : Team := ws.foldl (fun tm w => tm.setReg w.1 w.2.1 w.2.2) tm

@[simp] theorem Team.length_writes (ws : List (Nat × Reg × DWord)) (tm : Team) : (tm.writes ws).threads.length = tm.threads.length := by
  induction ws generalizing tm with
  | nil => rfl
  | cons w ws ih => exact (ih _).trans (Team.length_setReg _ _ _ _)

theorem Team.reg_writes_out (ws : List (Nat × Reg × DWord)) (tm : Team) (tid : Nat) (r : Reg)
    (h : ∀ w ∈ ws, w.2.1 = r → r.isTeam = false ∧ w.1 ≠ tid) : (tm.writes ws).reg tid r = tm.reg tid r := by
  induction ws generalizing tm with
  | nil => rfl
  | cons w ws ih =>
    refine (ih _ (fun x hx => h x (List.mem_cons_of_mem _ hx))).trans (Team.reg_setReg_ne _ _ _ _ _ _ (fun e => ?_))
    obtain ⟨h1, h2⟩ := h w List.mem_cons_self e.symm
    exact ⟨e ▸ h1, fun e' => h2 e'.symm⟩

theorem Team.reg_writes_in (ws : List (Nat × Reg × DWord)) (tm : Team) (tid : Nat) (r : Reg) (x : DWord) (ho : r.ok = true)
    (hl : r.isTeam = false → tid < tm.threads.length) (hx : r.clip x = x)
    (h : ∀ w ∈ ws, w.2.1 = r → (r.isTeam = true ∨ w.1 = tid) → w.2.2 = x)
    (hit : (∃ w ∈ ws, w.2.1 = r ∧ (r.isTeam = true ∨ w.1 = tid)) ∨ tm.reg tid r = x) : (tm.writes ws).reg tid r = x := by
  induction ws generalizing tm with
  | nil => simpa [Team.writes] using hit
  | cons w ws ih =>
    refine ih (tm.setReg w.1 w.2.1 w.2.2) (by simpa using hl) (fun y hy => h y (List.mem_cons_of_mem _ hy)) ?_
    by_cases hw : w.2.1 = r ∧ (r.isTeam = true ∨ w.1 = tid)
    · right
      obtain ⟨h1, h2⟩ := hw
      have hv := h w List.mem_cons_self h1 h2
      rw [h1, hv]
      refine (Team.reg_setReg _ _ _ _ _ ho (fun hr => ?_)).trans hx
      rcases h2 with h2 | h2
      · simp [hr] at h2
      · exact ⟨h2.symm, h2 ▸ hl hr⟩
    · rcases hit with ⟨y, hy, h1, h2⟩ | hit
      · rcases List.mem_cons.mp hy with e | hy
        · subst e; exact absurd ⟨h1, h2⟩ hw
        · exact .inl ⟨y, hy, h1, h2⟩
      · right
        rw [← hit]
        refine Team.reg_setReg_ne _ _ _ _ _ _ (fun e => ?_)
        have hn : ¬ (r.isTeam = true ∨ w.1 = tid) := fun h2 => hw ⟨e.symm, h2⟩
        refine ⟨?_, fun e' => hn (.inr e'.symm)⟩
        rw [← e]
        cases hr : r.isTeam
        · rfl
        · exact absurd (.inl hr) hn

-- Threads and teams that differ only in registers and place.

theorem SameThread.refl (a : Thread) : SameThread a a := rfl

@[simp] theorem Thread.met_goto (th : Thread) (pc : DWord) : (th.goto pc).met = th.met := by simp [Thread.met, Function.comp_def]

theorem SameThread.trans {a b c : Thread} (h : SameThread a b) (k : SameThread b c) : SameThread a c := by
  obtain ⟨⟩ := a; obtain ⟨⟩ := b; obtain ⟨⟩ := c
  simp only [SameThread, Thread.met, Thread.mk.injEq] at *
  simp_all

theorem SameThread.setReg (a : Thread) (r : Reg) (x : DWord) : SameThread a (a.setReg r x) := by
  cases r <;> first | rfl | (simp only [SameThread, Thread.setReg]; split <;> rfl)

theorem SameTeam.refl (a : Team) : SameTeam a a := ⟨rfl, rfl, fun _ => rfl⟩

theorem SameTeam.trans {a b c : Team} (h : SameTeam a b) (k : SameTeam b c) : SameTeam a c := by
  refine ⟨?_, k.2.1.trans h.2.1, fun tid => (h.2.2 tid).trans (k.2.2 tid)⟩
  have h1 := h.1; have k1 := k.1
  obtain ⟨⟩ := a; obtain ⟨⟩ := b; obtain ⟨⟩ := c
  simp only [Team.mk.injEq] at *
  simp_all

/-- Changing a thread only in its registers and place. -/
theorem SameTeam.updThread (a : Team) (tid : Nat) (f : Thread → Thread) (h : ∀ th, SameThread th (f th)) : SameTeam a (a.updThread tid f) := by
  refine ⟨rfl, by simp, fun i => ?_⟩
  rw [Team.thread_updThread]
  split
  · next e => rw [e.1]; exact h _
  · rfl

theorem SameTeam.setReg (a : Team) (tid : Nat) (r : Reg) (x : DWord) : SameTeam a (a.setReg tid r x) := by
  by_cases h : r.isTeam = false
  · rw [Team.setReg_eq _ _ _ _ h]; exact SameTeam.updThread _ _ _ (fun th => SameThread.setReg th r x)
  · cases r <;> first | exact ⟨rfl, rfl, fun _ => rfl⟩ | simp [Reg.isTeam] at h

theorem SameTeam.writes (ws : List (Nat × Reg × DWord)) (a : Team) : SameTeam a (a.writes ws) := by
  induction ws generalizing a with
  | nil => exact SameTeam.refl a
  | cons w ws ih => exact (SameTeam.setReg a w.1 w.2.1 w.2.2).trans (ih _)

theorem SameTeam.foldUpd (l : List Nat) (f : Nat → Thread → Thread) (h : ∀ tid th, SameThread th (f tid th)) (a : Team) :
    SameTeam a (l.foldl (fun tm tid => tm.updThread tid (f tid)) a) := by
  induction l generalizing a with
  | nil => exact SameTeam.refl a
  | cons x l ih => exact (SameTeam.updThread a x (f x) (h x)).trans (ih _)

@[simp] theorem Team.kexc_setReg (a : Team) (tid : Nat) (r : Reg) (x : DWord) : (a.setReg tid r x).kexc = a.kexc := by cases r <;> rfl
@[simp] theorem Team.groups_setReg (a : Team) (tid : Nat) (r : Reg) (x : DWord) : (a.setReg tid r x).groups = a.groups := by cases r <;> rfl

theorem Team.kexc_writes (ws : List (Nat × Reg × DWord)) (a : Team) : (a.writes ws).kexc = a.kexc := by
  induction ws generalizing a with
  | nil => rfl
  | cons w ws ih => exact (ih _).trans (by simp)

theorem Team.groups_writes (ws : List (Nat × Reg × DWord)) (a : Team) : (a.writes ws).groups = a.groups := by
  induction ws generalizing a with
  | nil => rfl
  | cons w ws ih => exact (ih _).trans (by simp)

theorem Team.foldUpd_fields (l : List Nat) (f : Nat → Thread → Thread) (a : Team) :
    (l.foldl (fun tm tid => tm.updThread tid (f tid)) a).kexc = a.kexc ∧ (l.foldl (fun tm tid => tm.updThread tid (f tid)) a).groups = a.groups ∧
    (l.foldl (fun tm tid => tm.updThread tid (f tid)) a).k = a.k ∧ (l.foldl (fun tm tid => tm.updThread tid (f tid)) a).kf = a.kf := by
  induction l generalizing a with
  | nil => exact ⟨rfl, rfl, rfl, rfl⟩
  | cons x l ih => exact ih _

/-- Threads changed without touching some register. -/
theorem Team.foldUpd_reg (l : List Nat) (f : Nat → Thread → Thread) (a : Team) (tid : Nat) (r : Reg)
    (h : ∀ i th, (f i th).reg tid r = th.reg tid r) : (l.foldl (fun tm tid => tm.updThread tid (f tid)) a).reg tid r = a.reg tid r := by
  induction l generalizing a with
  | nil => rfl
  | cons x l ih =>
    refine (ih _).trans ?_
    by_cases hr : r.isTeam = false
    · rw [Team.reg_eq _ _ _ hr, Team.reg_eq _ _ _ hr, Team.thread_updThread]
      split
      · next e => rw [h, e.1]
      · rfl
    · cases r <;> first | rfl | simp [Reg.isTeam] at hr

-- The state after register writes, and after a group moves on.

/-- Some team, some group. -/
theorem State.iss_eq {s : State} {c : Iss} (h : s.iss = some c) :
    s.cur = some (c.t, c.gid) ∧ s.team? c.t = some c.tm ∧ FMap.get? c.tm.groups c.gid = some c.g := by
  unfold State.iss at h
  split at h
  · simp at h
  · next t gid hc =>
    split at h
    · simp at h
    · next tm ht =>
      cases hg : FMap.get? tm.groups gid with
      | none => simp [hg] at h
      | some g =>
        rw [hg] at h
        simp only [Option.map_some, Option.some.injEq] at h
        subst h
        exact ⟨hc, ht, hg⟩

theorem State.writeRegs_eq {s : State} {t gid : Nat} {tm : Team} {g : Group} (lat : Nat) (ws : List (Nat × Reg × DWord))
    (ht : s.team? t = some tm) (hg : FMap.get? tm.groups gid = some g) :
    ∃ es, s.writeRegs t gid lat ws =
      s.updTeam t (fun now => ((now.writes ws).others gid ws tm).updGroup gid (fun g => { g with log := g.log ++ es })) := by
  unfold State.writeRegs
  simp only [ht, hg]
  exact ⟨_, rfl⟩

/-- What the other groups keep changes nothing of the group that writes. -/
theorem Team.get?_groups_others (tm old : Team) (gid : Nat) (ws : List (Nat × Reg × DWord)) :
    FMap.get? (tm.others gid ws old).groups gid = FMap.get? tm.groups gid := by
  simp only [Team.others]
  induction tm.groups with
  | nil => rfl
  | cons e m ih => obtain ⟨n, g⟩ := e; simp only [List.map_cons, FMap.get?]; split <;> simp_all

theorem Team.reg_updGroup (tm : Team) (gid : Nat) (f : Group → Group) (tid : Nat) (r : Reg) : (tm.updGroup gid f).reg tid r = tm.reg tid r := by
  cases r <;> rfl

theorem Team.reg_congr {a b : Team} (h1 : b.threads = a.threads) (h2 : b.k = a.k) (h3 : b.kf = a.kf) (tid : Nat) (r : Reg) :
    b.reg tid r = a.reg tid r := by
  cases r <;> simp [Team.reg, Team.thread, Team.kreg, h1, h2, h3]

/-- Two teams that differ only as SameTeam allows, with the same flags, and the same registers where `ok` asks for them. -/
structure SameRegs (a b : Team) (ok : Prop) : Prop where
  team : SameTeam a b
  kexc : b.kexc = a.kexc
  reg : ∀ tid r, (r.isT = true → ok) → b.reg tid r = a.reg tid r

theorem Thread.reg_goto (th : Thread) (pc : DWord) (tid : Nat) (r : Reg) (h : r.isT = false) : (th.goto pc).reg tid r = th.reg tid r := by
  cases r <;> first | rfl | simp [Reg.isT] at h

theorem Thread.reg_goOn (th : Thread) (due : Nat) (soft : List (Reg × List DWord)) (tid : Nat) (r : Reg) (h : r.isT = false) :
    (th.goOn due soft).reg tid r = th.reg tid r := by
  unfold Thread.goOn
  split
  · rfl
  · cases r <;> first | rfl | simp [Reg.isT] at h

theorem SameThread.goOn (th : Thread) (due : Nat) (soft : List (Reg × List DWord)) : SameThread th (th.goOn due soft) := by
  unfold Thread.goOn
  split
  · rfl
  · simp [SameThread, Thread.met, Thread.goto, Function.comp_def]

/-- A run that ends without a stall check: threads go on, registers but t0-t7 and L stand. -/
theorem State.endRun_eq {s : State} {t gid : Nat} {tm : Team} {g : Group} (named : List Reg)
    (ht : s.team? t = some tm) (hg : FMap.get? tm.groups gid = some g) (hc : g.chk = false) :
    ∃ (soft : Nat → List (Reg × List DWord)) (more : Team → List (Reg × List DWord)), s.endRun t gid named = s.updTeam t (fun tm =>
      { (g.tids.foldl (fun tm tid => tm.updThread tid (fun th => th.goOn g.due (soft tid))) tm) with
        groups := FMap.erase tm.groups gid, soft := more tm }) := by
  unfold State.endRun
  simp only [ht, hg, hc, Bool.false_and, Bool.false_eq_true, if_false]
  exact ⟨_, _, rfl⟩

theorem SameRegs.goOn (l : List Nat) (due : Nat) (soft : Nat → List (Reg × List DWord)) (more : Team → List (Reg × List DWord)) (gs : Team → FMap Group) (tm : Team) :
    SameRegs tm { (l.foldl (fun tm tid => tm.updThread tid (fun th => th.goOn due (soft tid))) tm) with groups := gs tm, soft := more tm } False := by
  have h := SameTeam.foldUpd l (fun tid th => th.goOn due (soft tid)) (fun tid th => SameThread.goOn th due (soft tid)) tm
  refine ⟨⟨?_, h.2.1, h.2.2⟩, (Team.foldUpd_fields l _ tm).1, fun tid r hr => ?_⟩
  · exact h.1
  · have hr : r.isT = false := by
      cases h : r.isT
      · rfl
      · exact absurd (hr h) id
    refine Eq.trans (Team.reg_congr rfl rfl rfl tid r) ?_
    exact Team.foldUpd_reg l (fun tid th => th.goOn due (soft tid)) tm tid r (fun i th => Thread.reg_goOn _ _ _ _ _ hr)

/-- Threads changed one after another: what holds between each change's two sides, and is reflexive and transitive, holds. -/
theorem Team.foldUpd_rel (R : Thread → Thread → Prop) (refl : ∀ a, R a a) (trans : ∀ a b c, R a b → R b c → R a c) (l : List Nat)
    (f : Nat → Thread → Thread) (h : ∀ i th, R th (f i th)) (a : Team) (tid : Nat) :
    R (a.thread tid) ((l.foldl (fun tm tid => tm.updThread tid (f tid)) a).thread tid) := by
  induction l generalizing a with
  | nil => exact refl _
  | cons x l ih =>
    refine trans _ _ _ ?_ (ih (a.updThread x (f x)))
    rw [Team.thread_updThread]
    split
    · next e => rw [e.1]; exact h _ _
    · exact refl _

/-- What every change brings about holds of each thread that is changed. -/
theorem Team.foldUpd_hit (Q : Thread → Prop) (l : List Nat) (f : Nat → Thread → Thread) (h : ∀ i th, Q (f i th)) (a : Team) (tid : Nat)
    (hl : tid < a.threads.length) (hit : tid ∈ l ∨ Q (a.thread tid)) : Q ((l.foldl (fun tm tid => tm.updThread tid (f tid)) a).thread tid) := by
  induction l generalizing a with
  | nil => simpa using hit
  | cons x l ih =>
    refine ih (a.updThread x (f x)) (by simpa using hl) ?_
    rw [Team.thread_updThread]
    by_cases e : tid = x
    · subst e
      right
      simp only [true_and, hl, if_true]
      exact h _ _
    · simp only [e, false_and, if_false]
      rcases hit with hit | hit
      · exact .inl ((List.mem_cons.mp hit).resolve_left e)
      · exact .inr hit

/-- Two threads with the same next address and the same end. -/
def SameWay (a b : Thread) : Prop := b.npc = a.npc ∧ b.exited = a.exited

theorem SameWay.goOn (th : Thread) (due : Nat) (soft : List (Reg × List DWord)) : SameWay th (th.goOn due soft) := by
  unfold Thread.goOn
  split <;> exact ⟨rfl, rfl⟩

/-- A group moving on: another instruction, or the end of a run without a stall check. -/
theorem State.advance_eq {s : State} {t gid : Nat} {tm : Team} {g : Group} (gap : Nat)
    (ht : s.team? t = some tm) (hg : FMap.get? tm.groups gid = some g)
    (hok : (g.idx + 1 ≠ g.body.length ∨ g.trl.isSome = true) ∨ g.chk = false) :
    ∃ f : Team → Team, s.advance t gid gap = { s.updTeam t f with cursor := s.cursor + 1, freeCtr := s.freeCtr + 1 } ∧
      SameRegs tm (f tm) (g.idx + 1 ≠ g.body.length ∨ g.trl.isSome = true) ∧ (∀ tid, SameWay (tm.thread tid) ((f tm).thread tid)) ∧
      (¬ (g.idx + 1 ≠ g.body.length ∨ g.trl.isSome = true) → ∀ tid ∈ g.tids, tid < tm.threads.length →
        ((f tm).thread tid).exited = true ∨ ((f tm).thread tid).pc = ((f tm).thread tid).npc) := by
  have way := fun (l : List Nat) (h : Nat → Thread → Thread) (hh : ∀ i th, SameWay th (h i th)) (a : Team) (tid : Nat) =>
    Team.foldUpd_rel SameWay (fun _ => ⟨rfl, rfl⟩) (fun _ _ _ h k => ⟨k.1.trans h.1, k.2.trans h.2⟩) l h hh a tid
  have hfold := SameTeam.foldUpd g.tids (fun _ => Thread.worked) (fun _ _ => rfl) tm
  have hreg := fun tid r => Team.foldUpd_reg g.tids (fun _ => Thread.worked) tm tid r (fun i th => by cases r <;> rfl)
  have hflds := Team.foldUpd_fields g.tids (fun _ => Thread.worked) tm
  let g' : Group := { g with idx := g.idx + 1, dist := g.dist + gap, due := s.clock + gap }
  let f0 : Team → Team := fun tm => { (g.tids.foldl (fun tm tid => tm.updThread tid Thread.worked) tm) with
          groups := FMap.set tm.groups gid g', ret := min (tm.ret + 1) (2 ^ 32 - 1) }
  have h0 : SameRegs tm (f0 tm) True := by
    refine ⟨⟨?_, hfold.2.1, hfold.2.2⟩, hflds.1, fun tid r _ => ?_⟩
    · exact hfold.1
    · exact (Team.reg_congr rfl rfl rfl tid r).trans (hreg tid r)
  by_cases hend : g.idx + 1 = g.body.length ∧ g.trl.isNone = true
  · have hchk : g.chk = false := by
      rcases hok with (h | h) | h
      · exact absurd hend.1 h
      · simp [Option.isNone_iff_eq_none.mp hend.2] at h
      · exact h
    let s1 : State := ({ s with cursor := s.cursor + 1, freeCtr := s.freeCtr + 1 } : State).updTeam t f0
    have ht1 : s1.team? t = some (f0 tm) := by
      have : ({ s with cursor := s.cursor + 1, freeCtr := s.freeCtr + 1 } : State).team? t = some tm := ht
      show (State.updTeam _ _ _).team? t = _
      rw [State.team?_updTeam_self, this]; rfl
    have hg1 : FMap.get? (f0 tm).groups gid = some g' := by simp [f0]
    obtain ⟨soft, more, h1⟩ := State.endRun_eq (s := s1) [] ht1 hg1 hchk
    let f1 : Team → Team := fun tm =>
      { (g'.tids.foldl (fun tm tid => tm.updThread tid (fun th => th.goOn g'.due (soft tid))) tm) with
        groups := FMap.erase tm.groups gid, soft := more tm }
    have h2 : SameRegs (f0 tm) (f1 (f0 tm)) False := SameRegs.goOn g'.tids g'.due soft more (fun tm => FMap.erase tm.groups gid) (f0 tm)
    refine ⟨fun x => f1 (f0 x), ?_, ?_⟩
    · have hadv : s.advance t gid gap = s1.endRun t gid [] := by
        unfold State.advance
        have : ({ s with cursor := s.cursor + 1, freeCtr := s.freeCtr + 1 } : State).team? t = some tm := ht
        simp only [this, hg]
        have hcond : (decide (g.idx + 1 = g.body.length) && g.trl.isNone) = true := by simp [hend.1, hend.2]
        simp only [hcond, if_true]
        rfl
      rw [hadv, h1]
      show State.updTeam (State.updTeam _ t f0) t f1 = _
      rw [State.updTeam_updTeam]
      rfl
    · refine ⟨⟨h0.team.trans h2.team, h2.kexc.trans h0.kexc, fun tid r hr => ?_⟩, fun tid => ?_, fun _ tid hm hl => ?_⟩
      rotate_left
      · have a1 : SameWay (tm.thread tid) ((f0 tm).thread tid) := way g.tids (fun _ => Thread.worked) (fun _ _ => ⟨rfl, rfl⟩) tm tid
        have a2 : SameWay ((f0 tm).thread tid) ((f1 (f0 tm)).thread tid) := way g'.tids (fun tid th => th.goOn g'.due (soft tid)) (fun _ _ => SameWay.goOn _ _ _) (f0 tm) tid
        exact ⟨a2.1.trans a1.1, a2.2.trans a1.2⟩
      · refine Team.foldUpd_hit (fun th => th.exited = true ∨ th.pc = th.npc) g'.tids (fun tid th => th.goOn g'.due (soft tid)) (fun i th => ?_) (f0 tm) tid
          (lt_of_lt_of_eq hl h0.team.2.1.symm) (.inl hm)
        unfold Thread.goOn
        split
        · next e => exact .inl e
        · exact .inr rfl
      have hno : r.isT = true → False := fun h => by
        rcases hr h with h | h
        · exact h hend.1
        · simp [Option.isNone_iff_eq_none.mp hend.2] at h
      exact (h2.reg tid r hno).trans (h0.reg tid r (fun _ => trivial))
  · refine ⟨f0, ?_, ⟨h0.team, h0.kexc, fun tid r _ => h0.reg tid r (fun _ => trivial)⟩, fun tid => way g.tids (fun _ => Thread.worked) (fun _ _ => ⟨rfl, rfl⟩) tm tid,
      fun hn => absurd ?_ hend⟩
    rotate_left
    · have := not_or.mp hn
      exact ⟨not_not.mp this.1, by simpa using this.2⟩
    unfold State.advance
    have : ({ s with cursor := s.cursor + 1, freeCtr := s.freeCtr + 1 } : State).team? t = some tm := ht
    simp only [this, hg]
    have hne : (decide (g.idx + 1 = g.body.length) && g.trl.isNone) = false := by
      by_cases h1 : g.idx + 1 = g.body.length
      · have : g.trl.isNone = false := by
          cases h2 : g.trl.isNone
          · rfl
          · exact absurd ⟨h1, h2⟩ hend
        simp [this]
      · simp [h1]
    simp only [hne, Bool.false_eq_true, if_false]
    rfl

/-- A team changed only in registers, flags, places, and the group moved on: what changed, and how the group's threads go on. -/
theorem State.advance_wrote {s : State} {c : Iss} (gap : Nat) (f2 : Team → Team) (hi : s.iss = some c) (he : c.endsWell) (g1 : Group)
    (hg1 : FMap.get? (f2 c.tm).groups c.gid = some g1) (hsame : g1.idx = c.g.idx ∧ g1.body = c.g.body ∧ g1.trl = c.g.trl ∧ g1.chk = c.g.chk ∧ g1.tids = c.g.tids)
    (hT : SameTeam c.tm (f2 c.tm)) (fl : BitVec 5) (hk : (f2 c.tm).kexc = c.tm.kexc ||| fl) (ws : List (Nat × Reg × DWord))
    (hin : ∀ w ∈ ws, (w.2.1.isTeam = false → w.1 < c.tm.threads.length) → (f2 c.tm).reg w.1 w.2.1 = w.2.2)
    (hout : ∀ tid r, (∀ w ∈ ws, w.2.1 = r → r.isTeam = false ∧ w.1 ≠ tid) → (f2 c.tm).reg tid r = c.tm.reg tid r) :
    WroteOnly s ((s.updTeam c.t f2).advance c.t c.gid gap) c ws fl ∧
    ∃ tm, ((s.updTeam c.t f2).advance c.t c.gid gap).team? c.t = some tm ∧ (∀ tid, SameWay ((f2 c.tm).thread tid) (tm.thread tid)) ∧
      (¬ c.goesOn → ∀ tid ∈ c.g.tids, tid < c.tm.threads.length → (tm.thread tid).exited = true ∨ (tm.thread tid).pc = (tm.thread tid).npc) := by
  obtain ⟨-, ht, hg⟩ := State.iss_eq hi
  let s1 : State := s.updTeam c.t f2
  have ht1 : s1.team? c.t = some (f2 c.tm) := by
    show (State.updTeam _ _ _).team? _ = _
    rw [State.team?_updTeam_self, ht]; rfl
  obtain ⟨e1, e2, e3, e4, e5⟩ := hsame
  have he' : (g1.idx + 1 ≠ g1.body.length ∨ g1.trl.isSome = true) ∨ g1.chk = false := by rw [e1, e2, e3, e4]; exact he
  obtain ⟨f, h2, h3, h4, h5⟩ := State.advance_eq (s := s1) gap ht1 hg1 he'
  rw [e1, e2, e3] at h3
  have ht2 : (s1.advance c.t c.gid gap).team? c.t = some (f (f2 c.tm)) := by
    rw [h2]
    show (State.updTeam _ _ _).team? _ = _
    rw [State.team?_updTeam_self, ht1]; rfl
  refine ⟨?_, f (f2 c.tm), ht2, h4, fun hn tid hm hl => ?_⟩
  rotate_left
  · refine h5 ?_ tid (by rw [e5]; exact hm) (lt_of_lt_of_eq hl hT.2.1.symm)
    rw [e1, e2, e3]
    exact hn
  show WroteOnly s (s1.advance c.t c.gid gap) c ws fl
  refine ⟨?_, ?_, f (f2 c.tm), ht2, ?_, ?_, ?_, ?_⟩
  · rw [h2]; rfl
  · intro u hu
    rw [h2]
    show (State.updTeam _ _ _).team? u = _
    rw [State.team?_updTeam, if_neg hu]
    show (State.updTeam _ _ _).team? u = _
    rw [State.team?_updTeam, if_neg hu]
  · exact hT.trans h3.team
  · rw [h3.kexc, hk]
  · intro w hw hl hT'
    rw [h3.reg w.1 w.2.1 hT']
    exact hin w hw hl
  · intro tid r hT' hno
    rw [h3.reg tid r hT']
    exact hout tid r hno

/-- An instruction that only writes registers, raises flags that start no record, and moves on. -/
theorem State.writeRegs_advance {s : State} {c : Iss} (lat gap : Nat) (ws : List (Nat × Reg × DWord)) (hi : s.iss = some c)
    (he : c.endsWell) (hok : ∀ w ∈ ws, w.2.1.ok = true ∧ w.2.1.clip w.2.2 = w.2.2)
    (hone : ∀ w ∈ ws, ∀ w' ∈ ws, w'.2.1 = w.2.1 → (w.2.1.isTeam = true ∨ w'.1 = w.1) → w'.2.2 = w.2.2) (fl : BitVec 5)
    (f : Team → Team) (hf : ∀ tm, SameTeam tm (f tm)) (hfk : ∀ tm, (f tm).kexc = tm.kexc ||| fl) (hfr : ∀ tm tid r, (f tm).reg tid r = tm.reg tid r)
    (hfg : ∀ tm, (f tm).groups = tm.groups) :
    WroteOnly s (((s.writeRegs c.t c.gid lat ws).updTeam c.t f).advance c.t c.gid gap) c ws fl ∧
    ∃ tm, (((s.writeRegs c.t c.gid lat ws).updTeam c.t f).advance c.t c.gid gap).team? c.t = some tm ∧
      (∃ tm0, SameTeam c.tm tm0 ∧ ∀ tid, SameWay ((f tm0).thread tid) (tm.thread tid)) ∧
      (¬ c.goesOn → ∀ tid ∈ c.g.tids, tid < c.tm.threads.length → (tm.thread tid).exited = true ∨ (tm.thread tid).pc = (tm.thread tid).npc) := by
  obtain ⟨-, ht, hg⟩ := State.iss_eq hi
  obtain ⟨es, h1⟩ := State.writeRegs_eq lat ws ht hg
  rw [h1]
  let f1 : Team → Team := fun tm => ((tm.writes ws).others c.gid ws c.tm).updGroup c.gid (fun g => { g with log := g.log ++ es })
  rw [State.updTeam_updTeam]
  have hS : SameTeam c.tm (f1 c.tm) := (SameTeam.writes ws c.tm).trans ⟨rfl, rfl, fun _ => rfl⟩
  have hr : ∀ tid r, (f (f1 c.tm)).reg tid r = (c.tm.writes ws).reg tid r := fun tid r =>
    (hfr _ tid r).trans (Team.reg_congr (a := c.tm.writes ws) rfl rfl rfl _ _)
  have key := State.advance_wrote (s := s) gap (fun tm => f (f1 tm)) hi he { c.g with log := c.g.log ++ es } ?_ ⟨rfl, rfl, rfl, rfl, rfl⟩
    (hS.trans (hf _)) fl ?_ ws ?_ ?_
  · exact ⟨key.1, key.2.choose, key.2.choose_spec.1, ⟨f1 c.tm, hS, key.2.choose_spec.2.1⟩, key.2.choose_spec.2.2⟩
  · rw [hfg]
    show FMap.get? (FMap.upd ((c.tm.writes ws).others c.gid ws c.tm).groups c.gid _) c.gid = _
    rw [FMap.get?_upd_self, Team.get?_groups_others, Team.groups_writes, hg]; rfl
  · rw [hfk]
    show ((c.tm.writes ws).kexc) ||| fl = _
    rw [Team.kexc_writes]
  · intro w hw hl
    obtain ⟨o1, o2⟩ := hok w hw
    rw [hr]
    exact Team.reg_writes_in ws c.tm w.1 w.2.1 w.2.2 o1 hl o2 (fun y hy e h => hone w hw y hy e h) (.inl ⟨w, hw, rfl, .inr rfl⟩)
  · intro tid r hno
    rw [hr]
    exact Team.reg_writes_out ws c.tm tid r hno

end Sys2Proof.Machine
end

