-- ==== Sys2Proof/Laws/Lane.lean ====
section
/-! SUPPORT. What the lane forms do: an execution that is ready passes the gate, writes its registers, raises its flags, moves on. -/

namespace Sys2Proof.Machine

theorem State.splitTraps_none {s : State} {c : Iss} {f : Nat → Option Trap} (h : ∀ tid ∈ c.g.tids, f tid = none) (k : State → Iss → State) :
    s.splitTraps c f k = k s c := by
  have : c.g.tids.filterMap (fun tid => (f tid).map (fun tr => (tid, tr))) = [] := by
    rw [List.filterMap_eq_nil_iff]
    intro tid ht
    simp [h tid ht]
  simp [State.splitTraps, this]

theorem State.gateAs_ready {s : State} {c : Iss} {u : Use} (h : Ready s c u) (whole : Bool) (k : State → Iss → State) : s.gateAs u whole k = k s c := by
  cases whole
  · simp [State.gateAs, h.iss, h.legal, h.inTime, h.free, State.splitTraps_none (fun tid ht => h.sound tid (List.mem_cons_of_mem _ ht))]
  · simp [State.gateAs, h.iss, h.legal, h.inTime, h.free, h.sound c.low List.mem_cons_self]

theorem State.gate_ready {s : State} {c : Iss} {u : Use} (h : Ready s c u) (k : State → Iss → State) : s.gate u k = k s c := State.gateAs_ready h false k

theorem FMap.set_get {α : Type} (m : FMap α) (n : Nat) (a : α) (h : FMap.get? m n = some a) : FMap.set m n a = m := by
  induction m with
  | nil => simp at h
  | cons e m ih =>
    obtain ⟨k, b⟩ := e
    simp only [FMap.get?] at h
    split at h
    · simp at h
    · next h1 =>
      split at h
      · next h2 => simp at h; subst h; subst h2; simp [FMap.set]
      · next h2 => simp [FMap.set, h1, h2, ih h]

theorem State.updTeam_same (s : State) (t : Nat) (f : Team → Team) (h : ∀ tm, s.team? t = some tm → f tm = tm) : s.updTeam t f = s := by
  have : FMap.upd s.teams t f = s.teams := by
    unfold FMap.upd
    split
    · next a ha => rw [h a ha]; exact FMap.set_get _ _ _ ha
    · rfl
  simp [State.updTeam, this]

theorem State.raiseFlags_quiet {s : State} {c : Iss} {lat : Nat} {fl : BitVec 5} (h : enabled c.tm.eff.sr fl = 0 ∨ c.tm.eff.sr.crumb.getLsbD 0 = false) :
    s.raiseFlags c lat fl = s.updTeam c.t (fun tm => tm.flag s.clock lat fl) := by
  unfold State.raiseFlags
  split
  · next h0 =>
    subst h0
    exact (State.updTeam_same _ _ _ (fun tm _ => by cases tm; simp [Team.flag])).symm
  · unfold State.crumb
    rcases h with h | h
    · simp [h]
    · simp only [h, Bool.not_false, Bool.or_true, if_true]

/-- Writes of one execution: each of its own thread, registers that can be written, values they hold, one value each. -/
def goodWrites (tid : Nat) (ws : List (Nat × Reg × DWord)) : Prop :=
  (∀ w ∈ ws, w.1 = tid ∧ w.2.1.ok = true ∧ w.2.1.isTeam = false ∧ w.2.1.clip w.2.2 = w.2.2) ∧
  ∀ w ∈ ws, ∀ w' ∈ ws, w'.2.1 = w.2.1 → w'.2.2 = w.2.2

theorem State.laneRun_wrote {s : State} {c : Iss} (lat gap : Nat) (f : Nat → List (Nat × Reg × DWord) × BitVec 5) (hi : s.iss = some c)
    (he : c.endsWell) (hg : ∀ tid, goodWrites tid (f tid).1) (fl : BitVec 5) (hf : (c.g.tids.map f).foldl (fun x o => x ||| o.2) 0 = fl)
    (hq : enabled c.tm.eff.sr fl = 0 ∨ c.tm.eff.sr.crumb.getLsbD 0 = false) :
    WroteOnly s (s.laneRun c lat gap f) c (c.g.tids.flatMap (fun tid => (f tid).1)) fl := by
  have hw : (c.g.tids.map f).flatMap Prod.fst = c.g.tids.flatMap (fun tid => (f tid).1) := by rw [List.flatMap_map]
  unfold State.laneRun
  simp only [hf, hw]
  rw [State.raiseFlags_quiet hq]
  refine (State.writeRegs_advance lat gap _ hi he ?_ ?_ fl (fun tm => tm.flag _ lat fl) (fun _ => ⟨rfl, rfl, fun _ => rfl⟩)
    (fun _ => rfl) (fun _ _ r => by cases r <;> rfl) (fun _ => rfl)).1
  · intro w hw
    obtain ⟨tid, -, h⟩ := List.mem_flatMap.mp hw
    obtain ⟨-, h1, -, h2⟩ := (hg tid).1 w h
    exact ⟨h1, h2⟩
  · intro w hw w' hw' e hsame
    obtain ⟨tid, -, h⟩ := List.mem_flatMap.mp hw
    obtain ⟨tid', -, h'⟩ := List.mem_flatMap.mp hw'
    obtain ⟨a1, -, a3, -⟩ := (hg tid).1 w h
    obtain ⟨b1, -, -, -⟩ := (hg tid').1 w' h'
    rcases hsame with h0 | h0
    · simp [a3] at h0
    · have : tid' = tid := by omega
      subst this
      exact (hg tid').2 w h w' h' e

theorem codeReg_ok {c : Nat} {r : Reg} (h : codeReg c = some r) : r.ok = true ∧ r.isTeam = false ∧ ∀ x : Word, r.clip (x.setWidth 64) = x.setWidth 64 := by
  unfold codeReg at h
  split at h
  · simp at h; subst h; simp [Reg.ok, Reg.isTeam, Reg.clip]
  · split at h
    · simp at h; subst h; simp [Reg.ok, Reg.isTeam, Reg.clip]
    · simp at h

theorem goodWrites_dst (tid d : Nat) (x : Word) : goodWrites tid (dstWrites tid d x) := by
  constructor
  · intro w hw
    simp only [dstWrites, List.mem_append, List.mem_singleton] at hw
    rcases hw with hw | hw
    · split at hw
      · simp only [List.mem_map, Option.mem_toList] at hw
        obtain ⟨r, hr, rfl⟩ := hw
        obtain ⟨h1, h2, h3⟩ := codeReg_ok hr
        exact ⟨rfl, h1, h2, h3 x⟩
      · simp at hw
    · subst hw; simp [Reg.ok, Reg.isTeam, Reg.clip]
  · have : ∀ w ∈ dstWrites tid d x, w.2.2 = x.setWidth 64 := by
      intro w hw
      simp only [dstWrites, List.mem_append, List.mem_singleton] at hw
      rcases hw with hw | hw
      · split at hw
        · simp only [List.mem_map] at hw
          obtain ⟨r, -, rfl⟩ := hw; rfl
        · simp at hw
      · subst hw; rfl
    intro w hw w' hw' _
    rw [this w hw, this w' hw']

theorem foldl_zero {α : Type} (l : List α) (f : α → BitVec 5) (h : ∀ a ∈ l, f a = 0) (x : BitVec 5) : l.foldl (fun x o => x ||| f o) x = x := by
  induction l generalizing x with
  | nil => rfl
  | cons a l ih =>
    simp only [List.foldl_cons]
    rw [h a List.mem_cons_self, ih (fun b hb => h b (List.mem_cons_of_mem _ hb))]
    simp

theorem laneRun_pure {s : State} {c : Iss} {u : Use} (h : Ready s c u) (he : c.endsWell) (lat gap d : Nat) (x : Nat → Word) :
    WroteOnly s (s.laneRun c lat gap (fun tid => (dstWrites tid d (x tid), 0))) c (c.g.tids.flatMap (fun tid => dstWrites tid d (x tid))) 0 := by
  refine State.laneRun_wrote lat gap (fun tid => (dstWrites tid d (x tid), 0)) h.iss he (fun tid => goodWrites_dst tid d _) 0 ?_ (.inl (by simp [enabled]))
  exact foldl_zero _ _ (by simp) _

theorem lane1_wrote {s : State} {c : Iss} {d a : Nat} (h : Ready s c ((Use.dst d 1).add (Use.src a 1))) (he : c.endsWell) (lat gap : Nat) (f g : Word → Word)
    (hfg : ∀ x, f x = g x) :
    WroteOnly s (s.lane1 lat gap d a (pure1 f)) c (c.g.tids.flatMap (fun tid => dstWrites tid d (g (c.src s tid a)))) 0 := by
  have : f = g := funext hfg
  subst this
  unfold State.lane1
  rw [State.gate_ready h]
  exact laneRun_pure h he lat gap d (fun tid => f (c.src s tid a))

theorem lane2_wrote {s : State} {c : Iss} {d a b : Nat} (h : Ready s c ((Use.dst d 1).add ((Use.src a 1).add (Use.src b 1)))) (he : c.endsWell)
    (lat gap : Nat) (f g : Word → Word → Word) (hfg : ∀ x y, f x y = g x y) :
    WroteOnly s (s.lane2 lat gap d a b (pure2 f)) c (c.g.tids.flatMap (fun tid => dstWrites tid d (g (c.src s tid a) (c.src s tid b)))) 0 := by
  have : f = g := funext fun x => funext fun y => hfg x y
  subst this
  unfold State.lane2
  rw [State.gate_ready h]
  exact laneRun_pure h he lat gap d (fun tid => f (c.src s tid a) (c.src s tid b))

theorem lane3_wrote {s : State} {c : Iss} {d a b : Nat} (h : Ready s c ((Use.dst d 1).add ((Use.src d 1).add ((Use.src a 1).add (Use.src b 1)))))
    (he : c.endsWell) (lat gap : Nat) (f g : Word → Word → Word → Word) (hfg : ∀ z x y, f z x y = g z x y) :
    WroteOnly s (s.lane3 lat gap d a b (pure3 f)) c
      (c.g.tids.flatMap (fun tid => dstWrites tid d (g (c.src s tid d) (c.src s tid a) (c.src s tid b)))) 0 := by
  have : f = g := funext fun z => funext fun x => funext fun y => hfg z x y
  subst this
  unfold State.lane3
  rw [State.gate_ready h]
  exact laneRun_pure h he lat gap d (fun tid => f (c.src s tid d) (c.src s tid a) (c.src s tid b))

theorem gate_wrote {s : State} {c : Iss} {u : Use} {k : State → Iss → State} {ws fl} (h : Ready s c u) (hk : WroteOnly s (k s c) c ws fl) :
    WroteOnly s (s.gate u k) c ws fl := by rw [State.gate_ready h]; exact hk

theorem preds_wrote {s : State} {c : Iss} {u : Use} {p : Nat} (hp : p < 7) (h : Ready s c u) (he : c.endsWell) (gap : Nat) (f : Nat → DWord) (g : Nat → Bool)
    (hfg : ∀ tid, f tid = BitVec.ofNat 64 (b2n (g tid))) :
    WroteOnly s (s.laneRun c 2 gap (fun tid => ([(tid, .p p, f tid)], 0))) c (c.g.tids.map (fun tid => (tid, .p p, if g tid then 1 else 0))) 0 := by
  have key := State.laneRun_wrote 2 gap (fun tid => ([(tid, Reg.p p, f tid)], (0 : BitVec 5))) h.iss he ?_ 0 ?_ (.inl (by simp [enabled]))
  · have e : (c.g.tids.flatMap (fun tid => [(tid, Reg.p p, f tid)])) = c.g.tids.map (fun tid => (tid, Reg.p p, if g tid then (1 : DWord) else 0)) := by
      induction c.g.tids with
      | nil => rfl
      | cons t l ih =>
        rw [List.flatMap_cons, ih, hfg, List.map_cons]
        cases g t <;> rfl
    rw [← e]
    exact key
  · intro tid
    constructor
    · intro w hw
      simp only [List.mem_singleton] at hw
      subst hw
      refine ⟨rfl, by simp [Reg.ok, hp], rfl, ?_⟩
      simp only [Reg.clip, hfg]
      cases g tid <;> rfl
    · intro w hw w' hw' _
      simp only [List.mem_singleton] at hw hw'
      rw [hw, hw']
  · exact foldl_zero _ _ (by simp) _

end Sys2Proof.Machine
end

