-- ==== Sys2Proof/Laws/Issue.lean ====
section
/-! SUPPORT. What the gates of accesses let through, what owed results leave, what the writes of a set's unit leave over, and the issue of one operation by a group of one thread. -/

namespace Sys2Proof.Machine

theorem Apart.gateFree {s : State} {c : Iss} {u : Use} (h : Apart s c u) (k : State → Iss → State) : s.gateFree u k = k s c := by
  have hc : c.closing = false := by
    simp only [Iss.closing, List.any_eq_false]
    intro tid ht
    simp [h.outside tid ht]
  unfold State.gateFree
  rw [State.gate_ready h.toReady]
  simp [hc]

theorem Apart.onward {s : State} {c : Iss} {u : Use} (h : Apart s c u) (k : State → Iss → State) : s.outside c k = k s c := by
  have hf : s.forbid c = none := by
    have : c.g.tids.filter (fun tid => (c.tm.thread tid).region.isSome) = [] := by
      rw [List.filter_eq_nil_iff]
      intro tid ht
      simp [h.outside tid ht]
    simp [State.forbid, this]
  simp [State.outside, hf]

theorem Apart.forbiddenFree {s : State} {c : Iss} {u : Use} (h : Apart s c u) (k : State → Iss → State) : s.forbiddenFree u k = k s c := by
  unfold State.forbiddenFree
  rw [h.gateFree]
  exact h.onward k

theorem Calm.gateMem {s : State} {c : Iss} {u : Use} (h : Calm s c u) (k : State → Iss → State) (whole : Bool) : s.gateMem u k whole = k s c := by
  unfold State.gateMem
  rw [h.toApart.gateFree]
  simp [h.acquired]

theorem Calm.forbidden {s : State} {c : Iss} {u : Use} (h : Calm s c u) (k : State → Iss → State) (whole : Bool) : s.forbidden u k whole = k s c := by
  unfold State.forbidden
  rw [h.gateMem]
  exact h.toApart.onward k

/-- Behind an acquire that has not taken effect an access is held. -/
theorem Apart.gateMem_held {s : State} {c : Iss} {u : Use} (h : Apart s c u) (ha : c.acquiring = true) (k : State → Iss → State) (whole : Bool) :
    s.gateMem u k whole = s.holdAccess c whole u k := by
  unfold State.gateMem
  rw [h.gateFree]
  simp [ha]

/-- A group that nothing holds back passes the gate of an access as that of any other instruction. -/
theorem Calm.forbiddenAs {s : State} {c : Iss} {u : Use} (h : Calm s c u) (acc : Bool) (k : State → Iss → State) : s.forbiddenAs acc u k = k s c := by
  cases acc <;> simp [State.forbiddenAs, h.forbidden, h.toApart.forbiddenFree]

theorem State.splitAborts_none {s : State} {c : Iss} {f : Nat → Option Nat} (h : ∀ tid ∈ c.g.tids, f tid = none) (k : State → Iss → State) :
    s.splitAborts c f k = k s c := by
  have : c.g.tids.filterMap (fun tid => (f tid).map (fun n => (tid, n))) = [] := by
    rw [List.filterMap_eq_nil_iff]
    intro tid ht
    simp [h tid ht]
  simp [State.splitAborts, this]

theorem State.pinFirst_none {s : State} {c : Iss} {ea : Nat → Nat} {n : Nat} (h : ∀ tid ∈ c.g.tids, s.unpinned c.t (ea tid) n = []) (u : Use) (gap : Nat)
    (k : State) (spend : Bool) : s.pinFirst c u gap ea n k spend = k := by
  have : c.g.tids.flatMap (fun tid => s.unpinned c.t (ea tid) n) = [] := by
    rw [List.flatMap_eq_nil_iff]
    exact h
  simp [State.pinFirst, this]

theorem State.withRelease_no {s : State} {c : Iss} {want : Bool} (h : want = false) (u : Use) (gap : Nat) (k : State → State) :
    s.withRelease c u gap want k = k s := by
  simp [State.withRelease, h]

theorem State.withRelease_yes {s : State} {c : Iss} {want : Bool} (h : want = true) (hr : s.canRelease c.tm.core = true) (u : Use) (gap : Nat)
    (k : State → State) : s.withRelease c u gap want k = k ((s.release c.tm.core).disarm c) := by
  simp [State.withRelease, h, hr]

/-- An issue that releases goes on, whether its release is made or waits with the operations. -/
theorem State.engineIssue_eq (s : State) (c : Iss) (want : Bool) (k : State → (Nat → List Nat) → State) :
    s.engineIssue c want k = if s.lateIssue c want then k (s.disarm c) (fun tid => [tid])
      else k (if want then (s.release c.tm.core).disarm c else s) (fun _ => []) := rfl

/-- Nothing of its threads is on its way: an instruction that comes in their turn does. -/
theorem State.inTurn_calm {s : State} {c : Iss} (h : c.acquiring = false) (u : Use) (gap : Nat) (k : State → State) : s.inTurn c u gap k = k s := by
  simp [State.inTurn, h]

theorem State.updThread_updThread (s : State) (t tid : Nat) (f g : Thread → Thread) :
    (s.updThread t tid f).updThread t tid g = s.updThread t tid (fun th => g (f th)) := by
  have hl : ∀ (l : List Thread) (n : Nat), updAt (updAt l n f) n g = updAt l n (fun th => g (f th)) := by
    intro l
    induction l with
    | nil => intro n; rfl
    | cons a l ih => intro n; cases n <;> simp [updAt, ih]
  unfold State.updThread
  rw [State.updTeam_updTeam]
  congr 1
  funext tm
  simp [Team.updThread, hl]

/-- A group of one thread issues its operation and moves on, where there is room. -/
theorem State.issueEach_alone {s : State} {c : Iss} {tid : Nat} (gap : Nat) {room : State → Bool} {one : State → Nat → State} (h : c.alone tid)
    (hr : room s = true) (hs : ∃ tm, (one s tid).team? c.t = some tm ∧ tid < tm.threads.length) :
    s.issueEach c gap room one = ((one s tid).updThread c.t tid (fun th => { th with part := false })).advance c.t c.gid gap := by
  obtain ⟨h1, -, h3⟩ := h
  obtain ⟨tm, h4, h5⟩ := hs
  have hsort : sortNat ([tid].filter (fun tid => !(c.tm.thread tid).part)) = [tid] := by simp [h3, sortNat, insertSorted]
  unfold State.issueEach
  simp only [h1, hsort, List.foldl_cons, List.foldl_nil, hr, Bool.not_true, Bool.or_false, Bool.false_eq_true, if_false]
  have hteam : ((one s tid).updThread c.t tid (fun th => { th with part := true })).team? c.t = some (tm.updThread tid (fun th => { th with part := true })) := by
    unfold State.updThread
    rw [State.team?_updTeam_self, h4]; rfl
  simp only [hteam]
  have hall : ([tid].all (fun tid' => ((tm.updThread tid (fun th => { th with part := true })).thread tid').part)) = true := by
    simp [Team.thread_updThread, h5]
  rw [if_pos hall]
  congr 1
  show State.updTeam _ c.t (fun tm => tm.updThread tid (fun th => { th with part := false })) = _
  exact State.updThread_updThread _ _ _ _ _

-- Writes of the unit of standing sets.

theorem State.setWrites_cons (s : State) (sid : Nat) (e : SSet) (w : DWord × List Byte) (l : List (DWord × List Byte)) :
    s.setWrites sid e (w :: l) = match s.setWrite sid e w.1 w.2 with
      | .ok s => s.setWrites sid e l
      | .error s => .error s := by
  unfold State.setWrites
  simp only [List.foldl_cons]
  cases s.setWrite sid e w.1 w.2 with
  | ok s => rfl
  | error s =>
    induction l with
    | nil => rfl
    | cons w l ih => exact ih

/-- Writes that all pass leave none over. -/
theorem State.writesOut_all {s s' : State} {sid : Nat} {e : SSet} {l : List (DWord × List Byte)} (h : s.setWrites sid e l = .ok s') :
    s.writesOut sid e l = (s', []) := by
  induction l generalizing s with
  | nil => cases h; rfl
  | cons w l ih =>
    rw [State.setWrites_cons] at h
    unfold State.writesOut
    cases h1 : s.setWrite sid e w.1 w.2 with
    | ok s1 =>
      simp only [h1] at h ⊢
      exact ih h
    | error s1 => simp [h1] at h

-- Owed results.

/-- A register that an owed result writes has no value of an earlier run end left: of the team just those values change. -/
theorem Team.firm_eq (tm : Team) (tid : Nat) (r : Reg) :
    { tm.firm tid r with threads := tm.threads, soft := tm.soft } = tm ∧ (tm.firm tid r).threads.length = tm.threads.length ∧
      ∀ u, { (tm.firm tid r).thread u with soft := (tm.thread u).soft } = tm.thread u := by
  unfold Team.firm
  split
  · exact ⟨rfl, rfl, fun _ => rfl⟩
  · refine ⟨rfl, Team.length_updThread _ _ _, fun u => ?_⟩
    rw [Team.thread_updThread]
    split
    · next e => rw [e.1]
    · rfl

theorem Team.firm_fold (l : List (Reg × Option DWord)) (tm : Team) (tid : Nat) :
    { l.foldl (fun (tm : Team) r => tm.firm tid r.1) tm with threads := tm.threads, soft := tm.soft } = tm ∧
      (l.foldl (fun (tm : Team) r => tm.firm tid r.1) tm).threads.length = tm.threads.length ∧
      ∀ u, { (l.foldl (fun (tm : Team) r => tm.firm tid r.1) tm).thread u with soft := (tm.thread u).soft } = tm.thread u := by
  induction l generalizing tm with
  | nil => exact ⟨rfl, rfl, fun _ => rfl⟩
  | cons r l ih =>
    obtain ⟨a1, a2, a3⟩ := Team.firm_eq tm tid r.1
    obtain ⟨h1, h2, h3⟩ := ih (tm.firm tid r.1)
    refine ⟨?_, h2.trans a2, fun u => ?_⟩
    · exact (congrArg (fun x : Team => { x with threads := tm.threads, soft := tm.soft }) h1).trans a1
    · exact (congrArg (fun x : Thread => { x with soft := (tm.thread u).soft }) (h3 u)).trans (a3 u)

/-- One result owed: the owed list grows, of the threads just the count of writes of L may rise, what earlier run ends left of the registers owed
goes, and nothing else changes. -/
theorem State.owe_eq (s : State) (t id owner : Nat) (rs : List (Reg × Option DWord)) (fl : BitVec 5) :
    ∃ g : Team → Team, s.owe t id owner false false rs fl = s.updTeam t g ∧
      (∀ tm, { g tm with wbs := tm.wbs, threads := tm.threads, soft := tm.soft } = tm) ∧ (∀ tm, (g tm).threads.length = tm.threads.length) ∧
      (∀ tm tid, { (g tm).thread tid with lver := (tm.thread tid).lver, soft := (tm.thread tid).soft } = tm.thread tid) ∧
      ∀ tm, (g tm).wbs.map (fun w => (w.tid, w.reg, w.val)) =
        tm.wbs.map (fun w => (w.tid, w.reg, w.val)) ++ rs.map (fun r => (some owner, r.1, r.2)) := by
  let pre (tm : Team) : Team := if rs.any (fun r => r.1 == .t 8) then tm.updThread owner (fun th => { th with lver := th.lver + 1 }) else tm
  have p1 : ∀ tm, { pre tm with threads := tm.threads } = tm := fun tm => by simp only [pre]; split <;> rfl
  have p2 : ∀ tm, (pre tm).threads.length = tm.threads.length := fun tm => by
    simp only [pre]
    split
    · exact Team.length_updThread _ _ _
    · rfl
  have p3 : ∀ tm tid, { (pre tm).thread tid with lver := (tm.thread tid).lver } = tm.thread tid := fun tm tid => by
    simp only [pre]
    split
    · rw [Team.thread_updThread]
      split
      · next e => rw [e.1]
      · rfl
    · rfl
  refine ⟨_, rfl, fun tm => ?_, fun tm => ?_, fun tm tid => ?_, fun tm => ?_⟩
  · obtain ⟨h1, -, -⟩ := Team.firm_fold rs (pre tm) owner
    exact (congrArg (fun x : Team => { x with wbs := tm.wbs, threads := tm.threads, soft := tm.soft }) h1).trans
      (congrArg (fun x : Team => { x with wbs := tm.wbs, soft := tm.soft }) (p1 tm))
  · exact (Team.firm_fold rs (pre tm) owner).2.1.trans (p2 tm)
  · have h3 := (Team.firm_fold rs (pre tm) owner).2.2 tid
    exact (congrArg (fun x : Thread => { x with lver := (tm.thread tid).lver, soft := (tm.thread tid).soft }) h3).trans
      (congrArg (fun x : Thread => { x with soft := (tm.thread tid).soft }) (p3 tm tid))
  · have h1 := congrArg Team.wbs (Team.firm_fold rs (pre tm) owner).1
    have h2 := congrArg Team.wbs (p1 tm)
    simp only [List.map_append, List.map_map, Function.comp_def, Bool.false_eq_true, if_false]
    refine congrArg (fun x : List Wb => x.map (fun w => (w.tid, w.reg, w.val)) ++ _) (h1.trans h2)

/-- Results owed one thread after another: the owed list grows, the names rise, of the threads just the count of writes of L may rise, what earlier
run ends left of the registers owed goes, and nothing else changes. -/
theorem State.owe_fold (l : List Nat) (s : State) (t : Nat) (f : Nat → List (Reg × Option DWord)) (fl : BitVec 5) :
    ∃ (n : Nat) (g : Team → Team), l.foldl (fun (s : State) tid =>
        let (id, s) := s.newId
        s.owe t id tid false false (f tid) fl) s = { s.updTeam t g with nextId := n } ∧
      (∀ tm, { g tm with wbs := tm.wbs, threads := tm.threads, soft := tm.soft } = tm) ∧ (∀ tm, (g tm).threads.length = tm.threads.length) ∧
      (∀ tm tid, { (g tm).thread tid with lver := (tm.thread tid).lver, soft := (tm.thread tid).soft } = tm.thread tid) ∧
      ∀ tm, (g tm).wbs.map (fun w => (w.tid, w.reg, w.val)) =
        tm.wbs.map (fun w => (w.tid, w.reg, w.val)) ++ l.flatMap (fun tid => (f tid).map (fun r => (some tid, r.1, r.2))) := by
  induction l generalizing s with
  | nil =>
    refine ⟨s.nextId, fun x => x, ?_, fun _ => rfl, fun _ => rfl, fun _ _ => rfl, fun tm => by simp⟩
    rw [State.updTeam_same _ _ _ (fun _ _ => rfl)]
    rfl
  | cons x l ih =>
    obtain ⟨g0, a1, a2, a3, a4, a5⟩ := State.owe_eq { s with nextId := s.nextId + 1 } t s.nextId x (f x) fl
    obtain ⟨n, g, h1, h2, h3, h4, h5⟩ := ih ({ s with nextId := s.nextId + 1 }.updTeam t g0)
    refine ⟨n, fun tm => g (g0 tm), ?_, fun tm => ?_, fun tm => (h3 _).trans (a3 _), fun tm tid => ?_, fun tm => ?_⟩
    · rw [List.foldl_cons]
      refine (congrArg (l.foldl _) a1).trans (h1.trans ?_)
      show ({ ({ s with nextId := s.nextId + 1 }.updTeam t g0).updTeam t g with nextId := n } : State) = _
      rw [State.updTeam_updTeam]
      rfl
    · exact (congrArg (fun x : Team => { x with wbs := tm.wbs, threads := tm.threads, soft := tm.soft }) (h2 (g0 tm))).trans (a2 tm)
    · exact (congrArg (fun x : Thread => { x with lver := (tm.thread tid).lver, soft := (tm.thread tid).soft }) (h4 (g0 tm) tid)).trans (a4 tm tid)
    · rw [h5 (g0 tm), a5 tm]
      simp

theorem Team.fields_of_wbs {a b : Team} (h : { b with wbs := a.wbs, threads := a.threads, soft := a.soft } = a) :
    b.groups = a.groups ∧ b.k = a.k ∧ b.kf = a.kf ∧ b.kexc = a.kexc ∧ b.ret = a.ret ∧ b.fresh = a.fresh := by
  rw [← h]
  exact ⟨rfl, rfl, rfl, rfl, rfl, rfl⟩

theorem SameThread.of_lver {a b : Thread} {n : Nat} {l} (h : { b with lver := n, soft := l } = a) : SameThread a b := by subst h; rfl

theorem Thread.reg_of_lver {a b : Thread} (h : { b with lver := a.lver, soft := a.soft } = a) (tid : Nat) (r : Reg) : b.reg tid r = a.reg tid r := by
  rw [← h]
  cases r <;> rfl

/-- A lane instruction whose results arrive later, in a run that does not end in a stall check: results are owed, the group moves on. -/
theorem State.oweAll_owes {s : State} {c : Iss} (gap : Nat) (f : Nat → List (Reg × Option DWord)) (fl : BitVec 5) (hi : s.iss = some c) (he : c.endsWell) :
    OwesOnly s (s.oweAll c gap f fl) c (c.owed f) := by
  obtain ⟨-, ht, hg⟩ := State.iss_eq hi
  obtain ⟨n, g, h1, h2, hlen, hth, h3⟩ := State.owe_fold c.g.tids s c.t f fl
  unfold State.oweAll
  rw [h1]
  obtain ⟨hgr, hk, hkf, hke, hret, hfr⟩ := Team.fields_of_wbs (h2 c.tm)
  let s1 : State := { s.updTeam c.t g with nextId := n }
  have ht1 : s1.team? c.t = some (g c.tm) := by
    show (State.updTeam _ _ _).team? _ = _
    rw [State.team?_updTeam_self, ht]; rfl
  obtain ⟨f', h4, h5, -, -⟩ := State.advance_eq (s := s1) gap ht1 (by rw [hgr]; exact hg) he
  show OwesOnly s (s1.advance c.t c.gid gap) c _
  rw [h4]
  have hw : (f' (g c.tm)).wbs = (g c.tm).wbs := by
    have := congrArg Team.wbs h5.team.1
    exact this
  refine ⟨rfl, ?_, f' (g c.tm), ?_, ?_, ?_, ?_, ?_⟩
  · intro u hu
    show (State.updTeam _ _ _).team? u = _
    rw [State.team?_updTeam, if_neg hu]
    show (State.updTeam _ _ _).team? u = _
    rw [State.team?_updTeam, if_neg hu]
  · show (State.updTeam _ _ _).team? _ = _
    rw [State.team?_updTeam_self, ht1]; rfl
  · have h6 := h5.team
    refine ⟨?_, h6.2.1.trans (hlen _), fun tid => ?_⟩
    · refine Eq.trans ?_ ((congrArg (fun x : Team => { x with wbs := c.tm.wbs, threads := c.tm.threads, soft := c.tm.soft }) h6.1).trans (h2 c.tm))
      simp only [hgr, hk, hkf, hke, hret, hfr]
    · have := h6.2.2 tid
      exact SameThread.trans (SameThread.of_lver (hth c.tm tid)) this
  · rw [h5.kexc, hke]
  · intro tid r hr
    rw [h5.reg tid r hr]
    cases r with
    | k n => simp [Team.reg, Team.kreg, hk]
    | kf => simp [Team.reg, hkf]
    | v n => exact Thread.reg_of_lver (hth c.tm tid) tid (.v n)
    | t n => exact Thread.reg_of_lver (hth c.tm tid) tid (.t n)
    | p n => exact Thread.reg_of_lver (hth c.tm tid) tid (.p n)
  · rw [hw, h3 c.tm]
    rfl

end Sys2Proof.Machine
end

