-- ==== Sys2Proof/Laws/PerInstr.lean ====
section
/-! SUPPORT. Per instruction: bit 0 of a word tells its width, which is how the decoder finds where a word ends (R144). -/

namespace Sys2Proof.Laws

/-- Bit 0 of an appended word is bit 0 of its low part. -/
theorem low_append {n m : Nat} (x : BitVec n) (y : BitVec (m + 1)) : (x ++ y).getLsbD 0 = y.getLsbD 0 := by
  rw [BitVec.getLsbD_append]; simp

/-- R144: an instruction is encoded in a 32-bit word with bit 0 set, or a 16-bit word with bit 0 clear, or not at all. -/
def WidthBit.Statement (i : Instr) : Prop :=
  match encode i with
  | some (.w32 w) => w.getLsbD 0 = true
  | some (.w16 w) => w.getLsbD 0 = false
  | none => True

theorem WidthBit.runh (len : BitVec 5) (trl : BitVec 1) (pred : BitVec 3) (sense : BitVec 1) (chk : BitVec 1) : Statement (.runh len trl pred sense chk) := low_append _ _
theorem WidthBit.runt (c0 : BitVec 7) (c1 : BitVec 7) (c2 : BitVec 7) (cnt : BitVec 4) : Statement (.runt c0 c1 c2 cnt) := low_append _ _
theorem WidthBit.bra (cond : BitVec 4) (sense : BitVec 1) (off : BitVec 20) : Statement (.bra cond sense off) := low_append _ _
theorem WidthBit.call (v : BitVec 7) (imm : BitVec 16) : Statement (.call v imm) := low_append _ _
theorem WidthBit.ret (v : BitVec 7) : Statement (.ret v) := low_append _ _
theorem WidthBit.jmpk (k : BitVec 6) : Statement (.jmpk k) := low_append _ _
theorem WidthBit.exit : Statement .exit := by rfl
theorem WidthBit.pwaitS (st : BitVec 2) (k : BitVec 6) (v : BitVec 7) : Statement (.pwaitS st k v) := low_append _ _
theorem WidthBit.pwaitG (st : BitVec 2) (k : BitVec 6) (v : BitVec 7) : Statement (.pwaitG st k v) := low_append _ _
theorem WidthBit.pwaitCnt (st : BitVec 2) (cnt : BitVec 2) (thr : BitVec 7) : Statement (.pwaitCnt st cnt thr) := low_append _ _
theorem WidthBit.pwaitFence (st : BitVec 2) (v : BitVec 7) : Statement (.pwaitFence st v) := low_append _ _
theorem WidthBit.pwaitLock (st : BitVec 2) (v : BitVec 7) : Statement (.pwaitLock st v) := low_append _ _
theorem WidthBit.sign (st : BitVec 2) (n : BitVec 3) : Statement (.sign st n) := low_append _ _
theorem WidthBit.cvset (st : BitVec 2) (n : BitVec 3) (i : BitVec 11) : Statement (.cvset st n i) := low_append _ _
theorem WidthBit.elect (st : BitVec 2) (p : BitVec 3) : Statement (.elect st p) := low_append _ _
theorem WidthBit.trap (st : BitVec 2) (n : BitVec 21) : Statement (.trap st n) := low_append _ _
theorem WidthBit.bkpt (st : BitVec 2) (n : BitVec 21) : Statement (.bkpt st n) := low_append _ _
theorem WidthBit.yield (st : BitVec 2) : Statement (.yield st) := low_append _ _
theorem WidthBit.eret (st : BitVec 2) : Statement (.eret st) := low_append _ _
theorem WidthBit.eretSkip (st : BitVec 2) : Statement (.eretSkip st) := low_append _ _
theorem WidthBit.kadd (st : BitVec 2) (d : BitVec 6) (a : BitVec 6) (b : BitVec 6) : Statement (.kadd st d a b) := low_append _ _
theorem WidthBit.ksub (st : BitVec 2) (d : BitVec 6) (a : BitVec 6) (b : BitVec 6) : Statement (.ksub st d a b) := low_append _ _
theorem WidthBit.kmul (st : BitVec 2) (d : BitVec 6) (a : BitVec 6) (b : BitVec 6) : Statement (.kmul st d a b) := low_append _ _
theorem WidthBit.kand (st : BitVec 2) (d : BitVec 6) (a : BitVec 6) (b : BitVec 6) : Statement (.kand st d a b) := low_append _ _
theorem WidthBit.kor (st : BitVec 2) (d : BitVec 6) (a : BitVec 6) (b : BitVec 6) : Statement (.kor st d a b) := low_append _ _
theorem WidthBit.kxor (st : BitVec 2) (d : BitVec 6) (a : BitVec 6) (b : BitVec 6) : Statement (.kxor st d a b) := low_append _ _
theorem WidthBit.kshl (st : BitVec 2) (d : BitVec 6) (a : BitVec 6) (b : BitVec 6) : Statement (.kshl st d a b) := low_append _ _
theorem WidthBit.kshr (st : BitVec 2) (d : BitVec 6) (a : BitVec 6) (b : BitVec 6) : Statement (.kshr st d a b) := low_append _ _
theorem WidthBit.ksar (st : BitVec 2) (d : BitVec 6) (a : BitVec 6) (b : BitVec 6) : Statement (.ksar st d a b) := low_append _ _
theorem WidthBit.kmin (st : BitVec 2) (d : BitVec 6) (a : BitVec 6) (b : BitVec 6) : Statement (.kmin st d a b) := low_append _ _
theorem WidthBit.kmax (st : BitVec 2) (d : BitVec 6) (a : BitVec 6) (b : BitVec 6) : Statement (.kmax st d a b) := low_append _ _
theorem WidthBit.kminn (st : BitVec 2) (d : BitVec 6) (a : BitVec 6) (b : BitVec 6) : Statement (.kminn st d a b) := low_append _ _
theorem WidthBit.kmaxn (st : BitVec 2) (d : BitVec 6) (a : BitVec 6) (b : BitVec 6) : Statement (.kmaxn st d a b) := low_append _ _
theorem WidthBit.kcmp (st : BitVec 2) (a : BitVec 6) (b : BitVec 6) : Statement (.kcmp st a b) := low_append _ _
theorem WidthBit.kaddi (st : BitVec 2) (d : BitVec 6) (a : BitVec 6) (i : BitVec 11) : Statement (.kaddi st d a i) := low_append _ _
theorem WidthBit.kldi (d : BitVec 6) (h : BitVec 2) (k : BitVec 1) (i : BitVec 16) : Statement (.kldi d h k i) := low_append _ _
theorem WidthBit.kld (st : BitVec 2) (d : BitVec 6) (a : BitVec 6) (o : BitVec 6) (w : BitVec 2) (h : BitVec 2) : Statement (.kld st d a o w h) := low_append _ _
theorem WidthBit.kst (st : BitVec 2) (d : BitVec 6) (a : BitVec 6) (o : BitVec 6) (w : BitVec 2) (h : BitVec 2) : Statement (.kst st d a o w h) := low_append _ _
theorem WidthBit.krd (st : BitVec 2) (k : BitVec 6) (e : BitVec 8) : Statement (.krd st k e) := low_append _ _
theorem WidthBit.kwr (st : BitVec 2) (k : BitVec 6) (e : BitVec 8) : Statement (.kwr st k e) := low_append _ _
theorem WidthBit.kmovv (st : BitVec 2) (k : BitVec 6) (v : BitVec 7) : Statement (.kmovv st k v) := low_append _ _
theorem WidthBit.movk (st : BitVec 2) (k : BitVec 6) (v : BitVec 7) : Statement (.movk st k v) := low_append _ _
theorem WidthBit.iadd (st : BitVec 2) (m : BitVec 2) (d : BitVec 7) (a : BitVec 7) (b : BitVec 7) : Statement (.iadd st m d a b) := low_append _ _
theorem WidthBit.isub (st : BitVec 2) (m : BitVec 2) (d : BitVec 7) (a : BitVec 7) (b : BitVec 7) : Statement (.isub st m d a b) := low_append _ _
theorem WidthBit.imul (st : BitVec 2) (m : BitVec 2) (d : BitVec 7) (a : BitVec 7) (b : BitVec 7) : Statement (.imul st m d a b) := low_append _ _
theorem WidthBit.imad (st : BitVec 2) (m : BitVec 1) (d : BitVec 7) (a : BitVec 7) (b : BitVec 7) : Statement (.imad st m d a b) := low_append _ _
theorem WidthBit.imin (st : BitVec 2) (m : BitVec 2) (d : BitVec 7) (a : BitVec 7) (b : BitVec 7) : Statement (.imin st m d a b) := low_append _ _
theorem WidthBit.imax (st : BitVec 2) (m : BitVec 2) (d : BitVec 7) (a : BitVec 7) (b : BitVec 7) : Statement (.imax st m d a b) := low_append _ _
theorem WidthBit.addmin (st : BitVec 2) (m : BitVec 2) (d : BitVec 7) (a : BitVec 7) (b : BitVec 7) : Statement (.addmin st m d a b) := low_append _ _
theorem WidthBit.addmax (st : BitVec 2) (m : BitVec 2) (d : BitVec 7) (a : BitVec 7) (b : BitVec 7) : Statement (.addmax st m d a b) := low_append _ _
theorem WidthBit.and (st : BitVec 2) (d : BitVec 7) (a : BitVec 7) (b : BitVec 7) : Statement (.and st d a b) := low_append _ _
theorem WidthBit.or (st : BitVec 2) (d : BitVec 7) (a : BitVec 7) (b : BitVec 7) : Statement (.or st d a b) := low_append _ _
theorem WidthBit.xor (st : BitVec 2) (d : BitVec 7) (a : BitVec 7) (b : BitVec 7) : Statement (.xor st d a b) := low_append _ _
theorem WidthBit.andn (st : BitVec 2) (d : BitVec 7) (a : BitVec 7) (b : BitVec 7) : Statement (.andn st d a b) := low_append _ _
theorem WidthBit.shl (st : BitVec 2) (d : BitVec 7) (a : BitVec 7) (b : BitVec 7) : Statement (.shl st d a b) := low_append _ _
theorem WidthBit.shr (st : BitVec 2) (d : BitVec 7) (a : BitVec 7) (b : BitVec 7) : Statement (.shr st d a b) := low_append _ _
theorem WidthBit.sar (st : BitVec 2) (d : BitVec 7) (a : BitVec 7) (b : BitVec 7) : Statement (.sar st d a b) := low_append _ _
theorem WidthBit.rol (st : BitVec 2) (d : BitVec 7) (a : BitVec 7) (b : BitVec 7) : Statement (.rol st d a b) := low_append _ _
theorem WidthBit.popc (st : BitVec 2) (d : BitVec 7) (a : BitVec 7) : Statement (.popc st d a) := low_append _ _
theorem WidthBit.clz (st : BitVec 2) (d : BitVec 7) (a : BitVec 7) : Statement (.clz st d a) := low_append _ _
theorem WidthBit.ctz (st : BitVec 2) (d : BitVec 7) (a : BitVec 7) : Statement (.ctz st d a) := low_append _ _
theorem WidthBit.brev (st : BitVec 2) (d : BitVec 7) (a : BitVec 7) : Statement (.brev st d a) := low_append _ _
theorem WidthBit.not (st : BitVec 2) (d : BitVec 7) (a : BitVec 7) : Statement (.not st d a) := low_append _ _
theorem WidthBit.abs (st : BitVec 2) (d : BitVec 7) (a : BitVec 7) : Statement (.abs st d a) := low_append _ _
theorem WidthBit.neg (st : BitVec 2) (d : BitVec 7) (a : BitVec 7) : Statement (.neg st d a) := low_append _ _
theorem WidthBit.bfx (st : BitVec 2) (d : BitVec 7) (a : BitVec 7) (b : BitVec 7) : Statement (.bfx st d a b) := low_append _ _
theorem WidthBit.bfxS (st : BitVec 2) (d : BitVec 7) (a : BitVec 7) (b : BitVec 7) : Statement (.bfxS st d a b) := low_append _ _
theorem WidthBit.bfi (st : BitVec 2) (d : BitVec 7) (a : BitVec 7) (b : BitVec 7) : Statement (.bfi st d a b) := low_append _ _
theorem WidthBit.icmp (st : BitVec 2) (m : BitVec 2) (p : BitVec 3) (c : BitVec 4) (a : BitVec 7) (b : BitVec 7) : Statement (.icmp st m p c a b) := low_append _ _
theorem WidthBit.fcmp (st : BitVec 2) (m : BitVec 2) (p : BitVec 3) (c : BitVec 4) (a : BitVec 7) (b : BitVec 7) : Statement (.fcmp st m p c a b) := low_append _ _
theorem WidthBit.sel (st : BitVec 2) (p : BitVec 2) (d : BitVec 7) (a : BitVec 7) (b : BitVec 7) : Statement (.sel st p d a b) := low_append _ _
theorem WidthBit.plog (st : BitVec 2) (d : BitVec 3) (c : BitVec 4) (a : BitVec 3) (b : BitVec 3) : Statement (.plog st d c a b) := low_append _ _
theorem WidthBit.fadd (st : BitVec 2) (m : BitVec 2) (d : BitVec 7) (a : BitVec 7) (b : BitVec 7) : Statement (.fadd st m d a b) := low_append _ _
theorem WidthBit.fmul (st : BitVec 2) (m : BitVec 2) (d : BitVec 7) (a : BitVec 7) (b : BitVec 7) : Statement (.fmul st m d a b) := low_append _ _
theorem WidthBit.ffma (st : BitVec 2) (m : BitVec 2) (d : BitVec 7) (a : BitVec 7) (b : BitVec 7) : Statement (.ffma st m d a b) := low_append _ _
theorem WidthBit.fmin (st : BitVec 2) (d : BitVec 7) (a : BitVec 7) (b : BitVec 7) : Statement (.fmin st d a b) := low_append _ _
theorem WidthBit.fmax (st : BitVec 2) (d : BitVec 7) (a : BitVec 7) (b : BitVec 7) : Statement (.fmax st d a b) := low_append _ _
theorem WidthBit.fminNum (st : BitVec 2) (d : BitVec 7) (a : BitVec 7) (b : BitVec 7) : Statement (.fminNum st d a b) := low_append _ _
theorem WidthBit.fmaxNum (st : BitVec 2) (d : BitVec 7) (a : BitVec 7) (b : BitVec 7) : Statement (.fmaxNum st d a b) := low_append _ _
theorem WidthBit.hadd (st : BitVec 2) (d : BitVec 7) (a : BitVec 7) (b : BitVec 7) : Statement (.hadd st d a b) := low_append _ _
theorem WidthBit.hmul (st : BitVec 2) (d : BitVec 7) (a : BitVec 7) (b : BitVec 7) : Statement (.hmul st d a b) := low_append _ _
theorem WidthBit.hfma (st : BitVec 2) (d : BitVec 7) (a : BitVec 7) (b : BitVec 7) : Statement (.hfma st d a b) := low_append _ _
theorem WidthBit.hfmaBf16x2 (st : BitVec 2) (d : BitVec 7) (a : BitVec 7) (b : BitVec 7) : Statement (.hfmaBf16x2 st d a b) := low_append _ _
theorem WidthBit.dadd (st : BitVec 2) (d : BitVec 7) (a : BitVec 7) (b : BitVec 7) : Statement (.dadd st d a b) := low_append _ _
theorem WidthBit.dmul (st : BitVec 2) (d : BitVec 7) (a : BitVec 7) (b : BitVec 7) : Statement (.dmul st d a b) := low_append _ _
theorem WidthBit.dfma (st : BitVec 2) (d : BitVec 7) (a : BitVec 7) (b : BitVec 7) : Statement (.dfma st d a b) := low_append _ _
theorem WidthBit.fneg (st : BitVec 2) (d : BitVec 7) (a : BitVec 7) : Statement (.fneg st d a) := low_append _ _
theorem WidthBit.fabs (st : BitVec 2) (d : BitVec 7) (a : BitVec 7) : Statement (.fabs st d a) := low_append _ _
theorem WidthBit.frcp (st : BitVec 2) (m : BitVec 2) (d : BitVec 7) (a : BitVec 7) : Statement (.frcp st m d a) := low_append _ _
theorem WidthBit.fsqrt (st : BitVec 2) (m : BitVec 2) (d : BitVec 7) (a : BitVec 7) : Statement (.fsqrt st m d a) := low_append _ _
theorem WidthBit.frsq (st : BitVec 2) (d : BitVec 7) (a : BitVec 7) : Statement (.frsq st d a) := low_append _ _
theorem WidthBit.fexp2 (st : BitVec 2) (d : BitVec 7) (a : BitVec 7) : Statement (.fexp2 st d a) := low_append _ _
theorem WidthBit.flog2 (st : BitVec 2) (d : BitVec 7) (a : BitVec 7) : Statement (.flog2 st d a) := low_append _ _
theorem WidthBit.fsin (st : BitVec 2) (d : BitVec 7) (a : BitVec 7) : Statement (.fsin st d a) := low_append _ _
theorem WidthBit.fcos (st : BitVec 2) (d : BitVec 7) (a : BitVec 7) : Statement (.fcos st d a) := low_append _ _
theorem WidthBit.dneg (st : BitVec 2) (d : BitVec 7) (a : BitVec 7) : Statement (.dneg st d a) := low_append _ _
theorem WidthBit.dabs (st : BitVec 2) (d : BitVec 7) (a : BitVec 7) : Statement (.dabs st d a) := low_append _ _
theorem WidthBit.drcp (st : BitVec 2) (m : BitVec 2) (d : BitVec 7) (a : BitVec 7) : Statement (.drcp st m d a) := low_append _ _
theorem WidthBit.dsqrt (st : BitVec 2) (m : BitVec 2) (d : BitVec 7) (a : BitVec 7) : Statement (.dsqrt st m d a) := low_append _ _
theorem WidthBit.cvt (st : BitVec 2) (m : BitVec 2) (d : BitVec 7) (a : BitVec 7) (t : BitVec 4) (r : BitVec 3) : Statement (.cvt st m d a t r) := low_append _ _
theorem WidthBit.iaddi (st : BitVec 2) (d : BitVec 7) (a : BitVec 7) (i : BitVec 9) : Statement (.iaddi st d a i) := low_append _ _
theorem WidthBit.andi (st : BitVec 2) (d : BitVec 7) (a : BitVec 7) (i : BitVec 7) : Statement (.andi st d a i) := low_append _ _
theorem WidthBit.ori (st : BitVec 2) (d : BitVec 7) (a : BitVec 7) (i : BitVec 7) : Statement (.ori st d a i) := low_append _ _
theorem WidthBit.xori (st : BitVec 2) (d : BitVec 7) (a : BitVec 7) (i : BitVec 7) : Statement (.xori st d a i) := low_append _ _
theorem WidthBit.shli (st : BitVec 2) (d : BitVec 7) (a : BitVec 7) (n : BitVec 5) : Statement (.shli st d a n) := low_append _ _
theorem WidthBit.shri (st : BitVec 2) (d : BitVec 7) (a : BitVec 7) (n : BitVec 5) : Statement (.shri st d a n) := low_append _ _
theorem WidthBit.sari (st : BitVec 2) (d : BitVec 7) (a : BitVec 7) (n : BitVec 5) : Statement (.sari st d a n) := low_append _ _
theorem WidthBit.roli (st : BitVec 2) (d : BitVec 7) (a : BitVec 7) (n : BitVec 5) : Statement (.roli st d a n) := low_append _ _
theorem WidthBit.movi (st : BitVec 2) (d : BitVec 7) (i : BitVec 16) : Statement (.movi st d i) := low_append _ _
theorem WidthBit.shfl (st : BitVec 2) (m : BitVec 2) (d : BitVec 7) (a : BitVec 7) (b : BitVec 7) : Statement (.shfl st m d a b) := low_append _ _
theorem WidthBit.voteAny (st : BitVec 2) (d : BitVec 7) (p : BitVec 3) : Statement (.voteAny st d p) := low_append _ _
theorem WidthBit.voteAll (st : BitVec 2) (d : BitVec 7) (p : BitVec 3) : Statement (.voteAll st d p) := low_append _ _
theorem WidthBit.voteBallot (st : BitVec 2) (d : BitVec 7) (p : BitVec 3) : Statement (.voteBallot st d p) := low_append _ _
theorem WidthBit.credAdd (st : BitVec 2) (t : BitVec 2) (d : BitVec 7) (a : BitVec 7) : Statement (.credAdd st t d a) := low_append _ _
theorem WidthBit.credMin (st : BitVec 2) (t : BitVec 2) (d : BitVec 7) (a : BitVec 7) : Statement (.credMin st t d a) := low_append _ _
theorem WidthBit.credMax (st : BitVec 2) (t : BitVec 2) (d : BitVec 7) (a : BitVec 7) : Statement (.credMax st t d a) := low_append _ _
theorem WidthBit.cscanIncl (st : BitVec 2) (t : BitVec 2) (d : BitVec 7) (a : BitVec 7) : Statement (.cscanIncl st t d a) := low_append _ _
theorem WidthBit.cscanExcl (st : BitVec 2) (t : BitVec 2) (d : BitVec 7) (a : BitVec 7) : Statement (.cscanExcl st t d a) := low_append _ _
theorem WidthBit.compress (st : BitVec 2) (d : BitVec 7) (a : BitVec 7) (p : BitVec 3) : Statement (.compress st d a p) := low_append _ _
theorem WidthBit.expand (st : BitVec 2) (d : BitVec 7) (a : BitVec 7) (p : BitVec 3) : Statement (.expand st d a p) := low_append _ _
theorem WidthBit.matchAny (st : BitVec 2) (d : BitVec 7) (a : BitVec 7) : Statement (.matchAny st d a) := low_append _ _
theorem WidthBit.lds (st : BitVec 2) (w : BitVec 2) (d : BitVec 7) (a : BitVec 7) (o : BitVec 7) : Statement (.lds st w d a o) := low_append _ _
theorem WidthBit.sts (st : BitVec 2) (w : BitVec 2) (d : BitVec 7) (a : BitVec 7) (o : BitVec 7) : Statement (.sts st w d a o) := low_append _ _
theorem WidthBit.atoms (st : BitVec 2) (r : BitVec 2) (d : BitVec 7) (a : BitVec 7) (o : BitVec 5) (z : BitVec 2) : Statement (.atoms st r d a o z) := low_append _ _
theorem WidthBit.atomg (st : BitVec 2) (r : BitVec 2) (d : BitVec 7) (a : BitVec 7) (o : BitVec 5) (z : BitVec 2) : Statement (.atomg st r d a o z) := low_append _ _
theorem WidthBit.fget (st : BitVec 2) (d : BitVec 7) (a : BitVec 7) (p : BitVec 3) : Statement (.fget st d a p) := low_append _ _
theorem WidthBit.fput (st : BitVec 2) (d : BitVec 7) (a : BitVec 7) (p : BitVec 3) : Statement (.fput st d a p) := low_append _ _
theorem WidthBit.qlock (st : BitVec 2) (d : BitVec 7) (a : BitVec 7) (p : BitVec 3) : Statement (.qlock st d a p) := low_append _ _
theorem WidthBit.qunlock (st : BitVec 2) (a : BitVec 7) : Statement (.qunlock st a) := low_append _ _
theorem WidthBit.cpy (st : BitVec 2) (d : BitVec 6) (a : BitVec 6) (b : BitVec 6) : Statement (.cpy st d a b) := low_append _ _
theorem WidthBit.cpyredArr (st : BitVec 2) (d : BitVec 6) (a : BitVec 6) (b : BitVec 6) : Statement (.cpyredArr st d a b) := low_append _ _
theorem WidthBit.cpyredOrd (st : BitVec 2) (d : BitVec 6) (a : BitVec 6) (b : BitVec 6) : Statement (.cpyredOrd st d a b) := low_append _ _
theorem WidthBit.icpy (st : BitVec 2) (d : BitVec 6) (a : BitVec 6) (b : BitVec 6) : Statement (.icpy st d a b) := low_append _ _
theorem WidthBit.isct (st : BitVec 2) (d : BitVec 6) (a : BitVec 6) (b : BitVec 6) : Statement (.isct st d a b) := low_append _ _
theorem WidthBit.sread (st : BitVec 2) (d : BitVec 6) (a : BitVec 6) (b : BitVec 6) : Statement (.sread st d a b) := low_append _ _
theorem WidthBit.pref (st : BitVec 2) (d : BitVec 6) (a : BitVec 6) (b : BitVec 6) : Statement (.pref st d a b) := low_append _ _
theorem WidthBit.cflush (st : BitVec 2) (d : BitVec 6) (a : BitVec 6) (b : BitVec 6) : Statement (.cflush st d a b) := low_append _ _
theorem WidthBit.cinv (st : BitVec 2) (d : BitVec 6) (a : BitVec 6) (b : BitVec 6) : Statement (.cinv st d a b) := low_append _ _
theorem WidthBit.tclass (st : BitVec 2) (d : BitVec 6) (a : BitVec 6) : Statement (.tclass st d a) := low_append _ _
theorem WidthBit.fence (st : BitVec 2) (c : BitVec 2) (d : BitVec 7) (e : BitVec 2) : Statement (.fence st c d e) := low_append _ _
theorem WidthBit.binit (st : BitVec 2) (d : BitVec 6) (a : BitVec 6) (b : BitVec 6) (g : BitVec 1) : Statement (.binit st d a b g) := low_append _ _
theorem WidthBit.barrive (st : BitVec 2) (d : BitVec 6) (a : BitVec 6) (g : BitVec 1) : Statement (.barrive st d a g) := low_append _ _
theorem WidthBit.bexpect (st : BitVec 2) (d : BitVec 6) (a : BitVec 6) (b : BitVec 6) (g : BitVec 1) : Statement (.bexpect st d a b g) := low_append _ _
theorem WidthBit.hins (st : BitVec 2) (k : BitVec 6) (q : BitVec 7) : Statement (.hins st k q) := low_append _ _
theorem WidthBit.hprobe (st : BitVec 2) (k : BitVec 6) (q : BitVec 7) : Statement (.hprobe st k q) := low_append _ _
theorem WidthBit.hdel (st : BitVec 2) (k : BitVec 6) (q : BitVec 7) : Statement (.hdel st k q) := low_append _ _
theorem WidthBit.hacc (st : BitVec 2) (u : BitVec 3) (k : BitVec 6) (q : BitVec 7) : Statement (.hacc st u k q) := low_append _ _
theorem WidthBit.hdrain (st : BitVec 2) (k : BitVec 6) (q : BitVec 7) : Statement (.hdrain st k q) := low_append _ _
theorem WidthBit.hstat (st : BitVec 2) (k : BitVec 6) (q : BitVec 7) : Statement (.hstat st k q) := low_append _ _
theorem WidthBit.hclaim (st : BitVec 2) (k : BitVec 6) (q : BitVec 7) : Statement (.hclaim st k q) := low_append _ _
theorem WidthBit.hrel (st : BitVec 2) (k : BitVec 6) (q : BitVec 7) : Statement (.hrel st k q) := low_append _ _
theorem WidthBit.xbegin (st : BitVec 2) (e : BitVec 1) (k : BitVec 6) (v : BitVec 7) : Statement (.xbegin st e k v) := low_append _ _
theorem WidthBit.xend (st : BitVec 2) (k : BitVec 6) (v : BitVec 7) : Statement (.xend st k v) := low_append _ _
theorem WidthBit.xabort (st : BitVec 2) (n : BitVec 7) : Statement (.xabort st n) := low_append _ _
theorem WidthBit.xrd (st : BitVec 2) (e : BitVec 1) (v : BitVec 7) : Statement (.xrd st e v) := low_append _ _
theorem WidthBit.xld (st : BitVec 2) (w : BitVec 2) (d : BitVec 7) (a : BitVec 7) (o : BitVec 6) : Statement (.xld st w d a o) := low_append _ _
theorem WidthBit.xst (st : BitVec 2) (w : BitVec 2) (d : BitVec 7) (a : BitVec 7) (o : BitVec 6) : Statement (.xst st w d a o) := low_append _ _
theorem WidthBit.sclaim (st : BitVec 2) (d : BitVec 6) (a : BitVec 6) : Statement (.sclaim st d a) := low_append _ _
theorem WidthBit.srel (st : BitVec 2) (d : BitVec 6) (a : BitVec 6) : Statement (.srel st d a) := low_append _ _
theorem WidthBit.sclass (st : BitVec 2) (d : BitVec 6) (a : BitVec 6) : Statement (.sclass st d a) := low_append _ _
theorem WidthBit.mma (st : BitVec 2) (c : BitVec 3) (a : BitVec 4) (b : BitVec 4) (u : BitVec 4) (f : BitVec 1) (z : BitVec 1) (n : BitVec 1) : Statement (.mma st c a b u f z n) := low_append _ _
theorem WidthBit.mmasp (st : BitVec 2) (c : BitVec 3) (a : BitVec 4) (b : BitVec 4) (u : BitVec 4) (f : BitVec 1) (z : BitVec 1) (m : BitVec 4) : Statement (.mmasp st c a b u f z m) := low_append _ _
theorem WidthBit.mmag (st : BitVec 2) (c : BitVec 3) (a : BitVec 4) (q : BitVec 4) (u : BitVec 4) (f : BitVec 1) (z : BitVec 1) (n : BitVec 1) : Statement (.mmag st c a q u f z n) := low_append _ _
theorem WidthBit.azero (st : BitVec 2) (k : BitVec 6) : Statement (.azero st k) := low_append _ _
theorem WidthBit.ald (st : BitVec 2) (k : BitVec 6) (d : BitVec 7) : Statement (.ald st k d) := low_append _ _
theorem WidthBit.ast (st : BitVec 2) (k : BitVec 6) (d : BitVec 7) : Statement (.ast st k d) := low_append _ _
theorem WidthBit.awin (st : BitVec 2) (k : BitVec 6) : Statement (.awin st k) := low_append _ _
theorem WidthBit.ard (st : BitVec 2) (k : BitVec 6) (d : BitVec 7) (n : BitVec 6) (h : BitVec 1) : Statement (.ard st k d n h) := low_append _ _
theorem WidthBit.awr (st : BitVec 2) (k : BitVec 6) (d : BitVec 7) (n : BitVec 6) (h : BitVec 1) : Statement (.awr st k d n h) := low_append _ _
theorem WidthBit.apromo (st : BitVec 2) (n : BitVec 7) : Statement (.apromo st n) := low_append _ _
theorem WidthBit.scommit (st : BitVec 2) (d : BitVec 6) (a : BitVec 6) (b : BitVec 6) : Statement (.scommit st d a b) := low_append _ _
theorem WidthBit.sraise (st : BitVec 2) (d : BitVec 6) (a : BitVec 6) (b : BitVec 6) : Statement (.sraise st d a b) := low_append _ _
theorem WidthBit.squery (st : BitVec 2) (d : BitVec 6) (a : BitVec 6) (b : BitVec 6) : Statement (.squery st d a b) := low_append _ _
theorem WidthBit.sstart (st : BitVec 2) (d : BitVec 6) (a : BitVec 6) : Statement (.sstart st d a) := low_append _ _
theorem WidthBit.sstop (st : BitVec 2) (d : BitVec 6) (a : BitVec 6) : Statement (.sstop st d a) := low_append _ _
theorem WidthBit.glaunch (st : BitVec 2) (d : BitVec 6) (a : BitVec 6) (b : BitVec 6) (p : BitVec 3) : Statement (.glaunch st d a b p) := low_append _ _
theorem WidthBit.qput (st : BitVec 2) (d : BitVec 6) (a : BitVec 6) (b : BitVec 6) (p : BitVec 3) : Statement (.qput st d a b p) := low_append _ _
theorem WidthBit.srd (st : BitVec 2) (k : BitVec 6) (r : BitVec 15) : Statement (.srd st k r) := low_append _ _
theorem WidthBit.swr (st : BitVec 2) (k : BitVec 6) (r : BitVec 15) : Statement (.swr st k r) := low_append _ _
theorem WidthBit.tlbi (st : BitVec 2) (k : BitVec 6) : Statement (.tlbi st k) := low_append _ _
theorem WidthBit.mov (d : BitVec 5) (s : BitVec 5) : Statement (.mov d s) := low_append _ _
theorem WidthBit.iadd16 (d : BitVec 5) (s : BitVec 5) : Statement (.iadd16 d s) := low_append _ _
theorem WidthBit.isub16 (d : BitVec 5) (s : BitVec 5) : Statement (.isub16 d s) := low_append _ _
theorem WidthBit.imul16 (d : BitVec 5) (s : BitVec 5) : Statement (.imul16 d s) := low_append _ _
theorem WidthBit.fadd16 (d : BitVec 5) (s : BitVec 5) : Statement (.fadd16 d s) := low_append _ _
theorem WidthBit.fmul16 (d : BitVec 5) (s : BitVec 5) : Statement (.fmul16 d s) := low_append _ _
theorem WidthBit.fmin16 (d : BitVec 5) (s : BitVec 5) : Statement (.fmin16 d s) := low_append _ _
theorem WidthBit.fmax16 (d : BitVec 5) (s : BitVec 5) : Statement (.fmax16 d s) := low_append _ _
theorem WidthBit.imin16 (d : BitVec 5) (s : BitVec 5) : Statement (.imin16 d s) := low_append _ _
theorem WidthBit.imax16 (d : BitVec 5) (s : BitVec 5) : Statement (.imax16 d s) := low_append _ _
theorem WidthBit.and16 (d : BitVec 5) (s : BitVec 5) : Statement (.and16 d s) := low_append _ _
theorem WidthBit.or16 (d : BitVec 5) (s : BitVec 5) : Statement (.or16 d s) := low_append _ _
theorem WidthBit.xor16 (d : BitVec 5) (s : BitVec 5) : Statement (.xor16 d s) := low_append _ _
theorem WidthBit.shl16 (d : BitVec 5) (s : BitVec 5) : Statement (.shl16 d s) := low_append _ _
theorem WidthBit.shr16 (d : BitVec 5) (s : BitVec 5) : Statement (.shr16 d s) := low_append _ _
theorem WidthBit.sar16 (d : BitVec 5) (s : BitVec 5) : Statement (.sar16 d s) := low_append _ _
theorem WidthBit.nop : Statement .nop := by rfl
theorem WidthBit.stall (n : BitVec 5) : Statement (.stall n) := low_append _ _
theorem WidthBit.resultWriteback (team i : Nat) : Statement (.resultWriteback team i) := trivial
theorem WidthBit.fenceComplete (team thread : Nat) : Statement (.fenceComplete team thread) := trivial
theorem WidthBit.scratchPageRefill (team page : Nat) : Statement (.scratchPageRefill team page) := trivial
theorem WidthBit.engineBytesLand (op : Nat) : Statement (.engineBytesLand op) := trivial
theorem WidthBit.engineComplete (op : Nat) : Statement (.engineComplete op) := trivial
theorem WidthBit.engineRetire (team cls : Nat) : Statement (.engineRetire team cls) := trivial
theorem WidthBit.cpyredSetInstall (start n : Nat) : Statement (.cpyredSetInstall start n) := trivial
theorem WidthBit.slotRelease (rel : Nat) : Statement (.slotRelease rel) := trivial
theorem WidthBit.faultUnitPark (op : Nat) : Statement (.faultUnitPark op) := trivial
theorem WidthBit.faultReplay (fu : Nat) : Statement (.faultReplay fu) := trivial
theorem WidthBit.faultDeclareUnserviceable (fu : Nat) : Statement (.faultDeclareUnserviceable fu) := trivial
theorem WidthBit.waiterReevaluate (team : Nat) : Statement (.waiterReevaluate team) := trivial
theorem WidthBit.teamPlace (die : Nat) : Statement (.teamPlace die) := trivial
theorem WidthBit.teamActivate (core : Nat) : Statement (.teamActivate core) := trivial
theorem WidthBit.teamPark (core : Nat) : Statement (.teamPark core) := trivial
theorem WidthBit.rotation (core : Nat) : Statement (.rotation core) := trivial
theorem WidthBit.teamRetire (team : Nat) : Statement (.teamRetire team) := trivial
theorem WidthBit.preemptionRequest (die : Nat) : Statement (.preemptionRequest die) := trivial
theorem WidthBit.discardRequeue (team : Nat) : Statement (.discardRequeue team) := trivial
theorem WidthBit.teamSave (team : Nat) : Statement (.teamSave team) := trivial
theorem WidthBit.preemptionComplete (die : Nat) : Statement (.preemptionComplete die) := trivial
theorem WidthBit.prqLateClear (die : Nat) : Statement (.prqLateClear die) := trivial
theorem WidthBit.lineReadRequest (core line : Nat) : Statement (.lineReadRequest core line) := trivial
theorem WidthBit.exclusiveRequest (core line : Nat) : Statement (.exclusiveRequest core line) := trivial
theorem WidthBit.invalidation (core line : Nat) : Statement (.invalidation core line) := trivial
theorem WidthBit.invalidationAck (core line : Nat) : Statement (.invalidationAck core line) := trivial
theorem WidthBit.evictionNotice (core line : Nat) : Statement (.evictionNotice core line) := trivial
theorem WidthBit.exclusiveGrant (core line : Nat) : Statement (.exclusiveGrant core line) := trivial
theorem WidthBit.lineWriteback (core line : Nat) : Statement (.lineWriteback core line) := trivial
theorem WidthBit.holderReadRequest (pkg page : Nat) : Statement (.holderReadRequest pkg page) := trivial
theorem WidthBit.holderWriteRequest (pkg page : Nat) : Statement (.holderWriteRequest pkg page) := trivial
theorem WidthBit.recallDowngrade (page : Nat) : Statement (.recallDowngrade page) := trivial
theorem WidthBit.recallInvalidate (page : Nat) : Statement (.recallInvalidate page) := trivial
theorem WidthBit.recallAnswer (pkg page : Nat) : Statement (.recallAnswer pkg page) := trivial
theorem WidthBit.holderRelease (pkg page : Nat) : Statement (.holderRelease pkg page) := trivial
theorem WidthBit.holderGrant (page : Nat) (excl : Bool) : Statement (.holderGrant page excl) := trivial
theorem WidthBit.tlbShootdownAck (die shoot : Nat) : Statement (.tlbShootdownAck die shoot) := trivial
theorem WidthBit.granuleRequest (req : Nat) : Statement (.granuleRequest req) := trivial
theorem WidthBit.narrowing (msg : Nat) : Statement (.narrowing msg) := trivial
theorem WidthBit.seal (team thread : Nat) : Statement (.seal team thread) := trivial
theorem WidthBit.commitApply (team thread : Nat) : Statement (.commitApply team thread) := trivial
theorem WidthBit.raiseAbsorb (set : Nat) : Statement (.raiseAbsorb set) := trivial
theorem WidthBit.dispatchSlot (die : Nat) : Statement (.dispatchSlot die) := trivial
theorem WidthBit.quiescenceRecord (set : Nat) : Statement (.quiescenceRecord set) := trivial
theorem WidthBit.sstopComplete (set : Nat) : Statement (.sstopComplete set) := trivial
theorem WidthBit.doorbell (q : Nat) (wp : BitVec 64) : Statement (.doorbell q wp) := trivial
theorem WidthBit.replicaInvalidate (die q : Nat) : Statement (.replicaInvalidate die q) := trivial
theorem WidthBit.queueFetch (q : Nat) : Statement (.queueFetch q) := trivial
theorem WidthBit.launch (q : Nat) : Statement (.launch q) := trivial
theorem WidthBit.startSet (q : Nat) : Statement (.startSet q) := trivial
theorem WidthBit.stopSet (q : Nat) : Statement (.stopSet q) := trivial
theorem WidthBit.raise (q : Nat) : Statement (.raise q) := trivial
theorem WidthBit.copy (q : Nat) : Statement (.copy q) := trivial
theorem WidthBit.signal (q : Nat) : Statement (.signal q) := trivial
theorem WidthBit.wait (q : Nat) : Statement (.wait q) := trivial
theorem WidthBit.commandComplete (q : Nat) : Statement (.commandComplete q) := trivial
theorem WidthBit.ctload (n : Nat) : Statement (.ctload n) := trivial
theorem WidthBit.fwctlApply : Statement .fwctlApply := trivial
theorem WidthBit.fwctlBadClear : Statement .fwctlBadClear := trivial
theorem WidthBit.mcrAck : Statement .mcrAck := trivial
theorem WidthBit.irqRpWrite (die : Nat) (v : BitVec 32) : Statement (.irqRpWrite die v) := trivial
theorem WidthBit.irqLostClear (die : Nat) : Statement (.irqLostClear die) := trivial
theorem WidthBit.registerWrite (off : Nat) (v : BitVec 64) : Statement (.registerWrite off v) := trivial
theorem WidthBit.deviceReset : Statement .deviceReset := trivial
theorem WidthBit.bootImageVerified : Statement .bootImageVerified := trivial
theorem WidthBit.rwgo (v : BitVec 64) : Statement (.rwgo v) := trivial
theorem WidthBit.recoveryImageVerified : Statement .recoveryImageVerified := trivial
theorem WidthBit.atgo (v : BitVec 64) : Statement (.atgo v) := trivial
theorem WidthBit.attestReportReady : Statement .attestReportReady := trivial
theorem WidthBit.flitReceive (intact : Bool) (pa : Nat) (data : List (BitVec 8)) : Statement (.flitReceive intact pa data) := trivial
theorem WidthBit.packageFailure (pkg : Nat) : Statement (.packageFailure pkg) := trivial
theorem WidthBit.thermalThrottle (cluster : Nat) : Statement (.thermalThrottle cluster) := trivial
theorem WidthBit.controlLoopRetune : Statement .controlLoopRetune := trivial
theorem WidthBit.lifeRecordUpdate : Statement .lifeRecordUpdate := trivial
theorem WidthBit.hostWrite (pa : Nat) (data : List (BitVec 8)) : Statement (.hostWrite pa data) := trivial
theorem WidthBit.controlCoreAccess (write : Bool) (pa w : Nat) (v : BitVec 64) : Statement (.controlCoreAccess write pa w v) := trivial
theorem WidthBit.queueSuspendClear (q : Nat) : Statement (.queueSuspendClear q) := trivial
theorem WidthBit.throttleEnd (cluster : Nat) : Statement (.throttleEnd cluster) := trivial

end Sys2Proof.Laws
end

