-- ==== Sys2Proof/Tests/Slice0.lean ====
section
/-!
SUPPORT. Tests: ill-formed words are refused, every row's word decodes, single steps give what the spec's own examples give, and for every
statement a state and operands that meet its hypotheses.
-/

set_option Elab.async false

namespace Sys2Proof.Tests

open Sys2Proof.Machine Sys2Proof.Said

-- Small machines.

/-- A record that declares everything a small team needs. -/
def rec0 : TeamRec := { entry := 0x1000, threads := 2, regs := 112, scratch := 4, copyq := 4, cv := 8, acc := 128 }

/-- A group inside a run of two instructions. -/
def grp (tids : List Nat) : Group := { tids, hdr := 0x1000, next := 0x1008, body := [0x8000, 0x8000], trl := none, chk := false }

/-- The same group at a checked run. -/
def chkGrp (tids : List Nat) : Group := { grp tids with chk := true }

/-- A context in force: valid and privileged, with a handler at 0x2000. -/
def ctx0 : Ctx := { v := true, priv := true, root := 0x200000, sr := { tvec := 0x2001 } }

/-- A team of two threads `th` with the group g. -/
def team (th : Thread) (g : Group) : Team :=
  { ctx := 0, core := 0, slot := 0, tr := rec0, threads := [th, th], groups := [(0, g)], nextGroup := 1, eff := ctx0, pinned := [(0, 0)] }

/-- A page of the identity map: valid, readable, writable, executable, for programs, with futures. -/
def pte0 (page : Nat) : Nat := 0x11F + page * 2 ^ 20

/-- A machine on which a team's first group issues: pages 0 to 4 translate, a run header stands at 0x1000 and at 0x2000. -/
def world (tm : Team) : State :=
  { teams := [(0, tm)], cur := some (0, 0), ctxs := [(0, ctx0)],
    mem := [(0x1000, 0x81), (0x1001, 0xE0), (0x1005, 0x80), (0x2000, 0x81), (0x2001, 0xE0), (0x2005, 0x80)],
    dies := [(0, { tlb := (List.range 5).map (fun p => ⟨0, p, pte0 p, true, 1, 0⟩) })] }

/-- The issuing group of that machine. -/
def issOf (tm : Team) (g : Group) : Iss := ⟨0, tm, 0, g⟩

theorem readyOf {s : State} {c : Iss} {u : Use} (hi : s.iss = some c)
    (h : (c.illegal u || c.shortRead u || c.waits u || (c.low :: c.g.tids).any (fun tid => (c.unsound u tid).isSome)) = false) : Ready s c u := by
  simp only [Bool.or_eq_false_iff] at h
  refine ⟨hi, h.1.1.1, h.1.1.2, h.1.2, fun tid ht => ?_⟩
  simpa using List.any_eq_false.mp h.2 tid ht

theorem apartOf {s : State} {c : Iss} {u : Use} (hi : s.iss = some c)
    (h : (c.illegal u || c.shortRead u || c.waits u || (c.low :: c.g.tids).any (fun tid => (c.unsound u tid).isSome) ||
      c.g.tids.any (fun tid => (c.tm.thread tid).region.isSome)) = false) :
    Apart s c u := by
  rw [Bool.or_eq_false_iff] at h
  refine ⟨readyOf hi h.1, fun tid ht => ?_⟩
  simpa using List.any_eq_false.mp h.2 tid ht

theorem calmOf {s : State} {c : Iss} {u : Use} (hi : s.iss = some c)
    (h : (c.illegal u || c.shortRead u || c.waits u || (c.low :: c.g.tids).any (fun tid => (c.unsound u tid).isSome) || c.acquiring ||
      c.g.tids.any (fun tid => (c.tm.thread tid).region.isSome)) = false) :
    Calm s c u := by
  rw [Bool.or_eq_false_iff, Bool.or_eq_false_iff] at h
  refine ⟨⟨readyOf hi h.1.1, fun tid ht => ?_⟩, h.1.2⟩
  simpa using List.any_eq_false.mp h.2 tid ht

theorem okEq {α ε : Type} [DecidableEq α] {x : Except ε α} {a : α} (h : (match x with | .ok b => decide (b = a) | .error _ => false) = true) : x = .ok a := by
  cases x with
  | ok b => rw [of_decide_eq_true h]
  | error _ => simp at h

theorem okOf {α ε : Type} {x : Except ε α} (h : (match x with | .ok _ => true | .error _ => false) = true) : ∃ a, x = .ok a := by
  cases x with
  | ok a => exact ⟨a, rfl⟩
  | error _ => simp at h

theorem someOf {α : Type} {x : Option α} (h : x.isSome = true) : ∃ a, x = some a := Option.isSome_iff_exists.mp h

theorem errOf {α ε : Type} {x : Except ε α} (h : (match x with | .ok _ => false | .error _ => true) = true) : ∃ e, x = .error e := by
  cases x with
  | ok _ => simp at h
  | error e => exact ⟨e, rfl⟩

theorem okThen {α β ε δ : Type} {x : Except ε α} {f : α → Except δ β}
    (h : (match x with | .ok a => (match f a with | .ok _ => true | .error _ => false) | .error _ => false) = true) : ∃ a, x = .ok a ∧ ∃ b, f a = .ok b := by
  cases x with
  | ok a => exact ⟨a, rfl, okOf h⟩
  | error _ => simp at h

theorem doneOf {x : Res} (h : (match x with | .done _ _ => true | _ => false) = true) : ∃ s v, x = .done s v := by
  cases x with
  | done s v => exact ⟨s, v, rfl⟩
  | _ => simp at h

theorem pairOf {α β : Type} {p : α × β} {a : α} (h : p.1 = a) : ∃ b, p = (a, b) := ⟨p.2, by rw [← h]⟩

/-- A machine on which a group still issues, ready for `u`, and of which P holds. -/
theorem restOf {s : State} {u : Use} {P : Iss → Bool}
    (h : s.iss.any (fun c => !(c.illegal u || c.shortRead u || c.waits u || (c.low :: c.g.tids).any (fun tid => (c.unsound u tid).isSome)) && P c) = true) :
    ∃ c, s.iss = some c ∧ Ready s c u ∧ P c = true := by
  cases hi : s.iss with
  | none => simp [hi] at h
  | some c =>
    rw [hi, Option.any_some, Bool.and_eq_true, Bool.not_eq_true'] at h
    exact ⟨c, rfl, readyOf hi h.1, h.2⟩

/-- Of the threads `l` of a team's first group, whether one has to wait before its trap, and the state after the traps. -/
def stuck (tm : Team) (l : List Nat) : Bool := ((world tm).trapWait 0 0 tm l).isSome
def afterTraps (tm : Team) (l : List (Nat × Trap)) : State := (world tm).trapEach 0 0 0 l

-- Every check of a word's form refuses a word.

/-- Fields of runs, branches, CVSET, ELECT, KLD, KST, KRD, KWR and RUNT beyond their ranges (R150, R152-R154, R194, R197, R202, R203). -/
theorem test_ill_formed_uniform :
    ([.runh 0 0 7 0 0, .runh 25 0 7 0 0, .runt 0 0 0 4, .runt 112 0 0 1, .runt 1 0 0 0, .runt 1 1 0 1, .bra 12 0 0, .call 1 0, .call 112 0, .ret 112,
      .pwaitS 0 0 123, .cvset 0 0 0, .cvset 0 0 1025, .elect 0 7, .kld 0 0 0 0 0 3, .kst 0 0 0 0 0 1, .krd 0 0 11, .kwr 0 0 2, .kmovv 0 0 123,
      .movk 0 0 122] : List Instr).all (fun i => !i.wf) = true := by decide

/-- Operand codes and predicates of lane instructions beyond their ranges (R147, R150, R163, R164, R210, R219-R222). -/
theorem test_ill_formed_lane :
    ([.iadd 0 0 122 0 0, .iadd 0 0 0 123 0, .iadd 0 0 0 0 127, .iadd16 26 0, .iadd16 0 26, .not 0 122 0, .dadd 0 1 0 0, .dadd 0 122 0 0, .dadd 0 0 113 0,
      .dneg 0 0 120, .icmp 0 0 7 0 0 0, .icmp 0 3 0 0 0 0, .icmp 0 0 0 10 0 0, .fcmp 0 0 0 8 0 0, .plog 0 7 0 0 0, .cvt 0 0 0 0 0 0,
      .cvt 0 0 0 0 15 0, .cvt 0 0 0 0 9 6, .cvt 0 0 1 0 7 0, .cvt 0 0 0 1 6 5, .credAdd 0 3 0 0,
      .movi 0 122 0] : List Instr).all (fun i => !i.wf) = true := by decide

/-- Data codes of memory, table, region and matrix instructions, and register blocks beyond k63 (R163, R224-R230, R231, R249, R260, R275, R298-R301). -/
theorem test_ill_formed_memory :
    ([.lds 0 1 120 0 0, .lds 0 2 1 0 0, .lds 0 3 2 0 0, .sts 0 2 122 0 0, .sts 0 0 0 123 0, .atoms 0 0 0 0 0 2, .atoms 0 0 0 0 12 0, .atoms 0 0 0 0 10 1,
      .atomg 0 0 1 0 11 0, .atomg 0 0 2 0 11 1, .atomg 0 0 0 1 0 0, .fget 0 0 0 7, .fget 0 1 0 0, .fput 0 0 1 0, .qlock 0 122 0 0, .qunlock 0 1,
      .fence 0 0 0 0, .fence 0 1 120 0, .cpy 0 0 0 60, .icpy 0 0 0 61, .sread 0 63 0 0, .hins 0 0 2, .hins 0 0 110, .hclaim 0 62 0, .hacc 0 5 0 0,
      .xld 0 2 1 0 0, .xst 0 1 0 1 0, .xrd 0 0 1, .xend 0 0 1, .ard 0 0 120 0 0, .awr 0 0 123 0 0, .ald 0 63 0, .ast 0 0 120, .apromo 0 0, .apromo 0 65,
      .stall 0, .scommit 0 0 0 63, .squery 0 62 0 0, .sraise 0 63 0 0, .glaunch 0 0 0 61 0, .qput 0 0 0 0 7, .srd 0 0 10, .swr 0 0 0x30]
      : List Instr).all (fun i => !i.wf) = true := by decide

/-- Words that no row has do not decode (R168). -/
theorem test_illegal_words : ([0x0000007F, 0x8004, 0xF800000F] : List (BitVec 32)).map (fun w => wordInstr w) =
    [none, none, none] := by decide +kernel

/-- The words of the table's rows from RUNH to KSUB, bit by bit, fields set apart. -/
theorem test_decode_runh_to_ksub :
    ([(0b00000000000000_1_0_010_1_10111_0000001, .runh 23 1 2 0 1),
      (0b0011_0001011_0001001_0000111_0000011, .runt 7 9 11 3),
      (0b00101010010111000011_1_0011_0000101, .bra 3 1 0x2a5c3),
      (0b1010010111000011_0000100_00_0000111, .call 4 0xa5c3),
      (0b0000000000000000_0000100_01_0000111, .ret 4),
      (0b00000000000000000_000100_10_0000111, .jmpk 4),
      (0b0000000000000000000000011_0000111, .exit),
      (0b0000000_0000100_000100_000_10_0001001, .pwaitS 2 4 4),
      (0b0000000_0000100_000100_001_10_0001001, .pwaitG 2 4 4),
      (0b0000100_11110010000_11_010_10_0001001, .pwaitCnt 2 3 4),
      (0b0000000_0000100_000000011_10_0001001, .pwaitFence 2 4),
      (0b0000000_0000100_000000100_10_0001001, .pwaitLock 2 4),
      (0b000000000000000000_010_00_10_0001011, .sign 2 2),
      (0b0000000_01111101000_010_01_10_0001011, .cvset 2 2 0x3e8),
      (0b000000000000000000_010_10_10_0001011, .elect 2 2),
      (0b000101010010111000011_00_10_0001101, .trap 2 0x2a5c3),
      (0b000101010010111000011_01_10_0001101, .bkpt 2 0x2a5c3),
      (0b00000000000000000000010_10_0001101, .yield 2),
      (0b00000000000000000000011_10_0001101, .eret 2),
      (0b00000000000000000000111_10_0001101, .eretSkip 2),
      (0b00000_010100_001001_000100_10_0001111, .kadd 2 4 9 20),
      (0b00001_010100_001001_000100_10_0001111, .ksub 2 4 9 20)] : List (BitVec 32 × Instr)).all (fun r => wordInstr r.1 == some r.2) = true := by decide +kernel

/-- The words of the table's rows from KMUL to ISUB, bit by bit, fields set apart. -/
theorem test_decode_kmul_to_isub :
    ([(0b00010_010100_001001_000100_10_0001111, .kmul 2 4 9 20),
      (0b00011_010100_001001_000100_10_0001111, .kand 2 4 9 20),
      (0b00100_010100_001001_000100_10_0001111, .kor 2 4 9 20),
      (0b00101_010100_001001_000100_10_0001111, .kxor 2 4 9 20),
      (0b00110_010100_001001_000100_10_0001111, .kshl 2 4 9 20),
      (0b00111_010100_001001_000100_10_0001111, .kshr 2 4 9 20),
      (0b01000_010100_001001_000100_10_0001111, .ksar 2 4 9 20),
      (0b01001_010100_001001_000100_10_0001111, .kmin 2 4 9 20),
      (0b01010_010100_001001_000100_10_0001111, .kmax 2 4 9 20),
      (0b01011_010100_001001_000100_10_0001111, .kminn 2 4 9 20),
      (0b01100_010100_001001_000100_10_0001111, .kmaxn 2 4 9 20),
      (0b01101_001001_000100_000000_10_0001111, .kcmp 2 4 9),
      (0b00101010101_001001_000100_10_0010001, .kaddi 2 4 9 0x155),
      (0b1010010111000011_1_11_000100_0010011, .kldi 4 3 1 0xa5c3),
      (0b10_11_0_010100_001001_000100_10_0010101, .kld 2 4 9 20 3 2),
      (0b10_11_1_010100_001001_000100_10_0010101, .kst 2 4 9 20 3 2),
      (0b00001001_0000000_000100_00_10_0010111, .krd 2 4 9),
      (0b00000001_0000000_000100_01_10_0010111, .kwr 2 4 1),
      (0b00000000_0000100_000100_10_10_0010111, .kmovv 2 4 4),
      (0b00000000_0000100_000100_11_10_0010111, .movk 2 4 4),
      (0b0101000_0001100_0000100_11_10_0011001, .iadd 2 3 4 12 40),
      (0b0101000_0001100_0000100_11_10_0011011, .isub 2 3 4 12 40)] : List (BitVec 32 × Instr)).all (fun r => wordInstr r.1 == some r.2) = true := by decide +kernel

/-- The words of the table's rows from IMUL to BFX, bit by bit, fields set apart. -/
theorem test_decode_imul_to_bfx :
    ([(0b0101000_0001100_0000100_11_10_0011101, .imul 2 3 4 12 40),
      (0b0101000_0001100_0000100_0_1_10_0011111, .imad 2 1 4 12 40),
      (0b0101000_0001100_0000100_11_10_0100001, .imin 2 3 4 12 40),
      (0b0101000_0001100_0000100_11_10_0100011, .imax 2 3 4 12 40),
      (0b0101000_0001100_0000100_11_10_0100101, .addmin 2 3 4 12 40),
      (0b0101000_0001100_0000100_11_10_0100111, .addmax 2 3 4 12 40),
      (0b0101000_0001100_0000100_00_10_0101001, .and 2 4 12 40),
      (0b0101000_0001100_0000100_01_10_0101001, .or 2 4 12 40),
      (0b0101000_0001100_0000100_10_10_0101001, .xor 2 4 12 40),
      (0b0101000_0001100_0000100_11_10_0101001, .andn 2 4 12 40),
      (0b0101000_0001100_0000100_00_10_0101011, .shl 2 4 12 40),
      (0b0101000_0001100_0000100_01_10_0101011, .shr 2 4 12 40),
      (0b0101000_0001100_0000100_10_10_0101011, .sar 2 4 12 40),
      (0b0101000_0001100_0000100_11_10_0101011, .rol 2 4 12 40),
      (0b0000000_0001100_0000100_00_10_0101101, .popc 2 4 12),
      (0b0000001_0001100_0000100_00_10_0101101, .clz 2 4 12),
      (0b0000010_0001100_0000100_00_10_0101101, .ctz 2 4 12),
      (0b0000011_0001100_0000100_00_10_0101101, .brev 2 4 12),
      (0b0000100_0001100_0000100_00_10_0101101, .not 2 4 12),
      (0b0000101_0001100_0000100_00_10_0101101, .abs 2 4 12),
      (0b0000110_0001100_0000100_00_10_0101101, .neg 2 4 12),
      (0b0101000_0001100_0000100_00_10_0101111, .bfx 2 4 12 40)] : List (BitVec 32 × Instr)).all (fun r => wordInstr r.1 == some r.2) = true := by decide +kernel

/-- The words of the table's rows from BFX_S to FABS, bit by bit, fields set apart. -/
theorem test_decode_bfx_s_to_fabs :
    ([(0b0101000_0001100_0000100_01_10_0101111, .bfxS 2 4 12 40),
      (0b0101000_0001100_0000100_10_10_0101111, .bfi 2 4 12 40),
      (0b0001100_0000100_0011_010_10_10_0110001, .icmp 2 2 2 3 4 12),
      (0b0001100_0000100_0011_010_10_10_0110011, .fcmp 2 2 2 3 4 12),
      (0b0101000_0001100_0000100_11_10_0110101, .sel 2 3 4 12 40),
      (0b0000_001_0000_101_0011_010_00_10_0110111, .plog 2 2 3 5 1),
      (0b0101000_0001100_0000100_11_10_0111001, .fadd 2 3 4 12 40),
      (0b0101000_0001100_0000100_11_10_0111011, .fmul 2 3 4 12 40),
      (0b0101000_0001100_0000100_11_10_0111101, .ffma 2 3 4 12 40),
      (0b0101000_0001100_0000100_00_10_0111111, .fmin 2 4 12 40),
      (0b0101000_0001100_0000100_01_10_0111111, .fmax 2 4 12 40),
      (0b0101000_0001100_0000100_10_10_0111111, .fminNum 2 4 12 40),
      (0b0101000_0001100_0000100_11_10_0111111, .fmaxNum 2 4 12 40),
      (0b0101000_0001100_0000100_00_10_1000001, .hadd 2 4 12 40),
      (0b0101000_0001100_0000100_01_10_1000001, .hmul 2 4 12 40),
      (0b0101000_0001100_0000100_10_10_1000001, .hfma 2 4 12 40),
      (0b0101000_0001100_0000100_11_10_1000001, .hfmaBf16x2 2 4 12 40),
      (0b0101000_0001100_0000100_00_10_1000011, .dadd 2 4 12 40),
      (0b0101000_0001100_0000100_01_10_1000011, .dmul 2 4 12 40),
      (0b0101000_0001100_0000100_10_10_1000011, .dfma 2 4 12 40),
      (0b0000000_0001100_0000100_00_10_1000101, .fneg 2 4 12),
      (0b0000001_0001100_0000100_00_10_1000101, .fabs 2 4 12)] : List (BitVec 32 × Instr)).all (fun r => wordInstr r.1 == some r.2) = true := by decide +kernel

/-- The words of the table's rows from FRCP to SHFL, bit by bit, fields set apart. -/
theorem test_decode_frcp_to_shfl :
    ([(0b0000010_0001100_0000100_11_10_1000101, .frcp 2 3 4 12),
      (0b0000011_0001100_0000100_11_10_1000101, .fsqrt 2 3 4 12),
      (0b0000100_0001100_0000100_00_10_1000101, .frsq 2 4 12),
      (0b0000101_0001100_0000100_00_10_1000101, .fexp2 2 4 12),
      (0b0000110_0001100_0000100_00_10_1000101, .flog2 2 4 12),
      (0b0000111_0001100_0000100_00_10_1000101, .fsin 2 4 12),
      (0b0001000_0001100_0000100_00_10_1000101, .fcos 2 4 12),
      (0b0001001_0001100_0000100_00_10_1000101, .dneg 2 4 12),
      (0b0001010_0001100_0000100_00_10_1000101, .dabs 2 4 12),
      (0b0001011_0001100_0000100_11_10_1000101, .drcp 2 3 4 12),
      (0b0001100_0001100_0000100_11_10_1000101, .dsqrt 2 3 4 12),
      (0b000_1010_0001100_0000100_01_10_1000111, .cvt 2 1 4 12 10 0),
      (0b101010101_0001100_0000100_10_1001001, .iaddi 2 4 12 0x155),
      (0b00_0101000_0001100_0000100_10_1001011, .andi 2 4 12 40),
      (0b01_0101000_0001100_0000100_10_1001011, .ori 2 4 12 40),
      (0b10_0101000_0001100_0000100_10_1001011, .xori 2 4 12 40),
      (0b0000_00111_0001100_0000100_10_1001101, .shli 2 4 12 7),
      (0b0100_00111_0001100_0000100_10_1001101, .shri 2 4 12 7),
      (0b1000_00111_0001100_0000100_10_1001101, .sari 2 4 12 7),
      (0b1100_00111_0001100_0000100_10_1001101, .roli 2 4 12 7),
      (0b1010010111000011_0000100_10_1001111, .movi 2 4 0xa5c3),
      (0b0101000_0001100_0000100_11_10_1010001, .shfl 2 3 4 12 40)] : List (BitVec 32 × Instr)).all (fun r => wordInstr r.1 == some r.2) = true := by decide +kernel

/-- The words of the table's rows from VOTE_ANY to CPYRED_ORD, bit by bit, fields set apart. -/
theorem test_decode_vote_any_to_cpyred_ord :
    ([(0b0000_010_0000000_0000100_00_10_1010011, .voteAny 2 4 2),
      (0b0001_010_0000000_0000100_00_10_1010011, .voteAll 2 4 2),
      (0b0010_010_0000000_0000100_00_10_1010011, .voteBallot 2 4 2),
      (0b0011111_0001100_0000100_10_10_1010011, .credAdd 2 2 4 12),
      (0b0100111_0001100_0000100_10_10_1010011, .credMin 2 2 4 12),
      (0b0101111_0001100_0000100_10_10_1010011, .credMax 2 2 4 12),
      (0b0110111_0001100_0000100_10_10_1010011, .cscanIncl 2 2 4 12),
      (0b0111111_0001100_0000100_10_10_1010011, .cscanExcl 2 2 4 12),
      (0b1000_010_0001100_0000100_00_10_1010011, .compress 2 4 12 2),
      (0b1001_010_0001100_0000100_00_10_1010011, .expand 2 4 12 2),
      (0b1010111_0001100_0000100_00_10_1010011, .matchAny 2 4 12),
      (0b0101000_0001100_0000100_11_10_1010101, .lds 2 3 4 12 40),
      (0b0101000_0001100_0000100_11_10_1010111, .sts 2 3 4 12 40),
      (0b01_00111_0001100_0000100_11_10_1011001, .atoms 2 3 4 12 7 1),
      (0b01_00111_0001100_0000100_11_10_1011011, .atomg 2 3 4 12 7 1),
      (0b0000_010_0001100_0000100_00_10_1011101, .fget 2 4 12 2),
      (0b0000_010_0001100_0000100_01_10_1011101, .fput 2 4 12 2),
      (0b0000_010_0001100_0000100_10_10_1011101, .qlock 2 4 12 2),
      (0b0000000_0000100_000000011_10_1011101, .qunlock 2 4),
      (0b00000_010100_001001_000100_10_1011111, .cpy 2 4 9 20),
      (0b00010_010100_001001_000100_10_1011111, .cpyredArr 2 4 9 20),
      (0b00011_010100_001001_000100_10_1011111, .cpyredOrd 2 4 9 20)] : List (BitVec 32 × Instr)).all (fun r => wordInstr r.1 == some r.2) = true := by decide +kernel

/-- The words of the table's rows from ICPY to XABORT, bit by bit, fields set apart. -/
theorem test_decode_icpy_to_xabort :
    ([(0b00000_010100_001001_000100_10_1100001, .icpy 2 4 9 20),
      (0b00001_010100_001001_000100_10_1100001, .isct 2 4 9 20),
      (0b00010_010100_001001_000100_10_1100001, .sread 2 4 9 20),
      (0b00011_010100_001001_000100_10_1100001, .pref 2 4 9 20),
      (0b00100_010100_001001_000100_10_1100001, .cflush 2 4 9 20),
      (0b00101_010100_001001_000100_10_1100001, .cinv 2 4 9 20),
      (0b00110000000_001001_000100_10_1100001, .tclass 2 4 9),
      (0b000000000000_01_0000100_11_10_1100011, .fence 2 3 4 1),
      (0b0_1_000_010100_001001_000100_10_1100101, .binit 2 4 9 20 1),
      (0b0_1_001000000_001001_000100_10_1100101, .barrive 2 4 9 1),
      (0b0_1_010_010100_001001_000100_10_1100101, .bexpect 2 4 9 20 1),
      (0b0000_0000100_000100_000000_10_1100111, .hins 2 4 4),
      (0b0000_0000100_000100_000001_10_1100111, .hprobe 2 4 4),
      (0b0000_0000100_000100_000010_10_1100111, .hdel 2 4 4),
      (0b0000_0000100_000100_100_011_10_1100111, .hacc 2 4 4 4),
      (0b0000_0000100_000100_000100_10_1100111, .hdrain 2 4 4),
      (0b0000_0000100_000100_000101_10_1100111, .hstat 2 4 4),
      (0b0000_0000100_000100_000110_10_1100111, .hclaim 2 4 4),
      (0b0000_0000100_000100_000111_10_1100111, .hrel 2 4 4),
      (0b0000000_0000100_000100_1_00_10_1101001, .xbegin 2 1 4 4),
      (0b0000000_0000100_000100_001_10_1101001, .xend 2 4 4),
      (0b0000100_0000000000000010_10_1101001, .xabort 2 4)] : List (BitVec 32 × Instr)).all (fun r => wordInstr r.1 == some r.2) = true := by decide +kernel

/-- The words of the table's rows from XRD to GLAUNCH, bit by bit, fields set apart. -/
theorem test_decode_xrd_to_glaunch :
    ([(0b0000000_0000100_000000_1_11_10_1101001, .xrd 2 1 4),
      (0b0_000100_0001100_0000100_11_10_1101011, .xld 2 3 4 12 4),
      (0b1_000100_0001100_0000100_11_10_1101011, .xst 2 3 4 12 4),
      (0b00000000000_001001_000100_10_1101101, .sclaim 2 4 9),
      (0b00001000000_001001_000100_10_1101101, .srel 2 4 9),
      (0b00010000000_001001_000100_10_1101101, .sclass 2 4 9),
      (0b000_1_0_1_00_0101_1001_0011_010_10_1101111, .mma 2 2 3 9 5 1 0 1),
      (0b0011_0_1_00_0101_1001_0011_010_10_1110001, .mmasp 2 2 3 9 5 1 0 3),
      (0b000_1_0_1_01_0101_1001_0011_010_10_1110001, .mmag 2 2 3 9 5 1 0 1),
      (0b00000000000000_000100_000_10_1110011, .azero 2 4),
      (0b0000000_0000100_000100_001_10_1110011, .ald 2 4 4),
      (0b0000000_0000100_000100_010_10_1110011, .ast 2 4 4),
      (0b00000000000000_000100_011_10_1110011, .awin 2 4),
      (0b1_001001_0000100_000100_100_10_1110011, .ard 2 4 4 9 1),
      (0b1_001001_0000100_000100_101_10_1110011, .awr 2 4 4 9 1),
      (0b1000000_0000000000000110_10_1110011, .apromo 2 64),
      (0b00000_010100_001001_000100_10_1110101, .scommit 2 4 9 20),
      (0b00001_010100_001001_000100_10_1110101, .sraise 2 4 9 20),
      (0b00010_010100_001001_000100_10_1110101, .squery 2 4 9 20),
      (0b00011000000_001001_000100_10_1110101, .sstart 2 4 9),
      (0b00100000000_001001_000100_10_1110101, .sstop 2 4 9),
      (0b0_010_0_010100_001001_000100_10_1110111, .glaunch 2 4 9 20 2)] : List (BitVec 32 × Instr)).all (fun r => wordInstr r.1 == some r.2) = true := by decide +kernel

/-- The words of the table's rows from QPUT to STALL, bit by bit, fields set apart. -/
theorem test_decode_qput_to_stall :
    ([(0b0_010_1_010100_001001_000100_10_1110111, .qput 2 4 9 20 2),
      (0b000000000101111_000100_00_10_1111001, .srd 2 4 47),
      (0b000000000001001_000100_01_10_1111001, .swr 2 4 9),
      (0b000000000000000_000100_10_10_1111001, .tlbi 2 4),
      (0b0_00011_00111_0000_0, .mov 7 3),
      (0b0_00011_00111_0001_0, .iadd16 7 3),
      (0b0_00011_00111_0010_0, .isub16 7 3),
      (0b0_00011_00111_0011_0, .imul16 7 3),
      (0b0_00011_00111_0100_0, .fadd16 7 3),
      (0b0_00011_00111_0101_0, .fmul16 7 3),
      (0b0_00011_00111_0110_0, .fmin16 7 3),
      (0b0_00011_00111_0111_0, .fmax16 7 3),
      (0b0_00011_00111_1000_0, .imin16 7 3),
      (0b0_00011_00111_1001_0, .imax16 7 3),
      (0b0_00011_00111_1010_0, .and16 7 3),
      (0b0_00011_00111_1011_0, .or16 7 3),
      (0b0_00011_00111_1100_0, .xor16 7 3),
      (0b0_00011_00111_1101_0, .shl16 7 3),
      (0b0_00011_00111_1110_0, .shr16 7 3),
      (0b0_00011_00111_1111_0, .sar16 7 3),
      (0b100000000000000_0, .nop),
      (0b100000_00111_0001_0, .stall 7)] : List (BitVec 32 × Instr)).all (fun r => wordInstr r.1 == some r.2) = true := by decide +kernel


/-- The words that the spec's worked examples give (10_encoding_notes.md, 12_assembly_notes.md and the worked programs). -/
theorem test_worked_words :
    ([(0x060821BD, .ffma 3 0 4 2 3), (0x0822, .iadd16 1 2), (0xFFFF4105, .bra 2 0 (-12)), (0x0002F181, .runh 3 1 7 0 1), (0x0404299D, .imul 3 0 5 1 2),
      (0x06143019, .iadd 0 0 6 5 3), (0x12203839, .fadd 0 0 7 8 9), (0x10000383, .runt 7 0 0 1), (0x30000113, .kldi 2 0 0 0x3000), (0xE1E809C7, .cvt 3 0 1 122 0 7),
      (0x0204103B, .fmul 0 0 2 1 1), (0x00000187, .exit), (0x0000040D, .yield 0), (0x00000E0D, .eretSkip 0), (0x12C03861, .sread 0 28 0 22),
      (0x0E40485B, .atomg 0 0 9 16 7 0), (0x01E40409, .pwaitCnt 0 0 0)] : List (BitVec 32 × Instr)).all (fun r => wordInstr r.1 == some r.2) = true := by
  decide +kernel

/-- What is encoded is what the worked example gives, stored low byte first (R3, 10_encoding_notes.md). -/
theorem test_encode_ffma : encodeBytes (.ffma 3 0 4 2 3) = some [0xBD, 0x21, 0x08, 0x06] := by decide

-- Single steps, with results worked by hand from the rules.

/-- The register of a thread after an instruction in the small machine. -/
def after (i : Instr) (th : Thread) (tid : Nat) (r : Reg) : Option DWord :=
  match exec i (world (team th (grp [0, 1]))) with
  | .next s => (s.team? 0).map (fun tm => tm.reg tid r)
  | _ => none

/-- R204: sums wrap. -/
theorem test_iadd_wraps : after (.iadd 0 0 3 1 2) { v := [(1, 0xFFFFFFFF), (2, 2)] } 1 (.v 3) = some 1 := by decide +kernel

/-- R204: a saturating sum stops at the greatest number. -/
theorem test_iadd_saturates : after (.iadd 0 1 3 1 2) { v := [(1, 0x7FFFFFFF), (2, 2)] } 0 (.v 3) = some 0x7FFFFFFF := by decide +kernel

/-- R150: code 122 reads the thread's index. -/
theorem test_tid_read : after (.iadd 0 0 3 122 2) { v := [(2, 5)] } 1 (.v 3) = some 6 := by decide +kernel

/-- R206: a shift by the low five bits. -/
theorem test_shl_by_33 : after (.shl 0 3 1 2) { v := [(1, 3), (2, 33)] } 0 (.v 3) = some 6 := by decide +kernel

/-- R47: 1 + 2^-24 is a tie and goes to the even 1.0. -/
theorem test_fadd_tie : after (.fadd 0 0 3 1 2) { v := [(1, 0x3F800000), (2, 0x33800000)] } 0 (.v 3) = some 0x3F800000 := by decide +kernel

/-- R218: f32 of the thread's index (12_assembly_notes.md: thread 1 holds 1.0). -/
theorem test_cvt_tid : after (.cvt 3 0 1 122 0 7) {} 1 (.v 1) = some 0x3F800000 := by decide +kernel

/-- R198: a uniform sum of 64 bits. -/
theorem test_kaddi : after (.kaddi 0 2 1 (-1)) {} 0 (.k 2) = some 0xFFFFFFFFFFFFFFFF := by decide +kernel

/-- R219: the lane below, and its own value where there is none. -/
theorem test_shfl_up : (after (.shfl 0 1 3 122 2) { v := [(2, 1)] } 0 (.v 3), after (.shfl 0 1 3 122 2) { v := [(2, 1)] } 1 (.v 3)) =
    (some 0, some 0) := by decide +kernel

/-- R166: the lowest thread alone is elected. -/
theorem test_elect : (after (.elect 0 3) {} 0 (.p 3), after (.elect 0 3) {} 1 (.p 3)) = (some 1, some 0) := by decide +kernel

/-- R225: the lanes add to one word in ascending order, and each finds what the one before it left. -/
theorem test_atoms_add : (match exec (.atoms 0 0 3 121 0 0) (world (team { v := [(3, 5)] } (grp [0, 1]))) with
    | .next s => (s.team? 0).map (fun tm => (tm.wbs.filterMap (fun w => if w.reg = .v 3 then w.val else none), s.scrRead 0 0 4))
    | _ => none) = some ([0, 5], [10, 0, 0, 0]) := by decide +kernel

/-- R359, R360: a trap saves its address and goes to the handler. -/
theorem test_trap : (match exec (.trap 0 7) (world (team {} (grp [0, 1]))) with
    | .next s => (s.team? 0).map (fun tm => ((tm.thread 1).pc, (tm.thread 1).epc, (tm.thread 1).ecause, (tm.thread 1).hm))
    | _ => none) = some (0x2000, 0x1004, 0x80000708, true) := by decide +kernel

/-- R147, R160, R191: MOV with d = 24 reads L, which has no result here: every thread takes the illegal trap. -/
theorem test_mov_reads_l : (match exec (.mov 24 0) (world (team {} (grp [0, 1]))) with
    | .next s => (s.team? 0).map (fun tm => ((tm.thread 1).epc, (tm.thread 1).ecause.toNat % 256))
    | _ => none) = some (0x1004, 1) := by decide +kernel

/-- R370, log 2: a word stored where the next step fetches runs as the first instruction. -/
theorem test_first_word : (match step (State.reset.withFetchWord 32 0x06143019) with
    | .next s => (s.team? 0).map (fun tm => tm.ret)
    | _ => none) = some 1 := by decide +kernel

-- For every statement with hypotheses: a state and operands that meet them, clause by clause.

/-- The machine of two threads that both issue. -/
def tm2 : Team := team {} (grp [0, 1])
def c2 : Iss := issOf tm2 (grp [0, 1])

/-- The machine whose first thread issues alone. -/
def tm1 : Team := team {} (grp [0])
def c1 : Iss := issOf tm1 (grp [0])

/-- The first thread alone at the last instruction of a run without checks. -/
def gEnd : Group := { grp [0] with idx := 1 }
def tmEnd : Team := team {} gEnd
def cEnd : Iss := issOf tmEnd gEnd

theorem witness_IntegerLaneResult : ∃ (i : Instr) (p : Plain) (s : State) (c : Iss), integer i = some p ∧ i.wf = true ∧ Ready s c p.use ∧ c.endsWell :=
  ⟨.iadd 0 3 111 119 122, _, world tm2, c2, rfl, by decide, readyOf rfl (by decide), .inl (.inl (by decide))⟩

/-- The same at the end of a run. -/
theorem witness_IntegerLaneResult_end : ∃ (i : Instr) (p : Plain) (s : State) (c : Iss), integer i = some p ∧ i.wf = true ∧ Ready s c p.use ∧
    c.endsWell ∧ ¬ c.goesOn :=
  ⟨.isub16 25 0, _, world tmEnd, cEnd, rfl, by decide, readyOf rfl (by decide), .inr (by decide), by simp [Iss.goesOn, cEnd, issOf, gEnd, grp]⟩

theorem witness_FloatLaneResult : ∃ (i : Instr) (p : Plain) (s : State) (c : Iss), float i = some p ∧ i.wf = true ∧ Ready s c p.use ∧ c.endsWell ∧
    (enabled c.tm.eff.sr (p.flags s c) = 0 ∨ c.tm.eff.sr.crumb.getLsbD 0 = false) :=
  ⟨.dfma 0 110 118 121, _, world tm2, c2, rfl, by decide, readyOf rfl (by decide), .inl (.inl (by decide)), .inr (by decide)⟩

theorem witness_UniformResult : ∃ (i : Instr) (p : Plain) (s : State) (c : Iss) (tid : Nat) (a : DWord), uniform i = some p ∧ i.wf = true ∧
    Ready s c p.use ∧ Ready s c {} ∧ c.endsWell ∧ tid ∈ c.g.tids ∧ tid < c.tm.threads.length ∧ (c.tm.thread tid).exited = false ∧
    target s c tid i = some a :=
  ⟨.bra 11 0 (-12), _, world tmEnd, cEnd, 0, _, rfl, by decide, readyOf rfl (by decide), readyOf rfl (by decide), .inr (by decide), by decide, by decide,
    by decide, rfl⟩

/-- A team whose two threads are a whole crew. -/
theorem whole2 : WholeCrews c2 := ⟨by decide, by decide, by decide⟩

theorem witness_CrossResult : ∃ (i : Instr) (x : Crossed) (s : State) (c : Iss), crossing i = some x ∧ i.wf = true ∧ Ready s c x.use ∧ c.endsWell ∧
    WholeCrews c ∧ (enabled c.tm.eff.sr (x.flags s c) = 0 ∨ c.tm.eff.sr.crumb.getLsbD 0 = false) :=
  ⟨.shfl 0 1 119 111 122, _, world tm2, c2, rfl, by decide, readyOf rfl (by decide), .inl (.inl (by decide)), whole2, .inr (by decide)⟩

theorem witness_ExitEnds : ∃ (s : State) (c : Iss), Ready s c {} ∧ c.endsWell ∧ 0 ∈ c.g.tids ∧ 0 < c.tm.threads.length :=
  ⟨world tmEnd, cEnd, readyOf rfl (by decide), .inr (by decide), by decide, by decide⟩

/-- A checked run whose trailer names the one register that comes late. -/
def gLate : Group := { grp [0] with chk := true, idx := 2, trl := some 0, log := [⟨.v 7, 0, 4, []⟩], dist := 1 }

theorem witness_RuntEnds : ∃ (c0 c1 c2 : BitVec 7) (cnt : BitVec 4) (s : State) (c : Iss), s.iss = some c ∧ c.g.chk = true ∧ c.g.log ≠ [] ∧
    (c.g.chk = false ∨ ∀ e ∈ c.g.log, e.short c.g.dist = true → e.reg ∈ ([c0, c1, c2].take cnt.toNat).map (fun x => Reg.v x.toNat)) :=
  ⟨7, 0, 0, 1, world (team {} gLate), issOf (team {} gLate) gLate, rfl, rfl, by decide, .inr (by decide)⟩

/-- Two threads at the run header at 0x1000: one whose predicate p0 is 1, one whose predicate is 0. -/
def gHdr (a : DWord) : Group := { tids := [0, 1], hdr := a, next := a, body := [], trl := none, chk := false }
def tmHdr (a : DWord) : Team := { team {} (gHdr a) with threads := [{ pc := a, npc := a, p := 1 }, { pc := a, npc := a }] }

theorem reachedOf {s : State} {x : Xlat} {va : DWord}
    (h : (s.pte? x va).all (fun e => !s.foreign (paOf e va) || s.routed (paOf e va)) = true) : reached s x va := by
  intro e he hf
  simpa [he, hf] using h

theorem atHeader0 (a : DWord) : AtHeader (world (tmHdr a)) (issOf (tmHdr a) (gHdr a)) 0 :=
  ⟨rfl, by simp [issOf, tmHdr, gHdr, team, Team.thread], by intro tid h; fin_cases h <;> exact ⟨rfl, rfl, rfl⟩,
    by intro tid h; fin_cases h <;> rfl, .inr (by intro tid h; fin_cases h <;> rfl)⟩

theorem witness_RunHeader : ∃ (s : State) (c : Iss) (body : List (BitVec 32)) (next : DWord) (w : BitVec 32), AtHeader s c 0 ∧ c.g.tids.Nodup ∧
    (∃ tid ∈ c.g.tids, AtHeader.goes s c 0 0 tid = true) ∧ (∃ tid ∈ c.g.tids, AtHeader.goes s c 0 0 tid = false) ∧
    s.fetchWord ({ c.tm with eff := s.ctx c.tm.ctx } : Team).xlat c.g.hdr = .ok w ∧ w.toNat / 2 ^ 18 = 0 ∧
    s.fetchRun ({ c.tm with eff := s.ctx c.tm.ctx } : Team).xlat c.g.hdr 1 false = .ok (body, none, next) ∧
    reached s ({ c.tm with eff := s.ctx c.tm.ctx } : Team).xlat (next - 2) :=
  ⟨world (tmHdr 0x1000), issOf (tmHdr 0x1000) (gHdr 0x1000), [0x8000], 0x1006, 0x0000E081, atHeader0 _, by decide, ⟨0, by decide, by decide⟩,
    ⟨1, by decide, by decide⟩, by decide +kernel, by decide, by decide +kernel, reachedOf (by decide +kernel)⟩

/-- A run of two instructions whose second is not there: the header traps. -/
theorem witness_RunHeader_trap : ∃ (s : State) (c : Iss) (e : HdrErr) (w : BitVec 32), AtHeader s c 0 ∧
    s.fetchWord ({ c.tm with eff := s.ctx c.tm.ctx } : Team).xlat c.g.hdr = .ok w ∧ w.toNat / 2 ^ 18 = 0 ∧
    s.fetchRun ({ c.tm with eff := s.ctx c.tm.ctx } : Team).xlat c.g.hdr 25 false = .error e :=
  ⟨world (tmHdr 0x1000), issOf (tmHdr 0x1000) (gHdr 0x1000), .trap .illegal, 0x0000E081, atHeader0 _, by decide +kernel, by decide, by decide +kernel⟩

theorem witness_TrapEntered : ∃ (s : State) (c : Iss), Ready s c {} ∧ c.g.tids.Nodup ∧ (∀ tid ∈ c.g.tids, tid < c.tm.threads.length ∧ trapsAlone c tid) ∧
    handled s c :=
  ⟨world tm2, c2, readyOf rfl (by decide), by decide, by intro tid h; fin_cases h <;> exact ⟨by decide, rfl, rfl, rfl⟩, rfl, by decide +kernel⟩

/-- A team with 32 registers and delivery of epc to v0, ecause to v2, eva to v30, as far as it goes; and one without delivery. -/
def tmDel (on : Bool) : Team :=
  { tm2 with eff := { ctx0 with sr := { tvec := 0x2001, tdel := if on then 0x1E0280 else 0x1E0200 } }, tr := { rec0 with regs := 32 } }

theorem witness_TrapEntered_delivery : (delivered (tmDel false) 0x1000 0x80000708 0 = [] ∧ (tmDel false).wbs = []) ∧
    ((tmDel true).tr.regs ≤ 112 ∧ delivered (tmDel true) 0x1000 0x80000708 0 = [(0, 0x1000), (1, 0), (2, 0x80000708), (30, 0), (31, 0)] ∧
      ((delivered (tmDel true) 0x1000 0x80000708 0).map Prod.fst).Nodup ∧ (tmDel true).wbs = []) ∧
    ∀ on, Ready (world (tmDel on)) (issOf (tmDel on) (grp [0, 1])) {} := by
  refine ⟨by decide, by decide, fun on => ?_⟩
  cases on <;> exact readyOf rfl (by decide)

/-- A team whose context has no handler. -/
def tmBare : Team := { tm2 with eff := {} }

theorem witness_TrapFaultsTeam : ∃ (s : State) (c : Iss), Ready s c {} ∧ c.g.tids ≠ [] ∧ (∀ th ∈ c.tm.threads, th.region = none) ∧
    (∀ tid ∈ c.g.tids, c.tm.owes tid = false) ∧ s.handlerWait c.tm = none ∧ c.tm.eff.sr.tvec.getLsbD 0 = false :=
  ⟨world tmBare, issOf tmBare (grp [0, 1]), readyOf rfl (by decide), by decide, by decide, by decide, by decide, by decide⟩

/-- Two threads in a trap handler; two threads, of which one has no record. -/
def tmHm : Team := team { hm := true, epc := 0x1000 } (grp [0, 1])
def tmHalf : Team := { team {} (grp [0, 1]) with threads := [{ rr := true }, {}] }

/-- A team whose second thread is in its handler, and one whose handler's address holds no run header (0x3000, nothing written). -/
def tmNested : Team := { tm2 with threads := [{}, { hm := true }] }
def tmNoHdr : Team := { tm2 with eff := { ctx0 with sr := { tvec := 0x3001 } } }

theorem witness_TrapFaultsTeam_handlers : ∀ tm ∈ [tmNested, tmNoHdr], Ready (world tm) (issOf tm (grp [0, 1])) {} ∧ (∀ th ∈ tm.threads, th.region = none) ∧
    (∀ tid ∈ [0, 1], tm.owes tid = false) ∧ (world tm).handlerWait tm = none ∧
    ((∃ tid ∈ [0, 1], (tm.thread tid).hm = true) ∨ (world tm).headerAt tm.xlat (tm.eff.sr.tvec &&& ~~~ 1) = false) := by
  intro tm h
  fin_cases h <;> exact ⟨readyOf rfl (by decide), by decide, by decide, by decide +kernel, by decide +kernel⟩

theorem witness_EretReturns : ∃ (s : State) (c : Iss), Ready s c {} ∧ c.endsWell ∧ c.g.tids.Nodup ∧
    (∀ tid ∈ c.g.tids, tid < c.tm.threads.length ∧ (c.tm.thread tid).exited = false) ∧
    (∀ tid ∈ c.g.tids, ((c.tm.thread tid).hm = true ∨ (c.tm.thread tid).rr = true) ∧ s.blockError c tid = none ∧ s.skipWait c.tm tid = none) :=
  ⟨world tmHm, issOf tmHm (grp [0, 1]), readyOf rfl (by decide), .inl (.inl (by decide)), by decide, by decide, by decide +kernel⟩

/-- Two threads with resume records, of which the second's has a data error. -/
def tmRr : Team := team { rr := true } (grp [0, 1])
def stRr : State := { world tmRr with links := { poison := [((world tmRr).areaPa tmRr / 64 + 66, 7)] } }

theorem witness_EretReturns_bad : Ready stRr (issOf tmRr (grp [0, 1])) {} ∧ stRr.blockError (issOf tmRr (grp [0, 1])) 0 = none ∧
    (stRr.blockError (issOf tmRr (grp [0, 1])) 1).isSome = true ∧ stRr.trapWait 0 0 tmRr [1] = none ∧
    ∃ c', (stRr.trapEach 0 0 0 [(1, { cause := 10 })]).iss = some c' ∧ Ready (stRr.trapEach 0 0 0 [(1, { cause := 10 })]) c' {} ∧
      (c'.g.tids == [0] && (c'.tm.thread 0).rr && ((stRr.trapEach 0 0 0 [(1, { cause := 10 })]).blockError c' 0).isNone) = true :=
  ⟨readyOf rfl (by decide), by decide +kernel, by decide +kernel, by decide +kernel, restOf (by decide +kernel)⟩

theorem witness_EretReturns_illegal : ∃ (s : State) (c : Iss), Ready s c {} ∧ c.endsWell ∧ c.g.tids.Nodup ∧
    (∀ tid ∈ c.g.tids, tid < c.tm.threads.length ∧ (c.tm.thread tid).exited = false) ∧
    (∃ tid ∈ c.g.tids, (c.tm.thread tid).hm = false ∧ (c.tm.thread tid).rr = false) :=
  ⟨world tmHalf, issOf tmHalf (grp [0, 1]), readyOf rfl (by decide), .inl (.inl (by decide)), by decide, by decide, ⟨1, by decide, rfl, rfl⟩⟩

/-- Of a group whose second thread alone traps: it owes a result, or nothing holds it and the first one, which has a record, is left; and of one whose
threads both trap nothing is left. -/
theorem witness_EretReturns_some : stuck { tmHalf with wbs := [{ id := 1, tid := some 1, owner := 1, reg := .v 1, val := none }] } [1] = true ∧ stuck tmHalf [1] = false ∧
    (∃ c', (afterTraps tmHalf [(1, .illegal)]).iss = some c' ∧ Ready (afterTraps tmHalf [(1, .illegal)]) c' {} ∧
      (c'.g.tids == [0] && c'.g.tids.all (fun tid => (c'.tm.thread tid).hm || (c'.tm.thread tid).rr)) = true) ∧
    stuck tm2 [0, 1] = false ∧ (afterTraps tm2 [(0, .illegal), (1, .illegal)]).iss = none :=
  ⟨by decide +kernel, by decide +kernel, restOf (by decide +kernel), by decide +kernel, by decide +kernel⟩

def tmSent : Team := team { sent := true } (grp [0, 1])
/-- Two threads of which only the first one is in the yield handler. -/
def tmSentHalf : Team := { team {} (grp [0, 1]) with threads := [{ sent := true }, {}] }

theorem witness_YieldEnds :
    (∃ (s : State) (c : Iss), Apart s c {} ∧ c.endsWell ∧ ∀ tid ∈ c.g.tids, (c.tm.thread tid).sent = true ∧ (c.tm.thread tid).yielded = false) ∧
    (∃ (s : State) (c : Iss), Apart s c {} ∧ c.endsWell ∧ ∃ tid ∈ c.g.tids, (c.tm.thread tid).sent = false ∨ (c.tm.thread tid).yielded = true) :=
  ⟨⟨world tmSent, issOf tmSent (grp [0, 1]), (calmOf rfl (by decide)).toApart, .inl (.inl (by decide)), by decide⟩,
    ⟨world tm2, c2, (calmOf rfl (by decide)).toApart, .inl (.inl (by decide)), 0, by decide, .inl rfl⟩⟩

/-- The second thread traps and the first one yields. -/
theorem witness_YieldEnds_some : (∃ tid ∈ (issOf tmSentHalf (grp [0, 1])).g.tids, (tmSentHalf.thread tid).sent = false) ∧ stuck tmSentHalf [1] = false ∧
    ∃ c', (afterTraps tmSentHalf [(1, .illegal)]).iss = some c' ∧ Ready (afterTraps tmSentHalf [(1, .illegal)]) c' {} ∧
      (c'.g.tids.all (fun tid => (c'.tm.thread tid).sent && !(c'.tm.thread tid).yielded && (c'.tm.thread tid).region.isNone)) = true :=
  ⟨⟨1, by decide, rfl⟩, by decide +kernel, restOf (by decide +kernel)⟩

/-- cv7 expects four signatures and holds two: both threads sign, and it is full. -/
def tmCv : Team := { tm2 with cv := [(7, (4, 2))] }

theorem witness_SignaturesCount :
    (∃ (s : State) (c : Iss), Ready s c {} ∧ c.endsWell ∧ (7 : BitVec 3).toNat < c.tm.tr.cv ∧ FMap.getD c.tm.cv 7 (0, 0) = (4, 2) ∧ 2 + c.g.tids.length ≤ 4 ∧
      c.g.tids.Nodup ∧ ∀ tid ∈ c.g.tids, tid < c.tm.threads.length ∧ (c.tm.thread tid).part = false) ∧
    (∃ (s : State) (c : Iss), Ready s c {} ∧ c.endsWell ∧ c.tm.tr.cv ≤ (0 : BitVec 3).toNat) :=
  ⟨⟨world tmCv, issOf tmCv (grp [0, 1]), readyOf rfl (by decide), .inl (.inl (by decide)), by decide, by decide, by decide, by decide, by decide⟩,
    ⟨world { tm2 with tr := {} }, issOf { tm2 with tr := {} } (grp [0, 1]), readyOf rfl (by decide), .inl (.inl (by decide)), by decide⟩⟩

theorem witness_KwrResult : ∃ (s : State) (c : Iss), ∀ e : BitVec 8, e = 0 ∨ e = 1 → (Instr.kwr 0 63 e).wf = true ∧
    Ready s c ((Use.ksrc (63 : BitVec 6).toNat 1).add (if e = 1 then ⟨[], [.kf], 0, false⟩ else {})) ∧ c.endsWell :=
  ⟨world tm2, c2, by rintro e (rfl | rfl) <;> exact ⟨by decide, readyOf rfl (by decide), .inl (.inl (by decide))⟩⟩

/-- Teams at which the four checks stop an addition: one register declared, a short read, a result awaited, a register with a data error. -/
def tmFew : Team := { tm2 with tr := { rec0 with regs := 8 } }
def gShort : Group := { grp [0, 1] with chk := true, log := [⟨.v 1, 0, 4, []⟩], dist := 1 }
def tmOwed : Team := { tm2 with wbs := [{ id := 1, tid := some 0, owner := 0, reg := .v 1, val := none }] }
def tmBad : Team := team { bad := [2] } (grp [0, 1])

theorem witness_GateOrder : ∃ (i : Instr) (p : Plain), integer i = some p ∧
    (∃ c, (world tmFew).iss = some c ∧ c.illegal p.use = true) ∧
    (∃ c, (world (team {} gShort)).iss = some c ∧ c.illegal p.use = false ∧ c.shortRead p.use = true) ∧
    (∃ c, (world tmOwed).iss = some c ∧ c.illegal p.use = false ∧ c.shortRead p.use = false ∧ c.waits p.use = true) ∧
    (∃ c, (world tmBad).iss = some c ∧ c.illegal p.use = false ∧ c.shortRead p.use = false ∧ c.waits p.use = false ∧
      c.g.tids.filterMap (fun tid => (c.unsound p.use tid).map (fun tr => (tid, tr))) ≠ []) :=
  ⟨.iadd 0 0 8 1 2, _, rfl, ⟨_, rfl, by decide⟩, ⟨_, rfl, by decide, by decide⟩, ⟨_, rfl, by decide, by decide, by decide⟩,
    ⟨_, rfl, by decide, by decide, by decide, by decide⟩⟩

/-- Of two threads the second one's v2 has a data error: it traps and the first one goes on; and KMOVV of v2 by a group whose lowest thread has one. -/
def tmBadHalf : Team := { team {} (grp [0, 1]) with threads := [{}, { bad := [2] }] }
def useAdd : Use := (bin 8 1 2 (fun x _ => x)).use

theorem witness_GateOrder_sound :
    ((issOf tmBadHalf (grp [0, 1])).g.tids.filterMap (fun tid => ((issOf tmBadHalf (grp [0, 1])).unsound useAdd tid).map (fun tr => (tid, tr)))).map Prod.fst = [1] ∧
    stuck tmBadHalf [1] = false ∧
    (∃ c', (afterTraps tmBadHalf [(1, { cause := 10 })]).iss = some c' ∧ Ready (afterTraps tmBadHalf [(1, { cause := 10 })]) c' useAdd ∧ (c'.g.tids == [0]) = true) ∧
    ∃ p tr, uniform (.kmovv 0 1 2) = some p ∧ (issOf tmBad (grp [0, 1])).illegal p.use = false ∧ (issOf tmBad (grp [0, 1])).shortRead p.use = false ∧
      (issOf tmBad (grp [0, 1])).waits p.use = false ∧ (issOf tmBad (grp [0, 1])).unsound p.use (issOf tmBad (grp [0, 1])).low = some tr :=
  ⟨by decide, by decide +kernel, restOf (by decide +kernel), _, _, rfl, by decide, by decide, by decide, rfl⟩

/-- Two threads whose v2-v3 hold 0x4000 and whose v4 holds x; page 4 is mapped, scratch page 0 is pinned. -/
def tmAt (x : Word) : Team := team { v := [(2, 0x4000), (4, x)] } (grp [0, 1])
def cAt (x : Word) : Iss := issOf (tmAt x) (grp [0, 1])

theorem witness_ScratchLoad : ∃ (s : State) (c : Iss), (Instr.lds 0 3 8 4 0).wf = true ∧ Calm s c (useLds 3 8 4) ∧ c.endsWell ∧
    scratchReady s c (scratchEa s c 4 0 3) 16 ∧ scratchSound s c (scratchEa s c 4 0 3) 16 :=
  ⟨world (tmAt 0xFF0), cAt 0xFF0, by decide, calmOf rfl (by decide), .inl (.inl (by decide)), by unfold scratchReady; decide +kernel,
    by unfold scratchSound; decide +kernel⟩

theorem witness_ScratchStore : ∃ (s : State) (c : Iss), (Instr.sts 0 0 8 4 127).wf = true ∧ Calm s c (useSts 0 8 4) ∧
    scratchReady s c (scratchEa s c 4 127 0) 2 ∧ mayRelease s c c.armed :=
  ⟨world (tmAt 0xFFE), cAt 0xFFE, by decide, calmOf rfl (by decide), by unfold scratchReady; decide +kernel, by unfold mayRelease; decide +kernel⟩

/-- A group of one thread at an STS, with a futures result owed to it that is an acquire. -/
def stsWord : BitVec 32 := 4262477911
def gSts : Group := { grp [0] with body := [stsWord, 0x8000] }
def tmSts : Team :=
  { team { v := [(4, 0xFFE)] } gSts with wbs := [{ id := 1, tid := some 0, owner := 0, reg := .v 20, val := none, acq := true }] }
def cSts : Iss := issOf tmSts gSts

theorem witness_ScratchStore_held : (Instr.sts 0 0 8 4 127).wf = true ∧ Apart (world tmSts) cSts (useSts 0 8 4) ∧ cSts.acquiring = true ∧ cSts.g.tids = [0] ∧
    cSts.goesOn ∧ cSts.g.body[cSts.g.idx]? = some stsWord ∧ wordInstr stsWord = some (.sts 0 0 8 4 127) ∧
    scratchReady (world tmSts) cSts (scratchEa (world tmSts) cSts 4 127 0) 2 ∧ mayRelease (world tmSts) cSts cSts.armed :=
  ⟨by decide, apartOf rfl (by decide), by decide, rfl, .inl (by decide), rfl, by decide, by unfold scratchReady; decide +kernel,
    by unfold mayRelease; decide +kernel⟩

/-- R393: the access that is held is made by the agenda once the acquire has taken effect, with what the thread had at its issue. -/
theorem test_held_store : (match exec (.sts 0 0 8 4 127) (world tmSts) with
    | .next s => (s.team? 0).map (fun tm => (tm.laters.map (fun l => l.instr), tm.scr))
    | _ => none) = some ([Instr.sts 0 0 8 4 127], []) := by decide +kernel

theorem witness_ScratchAtomic : ∃ (s : State) (c : Iss), (Instr.atoms 0 3 8 4 11 1).wf = true ∧ Calm s c (useAtom 1 8 4 11 1) ∧
    scratchReady s c (fun tid => c.src s tid 4) 8 ∧ scratchSound s c (fun tid => c.src s tid 4) 8 ∧ mayRelease s c (c.armed || (3 : BitVec 2).getLsbD 1) :=
  ⟨world (tmAt 0xFF8), cAt 0xFF8, by decide, calmOf rfl (by decide), by unfold scratchReady; decide +kernel, by unfold scratchSound; decide +kernel, by unfold mayRelease; decide +kernel⟩

theorem witness_GlobalAtomic : ∃ (s : State) (c : Iss), (Instr.atomg 0 3 8 2 0 1).wf = true ∧ Calm s c (useAtom 2 8 2 0 1) ∧
    laneOk s c (fun tid => c.src64 s tid 2) 8 .rmw false true ∧ s.homeWaits c.tm.core true (lanesAt s c (fun tid => c.src64 s tid 2)) = false ∧
    mayRelease s c (c.armed || (3 : BitVec 2).getLsbD 1) :=
  ⟨world (tmAt 0), cAt 0, by decide, calmOf rfl (by decide),
    by intro tid h; fin_cases h <;> exact ⟨pte0 4, by decide +kernel⟩, by decide +kernel, by unfold mayRelease; decide +kernel⟩

/-- A team with k1 = x and k2 = y, of which the first thread issues. -/
def tmK (x y : DWord) : Team := { tm1 with k := [(1, x), (2, y)] }
def cK (x y : DWord) : Iss := issOf (tmK x y) (grp [0])

/-- Memory operations of the uniform data cache with an address on page 4, and with one that is not aligned. -/
theorem witness_UniformMemory :
    (∃ (s : State) (c : Iss) (e : Nat), Calm s c ((Use.ksrc 1 1).add (Use.kdst 2 1)) ∧ (c.k s 1).toNat % 8 = 0 ∧
      s.xlate c.tm.xlat true (c.k s 1) .read = .ok e ∧ s.poisoned (paOf e (c.k s 1)) 8 = none ∧
      ∃ bs s1, (s.fillTlb c.tm.xlat (c.k s 1) e).uload c.tm.core c.tm.ctx e (isNc c.tm.eff.sr (c.k s 1)) (c.k s 1).toNat (paOf e (c.k s 1)) 8 0 = (some bs, s1)) ∧
    (∃ (s : State) (c : Iss) (e : Nat), Calm s c ((Use.ksrc 1 1).add (Use.ksrc 2 1)) ∧ (c.k s 1).toNat % 8 = 0 ∧
      s.xlate c.tm.xlat true (c.k s 1) .write = .ok e ∧ mayRelease s c c.armed ∧
      ∃ s1, ((released s c c.armed).fillTlb c.tm.xlat (c.k s 1) e).ustore c.tm.core c.tm.ctx e (isNc c.tm.eff.sr (c.k s 1)) (c.k s 1).toNat (paOf e (c.k s 1))
        (natLe 8 (c.k (released s c c.armed) 2).toNat) 0 = (false, s1)) ∧
    (∃ (s : State) (c : Iss), Calm s c ((Use.ksrc 1 1).add (Use.kdst 2 1)) ∧ Calm s c ((Use.ksrc 1 1).add (Use.ksrc 2 1)) ∧ (c.k s 1).toNat % 8 ≠ 0) :=
  ⟨⟨world (tmK 0x4FF8 5), cK 0x4FF8 5, pte0 4, calmOf rfl (by decide), by decide, by decide +kernel, by decide +kernel, [0, 0, 0, 0, 0, 0, 0, 0],
      pairOf (by decide +kernel)⟩,
    ⟨world (tmK 0x4FF8 5), cK 0x4FF8 5, pte0 4, calmOf rfl (by decide), by decide, by decide +kernel, by unfold mayRelease; decide +kernel,
      pairOf (by decide +kernel)⟩,
    ⟨world (tmK 0x4001 5), cK 0x4001 5, calmOf rfl (by decide), calmOf rfl (by decide), by decide⟩⟩

/-- A core's line of 128 bytes, all cached. -/
def line0 (coh : Nat) : CLine := { cells := (List.range 128).map (fun i => (i, (7, false))), coh, pte := pte0 4, va := 0x80 }

theorem sameClassOf {s : State} {core line coh : Nat} {nc : Bool}
    (h : (FMap.get? (s.core core).lines line).all (fun l => l.nc == nc && (nc || l.coh == coh)) = true) : sameClass s core line coh nc := by
  intro l hl
  simpa [hl] using h

/-- A core's line of which one dirty byte is cached. -/
def lineS0 : State := { world tm1 with cores := [(0, { lines := [(0x80, { cells := [(0, (1, true))], pte := pte0 4, va := 0x80 })] })] }

theorem witness_CacheLoads : ∃ (s : State), isMem 0x4000 = true ∧ s.needsGrant (some (pte0 4)) 0x4000 false = false ∧
    (pteCoh (pte0 4 + 2 * 2 ^ 10) = 2 ∧ sameClass (world tm1) 0 0x80 2 false) ∧ (pteCoh (pte0 4) = 0 ∧ sameClass s 0 0x80 0 false) ∧
    (∃ l, FMap.get? (s.core 0).lines (0x4000 / 128) = some l ∧ (∀ i, i < 16 → (FMap.get? l.cells (0x4000 % 128 + i)).isSome = true) ∧ l.runs = []) ∧
    (∃ l, FMap.get? ((world tm1).core 0).lines (0x4000 / 128) = none ∧ FMap.get? (lineS0.core 0).lines (0x4000 / 128) = some l ∧
      (FMap.get? l.cells (0x4000 % 128 + 1)).isSome = false ∧ sameClass lineS0 0 0x80 0 false) :=
  ⟨{ world tm1 with cores := [(0, { lines := [(0x80, line0 0)] })] }, by decide, by decide +kernel, ⟨by decide, sameClassOf (by rfl)⟩,
    ⟨by decide, sameClassOf (by rfl)⟩, ⟨line0 0, by rfl, by decide, by decide⟩, ⟨_, by rfl, rfl, by decide, sameClassOf (by rfl)⟩⟩

/-- The same address with a full and with an empty future, for a group of one thread. -/
def tmF : Team := team { v := [(2, 0x4000)] } (grp [0])
def cF : Iss := issOf tmF (grp [0])
def full : State := { world tmF with mem := [(0x4007, 0x80)] }
def busyF : State := { world tmF with units := { defer := (List.range 256).map (fun i => (0x4000, [(0, i)])) } }

theorem witness_Futures :
    ((Instr.fget 0 8 2 6).wf = true ∧ Calm full cF ((Use.src 2 2).add ((Use.dst 8 2).add (Use.pdst 6))) ∧ cF.g.tids = [0] ∧
      laneOk full cF (fun tid => cF.src64 full tid 2) 8 .read true false ∧ full.homeWaits cF.tm.core false [cF.lanePa full (cF.src64 full 0 2)] = false ∧
      (leNat ((full.prepAll cF [(cF.src64 full 0 2, cF.lanePa full (cF.src64 full 0 2))]).homeBytes 0x4000 8)).testBit 63 = true) ∧
    (laneOk (world tmF) cF (fun tid => cF.src64 (world tmF) tid 2) 8 .read true false ∧
      (leNat (((world tmF).prepAll cF [(cF.src64 (world tmF) 0 2, cF.lanePa (world tmF) (cF.src64 (world tmF) 0 2))]).homeBytes 0x4000 8)).testBit 63 = false ∧
      (world tmF).deferUsed 0x4000 < 256 ∧ 256 ≤ busyF.deferUsed 0x4000) ∧
    ((Instr.fput 0 8 2 0).wf = true ∧ Calm (world tmF) cF ((Use.src 2 2).add ((Use.src 8 2).add (Use.pdst 0))) ∧
      laneOk (world tmF) cF (fun tid => cF.src64 (world tmF) tid 2) 8 .write true true ∧
      (world tmF).homeWaits cF.tm.core true [cF.lanePa (world tmF) (cF.src64 (world tmF) 0 2)] = false ∧ (world tmF).canRelease cF.tm.core = true) := by
  refine ⟨⟨by decide, calmOf rfl (by decide), rfl, ?_, by decide +kernel, by decide +kernel⟩, ⟨?_, by decide +kernel, by decide +kernel, by decide +kernel⟩,
    ⟨by decide, calmOf rfl (by decide), ?_, by decide +kernel, by decide +kernel⟩⟩ <;>
  · intro tid h
    fin_cases h
    exact ⟨pte0 4, by decide +kernel⟩

/-- A lock's unit with all its entries in use, and a lock that the thread holds. -/
def lockFull : State := { world tmF with units := { locks := [(0x4000, (List.range 1024).map (fun i => (1, i, 0)))] } }
def lockMine : State := { world tmF with units := { locks := [(0x4000, [(0, 0, 2 ^ 31)])] } }

theorem witness_QueueLocks : (∀ s ∈ [world tmF, lockFull, lockMine], cF.g.tids = [0] ∧ laneNamed s cF (fun tid => cF.src64 s tid 2) 8 .write true true ∧
      s.homeWaits 0 false [cF.lanePa s (cF.src64 s 0 2)] = false ∧
      Calm s cF ((Use.src 2 2).add ((Use.dst 8 1).add (Use.pdst 6))) ∧ Calm s cF (Use.src 2 2) ∧ mayRelease s cF (s.holdsLock cF.t 0 0x4000)) ∧
    (Instr.qlock 0 8 2 6).wf = true ∧ (Instr.qunlock 0 2).wf = true ∧
    ((world tmF).prepAll cF [(0x4000, (0x4000, pte0 4))]).lockUsed 0x4000 < 1024 ∧ 1024 ≤ (lockFull.prepAll cF [(0x4000, (0x4000, pte0 4))]).lockUsed 0x4000 ∧
    lockMine.holdsLock 0 0 0x4000 = true := by
  refine ⟨?_, by decide, by decide, by decide +kernel, by decide +kernel, by decide +kernel⟩
  intro s h
  fin_cases h <;> refine ⟨rfl, ?_, by decide +kernel, calmOf rfl (by decide), calmOf rfl (by decide), by unfold mayRelease; decide +kernel⟩ <;>
  · intro tid h
    fin_cases h
    exact ⟨pte0 4, by decide +kernel⟩

theorem witness_FenceToken : ∃ (s : State) (c : Iss), (Instr.fence 0 3 119 3).wf = true ∧ Apart s c (Use.dst 119 1) ∧ c.endsWell ∧ c.g.tids = [0] ∧
    0 < c.tm.threads.length :=
  ⟨world tm1, c1, by decide, (calmOf rfl (by decide)).toApart, .inl (.inl (by decide)), rfl, by decide⟩

/-- A phase object at scratch 0 and one at 0x4000, both in phase 1. -/
def tmPh : Team := { tmK 0x4000 0 with scr := [(0, 4), (14, 1)] }
def cPh : Iss := issOf tmPh (grp [0])
def stPh : State := { world tmPh with mem := [(0x4000, 4), (0x400E, 1)] }

/-- That machine once the page has been looked at. -/
def nearPh : State :=
  ((stPh.fillTlb cPh.tm.xlat (cPh.k stPh 1) (pte0 4)).homePrep cPh.tm.core 0x4000 16).noRoute cPh.tm.dieOf cPh.tm.ctx 0x4000

theorem witness_PwaitGoesOn :
    (Apart stPh cPh ((Use.ksrc 2 1).add (Use.src 121 1)) ∧ (cPh.k stPh 2).toNat % 2 ^ 32 % 16 = 0 ∧
      stPh.scrTrap cPh.t ((cPh.k stPh 2).toNat % 2 ^ 32) 16 = none ∧
      ∀ tid ∈ cPh.g.tids, ∀ u off, stPh.scrAt cPh.t ((cPh.k stPh 2).toNat % 2 ^ 32) 16 = some (u, off) →
        (Phase.ofNat (stPh.phGet (.scr u off))).past (cPh.src stPh tid 121).toNat = true) ∧
    (Apart stPh cPh ((Use.ksrc 1 1).add (Use.src 121 1)) ∧ cPh.laneAddr stPh (cPh.k stPh 1) 16 .rmw false false = .ok (pte0 4) ∧
      stPh.needsGrant (some (pte0 4)) 0x4000 false = false ∧ stPh.prepWaits cPh.tm.core 0x4000 16 = false ∧
      ∀ tid ∈ cPh.g.tids, (cPh.tm.thread tid).pwait = false ∧ (Phase.ofNat (nearPh.phGet (.mem 0x4000 (pte0 4)))).past (cPh.src nearPh tid 121).toNat = true) ∧
    (Apart stPh cPh {} ∧ cPh.g.tids ≠ [] ∧ FMap.getD cPh.tm.cnt 3 0 ≤ (0 : BitVec 7).toNat) ∧
    (Apart stPh cPh (Use.src 121 1) ∧ (∀ tid ∈ cPh.g.tids, fenceDone (cPh.tm.thread tid) (cPh.src stPh tid 121).toNat = true) ∧
      ∀ tid ∈ cPh.g.tids, stPh.lockDone cPh.t tid (cPh.src stPh tid 121).toNat = true) := by
  refine ⟨⟨(calmOf rfl (by decide)).toApart, by decide, by decide +kernel, ?_⟩,
    ⟨(calmOf rfl (by decide)).toApart, by decide +kernel, by decide +kernel, by decide +kernel, by decide +kernel⟩,
    ⟨(calmOf rfl (by decide)).toApart, by decide, by decide⟩, ⟨(calmOf rfl (by decide)).toApart, by decide, by decide +kernel⟩⟩
  intro tid h u off hs
  have : stPh.scrAt cPh.t ((cPh.k stPh 2).toNat % 2 ^ 32) 16 = some (0, 0) := by decide +kernel
  rw [this] at hs
  cases hs
  fin_cases h
  decide +kernel

/-- Two threads of a context whose crumb log at 0x4000 has four records and records every flag; v1 is the greatest number, v2 is 1. -/
def ctxCr : Ctx := { ctx0 with sr := { tvec := 0x2001, fmode := 0xF8, crumb := 0x4001, crumbc := 2 + 0xFFFFFFFF * 2 ^ 32 } }
def tmCr : Team := { team { v := [(1, 0x7F7FFFFF), (2, 0x3F800000)] } (grp [0, 1]) with eff := ctxCr }
def cCr : Iss := issOf tmCr (grp [0, 1])
def stCr : State := { world tmCr with ctxs := [(0, ctxCr)] }

theorem xlateOf {s : State} {x : Xlat} {p : Bool} {va : DWord} {k : Access} {P : Nat → Bool}
    (h : (match s.xlate x p va k with | .ok e => P e | .error _ => true) = true) : ∀ e, s.xlate x p va k = .ok e → P e = true := by
  intro e he
  simpa [he] using h

/-- A floating sum that overflows, and a sum of the crew that does. -/
theorem witness_CrumbRecords :
    (∃ p : Plain, float (.fadd 0 0 3 1 1) = some p ∧ Ready stCr cCr p.use ∧ enabled cCr.tm.eff.sr (p.flags stCr cCr) ≠ 0) ∧
    (∃ x : Crossed, crossing (.credAdd 0 2 3 1) = some x ∧ Ready stCr cCr x.use ∧ WholeCrews cCr ∧ enabled cCr.tm.eff.sr (x.flags stCr cCr) ≠ 0) ∧
    cCr.endsWell ∧ cCr.tm.eff.sr.crumb.getLsbD 0 = true ∧
    ∀ e, stCr.xlate cCr.tm.xlat true (ringVa stCr cCr.tm) .write = .ok e → isMem (paOf e (ringVa stCr cCr.tm)) = true :=
  ⟨⟨_, rfl, readyOf rfl (by decide), by decide +kernel⟩, ⟨_, rfl, readyOf rfl (by decide), ⟨by decide, by decide, by decide⟩, by decide +kernel⟩, .inl (.inl (by decide)), by decide,
    xlateOf (by decide +kernel)⟩

/-- The ring's page translates, as the statement asks; and one at 0x900000 does not. -/
def stCrFar : State := { stCr with ctxs := [(0, { ctxCr with sr := { ctxCr.sr with crumb := 0x900001 } })] }
def tmCrFar : Team := { tmCr with eff := { ctxCr with sr := { ctxCr.sr with crumb := 0x900001 } } }

theorem witness_CrumbRecords_record : stCr.mem.wf = true ∧ FMap.get? stCr.ctxs tmCr.ctx = some ctxCr ∧ (∃ e, stCr.xlate tmCr.xlat true (ringVa stCr tmCr) .write = .ok e ∧
      (isMem (paOf e (ringVa stCr tmCr)) && !stCr.foreign (paOf e (ringVa stCr tmCr)) && !stCr.needsGrant (some e) (paOf e (ringVa stCr tmCr)) true &&
        !stCr.sealedIn (paOf e (ringVa stCr tmCr)) 32 && !pteTde e && (FMap.get? stCr.links.poison (paOf e (ringVa stCr tmCr) / 64)).isNone) = true) ∧
    ∃ p, stCrFar.xlate tmCrFar.xlat true (ringVa stCrFar tmCrFar) .write = .error p :=
  ⟨by decide, rfl, ⟨pte0 4, by decide +kernel, by decide +kernel⟩, errOf (by decide +kernel)⟩

theorem standsOf {s : State} {c : Iss} (h : (s.team? c.t).map (fun tm => tm.threads.length) = some c.tm.threads.length) : stands s c := by
  cases hs : s.team? c.t with
  | none => simp [hs] at h
  | some tm => exact ⟨tm, hs, by simpa [hs] using h⟩

theorem aloneK (x y : DWord) : (cK x y).alone 0 := ⟨rfl, Nat.zero_lt_two, rfl⟩

/-- A team where copies do not wait, with the failure flag in p3, on a core whose queue is full. -/
def tmNoWait : Team := { tmK 0x4000 0 with eff := { ctx0 with sr := { tvec := 0x2001, cpymode := 7 } } }
def cNoWait : Iss := issOf tmNoWait (grp [0])
def queueFull : State :=
  { world tmNoWait with ops := (List.range 128).map (fun i =>
      (i, { team := some 1, ctx := 0, tid := 0, hdr := 0, core := 0, priv := false, cls := 0, kind := .copy, copyq := true })) }

/-- A team with a futures result owed to its first thread, which is an acquire. -/
def behind (tm : Team) : Team := { tm with wbs := [{ id := 1, tid := some 0, owner := 0, reg := .v 20, val := none, acq := true }] }

/-- Copies with room that wait; a copy refused; TCLASS. -/
theorem witness_CopiesIssue :
    (∃ (x : Copying) (s : State) (c : Iss), copying (.cpy 0 63 1 59) = some x ∧ (Instr.cpy 0 63 1 59).wf = true ∧ Apart s c (x.use c) ∧ c.alone 0 ∧
      copyRefused s c = false ∧ copyRoom (starts s c true) c x.cls ∧
      stands ((starts s c true).copyOne c x.cls x.kd (.record x.e (x.args s c)) [⟨.glob (c.k s x.a.toNat), .skip, 64, 0, .record⟩] (startsAfter s c true 0) 0) c) ∧
    (∃ (x : Copying) (s : State) (c : Iss), copying (.sread 0 62 1 62) = some x ∧ (Instr.sread 0 62 1 62).wf = true ∧ Apart s c (x.use c) ∧ c.alone 0 ∧
      copyRefused s c = true ∧ copyRoom (starts s c false) c x.cls ∧
      stands ((starts s c false).copyOne c x.cls x.kd (.record x.e (x.args s c)) [⟨.glob (c.k s x.a.toNat), .skip, 256, 0, .record⟩] (startsAfter s c (!copyRefused s c) 0) 0) c) ∧
    (∃ (s : State) (c : Iss), Apart s c (copyUse c (Use.ksrc 1 1)) ∧ bit c.tm.eff.sr.cpymode.toNat 0 = false ∧ c.alone 0 ∧
      copyRoom (starts s c true) c 0 ∧
      stands ((starts s c true).copyOne c 0 [5] (.tclass (c.k s 1) 0) [⟨.glob (c.k s 1), .skip, 1, 0, .tile⟩] (startsAfter s c true 0) 0) c) ∧
    (∃ (s : State) (o : Op) (tm : Team), o.team = some 0 ∧ o.cls < 4 ∧ s.team? 0 = some tm) := by
  refine ⟨⟨_, world (tmK 0x4000 0), cK 0x4000 0, rfl, by decide, apartOf rfl (by decide), aloneK _ _, by decide +kernel,
      ⟨by decide +kernel, .inr (by decide +kernel)⟩, ?_⟩,
    ⟨_, queueFull, cNoWait, rfl, by decide, apartOf rfl (by decide), ⟨rfl, by decide, rfl⟩, by decide +kernel,
      ⟨by decide +kernel, .inl (by decide)⟩, ?_⟩,
    ⟨world (tmK 0x4000 0), cK 0x4000 0, apartOf rfl (by decide), by decide, aloneK _ _,
      ⟨by decide +kernel, .inr (by decide +kernel)⟩, ?_⟩, ⟨world tm1, { team := some 0, ctx := 0, tid := 0, hdr := 0, core := 0, priv := false, cls := 3, kind := .copy }, tm1, rfl,
      by decide, rfl⟩⟩ <;>
  exact standsOf (by decide +kernel)

/-- A copy behind an acquire that has not taken effect. -/
theorem witness_CopiesIssue_behind : ∃ (x : Copying) (s : State) (c : Iss), copying (.cpy 0 63 1 59) = some x ∧ Apart s c (x.use c) ∧ c.alone 0 ∧
    c.acquiring = true ∧ copyRefused s c = false ∧ copyRoom (starts s c true) c x.cls ∧
    stands ((starts s c true).copyOne c x.cls x.kd (.record x.e (x.args s c)) [⟨.glob (c.k s x.a.toNat), .skip, 64, 0, .record⟩] (startsAfter s c true 0) 0) c :=
  ⟨_, world (behind (tmK 0x4000 0)), issOf (behind (tmK 0x4000 0)) (grp [0]), rfl, apartOf rfl (by decide), ⟨rfl, by decide, rfl⟩, by decide, by decide +kernel,
    ⟨by decide +kernel, .inr (by decide +kernel)⟩, standsOf (by decide +kernel)⟩

/-- A core with a dirty line of a non-coherent range. -/
def lineNc : CLine := { cells := [(0, (1, true)), (1, (2, false))], nc := true, pte := pte0 4, va := 0x80 }
def tmNc : Team := { tmK 0x4000 128 with eff := { ctx0 with sr := { ncb := [(15, 0x4001)], ncl := [(15, 0x4000)] } } }
def cNc : Iss := issOf tmNc (grp [0])
def stNc : State := { world tmNc with cores := [(0, { lines := [(0x80, lineNc)] })] }

theorem witness_LineOps : Apart stNc cNc ((Use.ksrc 1 1).add ((Use.ksrc 2 1).add (Use.kdst 5 1))) ∧ cNc.g.tids = [0] ∧ inOrder cNc ∧
    cNc.ncLines stNc (cNc.k stNc 1) (cNc.k stNc 2).toNat = [(0x80, lineNc)] ∧
    ∀ l ∈ cNc.ncLines stNc (cNc.k stNc 1) (cNc.k stNc 2).toNat, stNc.canWriteBack l.1 l.2 = true :=
  ⟨(calmOf rfl (by decide)).toApart, rfl, by unfold inOrder; decide, by decide +kernel, by decide +kernel⟩

/-- A phase object in scratch and one in memory, found by BINIT, BARRIVE and BEXPECT. -/
theorem witness_PhaseOps :
    (cPh.g.tids = [0] ∧ (∀ reads, stPh.findPhase cPh 0 (cPh.k stPh 2) reads = .at (.scr 0 0) ∧ stPh.findPhase cPh 0 0x4000 reads = .none) ∧ Apart stPh cPh ((Use.ksrc 1 1).add ((Use.ksrc 2 1).add (Use.kdst 5 1))) ∧
      Calm stPh cPh (Use.add {} ((Use.ksrc 2 1).add (Use.kdst 5 1))) ∧ inOrder cPh ∧ mayRelease stPh cPh true) ∧
    ((∀ reads, stPh.findPhase cPh 1 (cPh.k stPh 1) reads = .at (.mem 0x4000 (pte0 4))) ∧ (Phase.ofNat (stPh.phGet (.mem 0x4000 (pte0 4)))).expa = 4 ∧
      mayRelease (((stPh.fillTlb cPh.tm.xlat (cPh.k stPh 1) (pte0 4)).homePrep 0 0x4000 16).noRoute 0 0 0x4000) cPh true) :=
  ⟨⟨rfl, by intro reads; cases reads <;> decide +kernel, (calmOf rfl (by decide)).toApart, calmOf rfl (by decide), by unfold inOrder; decide,
      by unfold mayRelease; decide +kernel⟩,
    by intro reads; cases reads <;> decide +kernel, by decide +kernel, by unfold mayRelease; decide +kernel⟩

/-- Slots 0 and 15 asked for: both free; or slot 15 another team's. -/
def slotTaken : State := { world (tmK 0x8001 0) with cores := [(0, { slots := [(15, { state := 1, team := 9 })] })] }

theorem witness_SlotOps :
    (Apart (world (tmK 0x8001 0)) (cK 0x8001 0) ((Use.ksrc 1 1).add (Use.kdst 5 1)) ∧ (cK 0x8001 0).g.tids = [0] ∧
      ∀ n, n < 16 → ((cK 0x8001 0).k (world (tmK 0x8001 0)) 1).toNat.testBit n = true →
        (((world (tmK 0x8001 0)).core 0).slot n).state = 0 ∨ ((world (tmK 0x8001 0)).core 0).holds 0 n = true) ∧
    (Apart slotTaken (cK 0x8001 0) ((Use.ksrc 1 1).add (Use.kdst 5 1)) ∧
      ∃ n, n < 16 ∧ ((cK 0x8001 0).k slotTaken 1).toNat.testBit n = true ∧ ((slotTaken.core 0).slot n).state ≠ 0 ∧ (slotTaken.core 0).holds 0 n = false) :=
  ⟨⟨(calmOf rfl (by decide)).toApart, rfl, by decide⟩, (calmOf rfl (by decide)).toApart, 15, by decide, by decide, by decide, by decide⟩

/-- Slots 0 to 15 hold i8 tiles. -/
def slots8 : FMap OSlot := (List.range 16).map (fun n => (n, { state := 3, team := 0, fmt := 6 }))
def stMat : State := { world (tmK 0 0) with cores := [(0, { slots := slots8 })] }

theorem matrixMeets (m : Mat) (h : (decide (m.cv < 8) && (cK 0 0).matTrap stMat m == none &&
    decide ((FMap.getD (tmK 0 0).cv m.cv (0, 0)).2 = (FMap.getD (tmK 0 0).cv m.cv (0, 0)).1) &&
    m.names.all (fun n => ((stMat.core 0).slot n).state != 2) && !(cK 0 0).behind m.cv) = true) :
    m.cv < (cK 0 0).tm.tr.cv ∧ (cK 0 0).behind m.cv = false ∧ (cK 0 0).matTrap stMat m = none ∧ signed stMat (cK 0 0) m ∧
      signed (starts stMat (cK 0 0) true) (cK 0 0) m ∧ (starts stMat (cK 0 0) true).cntRoom 0 2 = true := by
  simp only [Bool.and_eq_true, decide_eq_true_eq, beq_iff_eq, List.all_eq_true, Bool.not_eq_true', bne_iff_ne] at h
  obtain ⟨⟨⟨⟨h1, h2⟩, h3⟩, h4⟩, h5⟩ := h
  exact ⟨h1, h5, h2, ⟨tmK 0 0, rfl, rfl, h3, h4⟩, ⟨tmK 0 0, rfl, rfl, h3, h4⟩, by decide +kernel⟩

theorem witness_MatrixIssues : ∀ i ∈ ([.mma 0 7 0 15 1 1 1 1, .mmag 0 0 15 0 0 0 1 0] : List Instr), ∃ u f, multiplying i = some (u, f) ∧ i.wf = true ∧
    Apart stMat (cK 0 0) u ∧ (cK 0 0).alone 0 ∧
    (let m := f stMat (cK 0 0)
     m.cv < (cK 0 0).tm.tr.cv ∧ (cK 0 0).behind m.cv = false ∧ (cK 0 0).matTrap stMat m = none ∧ signed stMat (cK 0 0) m ∧
       signed (starts stMat (cK 0 0) true) (cK 0 0) m ∧ (starts stMat (cK 0 0) true).cntRoom 0 2 = true) := by
  intro i h
  fin_cases h
  · exact ⟨_, _, rfl, by decide, apartOf rfl (by decide), aloneK _ _, matrixMeets _ (by decide +kernel)⟩
  · exact ⟨_, _, rfl, by decide, apartOf rfl (by decide), aloneK _ _, matrixMeets _ (by decide +kernel)⟩

/-- One slot, and eight slots, of i8 for B, with and without metadata. -/
theorem witness_MatrixProduct : ∃ (k : CoreSt) (a : OSlot) (b1 b8 : List OSlot) (m : OSlot), a.fmt = 6 ∧ b1.length = 1 ∧ b8.length = 8 ∧
    (∀ b ∈ b1 ++ b8, b.fmt = 6) ∧ FMap.getD k.cnt 1 0 = 0 ∧ k.elem 64 0 = 5 ∧ i8At false a 0 0 = -128 ∧ i8At true a 0 1 = -128 ∧ m.num 0 8 = 0xE4 :=
  ⟨{ acc := [(4096, 5)] }, { fmt := 6, data := [(0, 0x80), (64, 0x80)] }, [{ fmt := 6 }], List.replicate 8 { fmt := 6 }, { fmt := 6, data := [(0, 0xE4)] },
    rfl, rfl, rfl, by decide, rfl, rfl, by decide, by decide, by decide⟩

/-- Ranges of units and windows, at the team's last row and beyond it. -/
theorem witness_AccumulatorOps :
    (Apart (world (tmK 0x00010002 0)) (cK 0x00010002 0) (Use.ksrc 1 1) ∧ bits (0x00010002 : DWord).toNat 31 16 ≠ 0 ∧ (rec0).acc / 64 < 2 + 1) ∧
    (Apart (world (tmK 0x00010001 0)) (cK 0x00010001 0) (Use.ksrc 1 1) ∧ (cK 0x00010001 0).alone 0 ∧ 1 + 1 ≤ rec0.acc / 64 ∧
      stands (starts (world (tmK 0x00010001 0)) (cK 0x00010001 0) true) (cK 0x00010001 0) ∧
      (starts (world (tmK 0x00010001 0)) (cK 0x00010001 0) true).cntRoom 0 2 = true) ∧
    (Ready (world (tmK 0x00810000 0)) (cK 0x00810000 0) (Use.ksrc 1 1) ∧ (cK 0x00810000 0).endsWell ∧ rec0.acc < bits (0x00810000 : DWord).toNat 31 16) ∧
    (Ready (world (tmK 0x00800000 0)) (cK 0x00800000 0) (Use.ksrc 1 1) ∧ bits (0x00800000 : DWord).toNat 31 16 ≤ rec0.acc) :=
  ⟨⟨apartOf rfl (by decide), by decide, by decide⟩,
    ⟨apartOf rfl (by decide), aloneK _ _, by decide, ⟨_, rfl, by decide⟩, by decide +kernel⟩,
    ⟨readyOf rfl (by decide), .inl (.inl (by decide)), by decide⟩, readyOf rfl (by decide), by decide⟩

theorem witness_PromotionInterval : ∃ (s : State) (c : Iss), Ready s c {} ∧ c.endsWell := ⟨world tm2, c2, readyOf rfl (by decide), .inl (.inl (by decide))⟩

/-- A window up to the last row of the team, whose last row is read and written. -/
def tmAcc : Team := { tmK 64 0 with aw := [(0, (0, 128))] }
def cAcc : Iss := issOf tmAcc (grp [0])

theorem witness_AccumulatorElements : Ready (world tmAcc) cAcc ((Use.ksrc 1 1).add (Use.dst 119 1)) ∧ Ready (world tmAcc) cAcc ((Use.ksrc 1 1).add (Use.src 122 1)) ∧
    ∀ tid ∈ cAcc.g.tids, cAcc.accRow (world tmAcc) 1 63 tid = some 127 ∧ (world tmAcc).rowBusy cAcc.t (cAcc.tm.accBase * 64 + 127) = false ∧
      (cAcc.tm.accBase * 64 + 127) * 4 + (32 * 1 + tid % 32) / 16 ∉ ((world tmAcc).core cAcc.tm.core).accBad :=
  ⟨readyOf rfl (by decide), readyOf rfl (by decide), by decide⟩

/-- Rows 127 and beyond: into memory at 0x4000, into scratch at its last 256 bytes, out of range, an empty range, reserved bits. -/
theorem witness_AccumulatorMoves : ∀ y ∈ ([0x10001007F, 0x1007F, 0x2007E, 0x7F, 0x20001007F] : List DWord), ∀ x ∈ ([0x4000, 0x3F00] : List DWord),
    (Instr.ald 0 1 121).wf = true ∧ Apart (world (tmK x y)) (cK x y) ((Use.ksrc 1 2).add (Use.dst 121 1)) ∧ (cK x y).alone 0 ∧
    stands (starts (world (tmK x y)) (cK x y) true) (cK x y) ∧
    (starts (world (tmK x y)) (cK x y) true).cntRoom 0 2 = true ∧ bits y.toNat 15 0 + bits y.toNat 31 16 ≤ rec0.acc ∧ x.toNat % 256 = 0 := by
  intro y hy x hx
  fin_cases hy <;> fin_cases hx <;>
  exact ⟨by decide, apartOf rfl (by decide), aloneK _ _, ⟨_, rfl, by decide⟩, by decide +kernel, by decide,
    by decide⟩

/-- Matrix operations and moves behind an acquire that has not taken effect. -/
theorem witness_MatrixIssues_behind : ∀ u ∈ ([Use.ksrc 1 1, (Use.ksrc 1 2).add (Use.dst 121 1)] : List Use), ∃ (s : State) (c : Iss), Apart s c u ∧ c.alone 0 ∧
    c.acquiring = true ∧ stands (starts s c true) c ∧ (starts s c true).cntRoom 0 2 = true := by
  intro u h
  fin_cases h <;>
  exact ⟨world (behind (tmK 0x4000 0x10000)), issOf (behind (tmK 0x4000 0x10000)) (grp [0]), apartOf rfl (by decide), ⟨rfl, by decide, rfl⟩, by decide,
    ⟨_, rfl, by decide⟩, by decide +kernel⟩

/-- Scratch has room for one row at 0x3F00 and not for two. -/
theorem witness_AccumulatorMoves_scratch : (world tm1).scrAt 0 0x3F00 256 = some (0, 0x3F00) ∧ (world tm1).scrAt 0 0x3F00 512 = none := by decide +kernel

/-- A team whose scratch is its own table space, a table of 16 buckets at 0x40 with the key 17, and one without. -/
def rec1 : TeamRec := { rec0 with claim := 4 }
def tabHeader : FMap Byte := [(0, 0x14), (4, 1), (0x40, 17), (0x44, 9)]
def tmH (tab : FMap Byte) : Team := { team { v := [(4, 7)] } (grp [0, 1]) with k := [(1, 0x40), (2, 0)], scr := tab, tr := rec1 }
def cH (tab : FMap Byte) : Iss := issOf (tmH tab) (grp [0, 1])

theorem keyedOf {ε α β γ : Type} {x : Except ε (α × β × List γ × BitVec 5)} (h : (match x with | .ok r => r.2.2.1.isEmpty | .error _ => false) = true) :
    ∃ s1 res fl, x = .ok (s1, res, [], fl) := by
  rcases x with _ | ⟨a, b, l, f⟩
  · simp at h
  · cases l with
    | nil => exact ⟨a, b, f, rfl⟩
    | cons _ _ => simp at h

/-- The hash instructions on what is no table. -/
theorem witness_KeyedHashes : ∀ i ∈ ([.hins 0 1 4, .hprobe 0 1 4, .hdel 0 1 4, .hacc 0 4 1 4] : List Instr), ∃ st op u k q,
    hashing i = some (st, op, u, k, q) ∧ i.wf = true ∧ Calm (world (tmH [])) (cH []) (useHash op k q) ∧
    ∃ s1 res fl, (world (tmH [])).keyedAll (cH []) (((cH []).k (world (tmH [])) k.toNat).toNat % 2 ^ 32) op u q.toNat = .ok (s1, res, [], fl) := by
  intro i h
  fin_cases h <;> exact ⟨_, _, _, _, _, rfl, by decide, calmOf rfl (by decide), keyedOf (by decide +kernel)⟩

/-- A handle that names no table; one that names a table. -/
theorem witness_KeyedHashes_table : (world (tmH [])).htabOf 0 0x40 = .ok none ∧
    (world (tmH tabHeader)).htabOf 0 0x40 = .ok (some ⟨0, 0x40, 4, 1, 0, 0, 0, 0⟩) := ⟨okEq (by decide +kernel), okEq (by decide +kernel)⟩

theorem witness_KeyedHashes_find : ∃ h, (world (tmH tabHeader)).htabOf 0 0x40 = .ok (some h) ∧
    (match (world (tmH tabHeader)).hfind (tmH tabHeader) h 17 with | .ok (_, some _) => true | _ => false) = true ∧
    (match (world (tmH tabHeader)).hfind (tmH tabHeader) h 8 with | .ok (_, none) => true | _ => false) = true :=
  ⟨⟨0, 0x40, 4, 1, 0, 0, 0, 0⟩, okEq (by decide +kernel), by decide +kernel, by decide +kernel⟩

/-- Threads whose v4 is a reserved key: the operations complete, and the group's threads have it. -/
theorem witness_KeyedHashes_badkey : ∀ op, op < 4 → ∃ c s1 res traps fl, c.g.tids = [0, 1] ∧ (∀ tid ∈ c.g.tids, badKey (c.src (world (tmH tabHeader)) tid 4) = true) ∧
    (world (tmH tabHeader)).keyedAll c 0x40 op 4 4 = .ok (s1, res, traps, fl) := by
  intro op h
  have : ∃ s1 res fl, (world (tmH tabHeader)).keyedAll ⟨0, { tmH tabHeader with threads := [{ v := [(4, 0xFFFFFFFE)] }, { v := [(4, 0xFFFFFFFF)] }] }, 0, grp [0, 1]⟩ 0x40 op 4 4 =
      .ok (s1, res, [], fl) := by
    interval_cases op <;> exact keyedOf (by decide +kernel)
  obtain ⟨s1, res, fl, h⟩ := this
  exact ⟨_, s1, res, [], fl, rfl, by decide, h⟩

/-- The key 8 finds a free slot in its bucket; a bucket of which every slot is taken by key 17 has none, with and without a spill entry left. -/
def fullBucket (scap : Nat) : FMap Byte :=
  [(0, 0x14), (4, 8), (16, BitVec.ofNat 8 scap), (21, 0x40)] ++ (List.range 8).map (fun j => (0x40 + 64 * hashBucket 8 4 + 8 * j, 17))

def fullTable (scap : Nat) : HTab := ⟨0, 0x40, 4, 8, 0, 0, scap, 0x4000⟩

/-- A table whose bucket of key 8 begins with an empty slot. -/
def freeBucket : FMap Byte := [(0, 0x14)] ++ (List.range 4).map (fun j => (0x40 + 64 * hashBucket 8 4 + j, 0xFF))

theorem witness_KeyedHashes_place : badKey 8 = false ∧
    (let s := world (tmH freeBucket)
     let h : HTab := ⟨0, 0x40, 4, 0, 0, 0, 0, 0⟩
     s.htabOf 0 0x40 = .ok (some h) ∧ s.hfind (tmH freeBucket) h 8 = .ok ([], none) ∧
       ∃ p, (h.slots (hashBucket 8 4)).find? (fun p => s.hget h p % 2 ^ 32 == 0xFFFFFFFF || s.hget h p % 2 ^ 32 == 0xFFFFFFFE) = some p) ∧
    ∀ scap, scap < 2 → (world (tmH (fullBucket scap))).htabOf 0 0x40 = .ok (some (fullTable scap)) ∧
      (world (tmH (fullBucket scap))).hfind (tmH (fullBucket scap)) (fullTable scap) 8 = .ok ([], none) ∧
      ((fullTable scap).slots (hashBucket 8 4)).find? (fun p => (world (tmH (fullBucket scap))).hget (fullTable scap) p % 2 ^ 32 == 0xFFFFFFFF ||
        (world (tmH (fullBucket scap))).hget (fullTable scap) p % 2 ^ 32 == 0xFFFFFFFE) = none ∧
      ∃ p, (world (tmH (fullBucket scap))).spillAt (tmH (fullBucket scap)) (fullTable scap) 0 = .ok p := by
  refine ⟨by decide, ⟨okEq (by decide +kernel), okEq (by decide +kernel), someOf (by decide +kernel)⟩, fun scap h => ?_⟩
  interval_cases scap <;> exact ⟨okEq (by decide +kernel), okEq (by decide +kernel), by decide +kernel, okOf (by decide +kernel)⟩

theorem witness_HashBucket : ∃ (k h0 h1 h2 : Word) (n : Nat), 4 ≤ n ∧ n ≤ 12 ∧ h0 = k ^^^ (k >>> 16) ∧ h1.toNat = h0.toNat * 0x6A09E667 % 2 ^ 32 ∧ h2 = h1 ^^^ (h1 >>> 13) :=
  ⟨1, 1, 0x6A09E667, 0x6A09E667 ^^^ (0x6A09E667 >>> 13), 12, by decide, by decide, by decide, by decide, by decide⟩

/-- A team of one issuing thread over the same tables. -/
def tmT (tab : FMap Byte) (k1 : DWord) (v : FMap Word) : Team := { team { v } (grp [0]) with k := [(1, k1), (2, 0), (3, 0)], scr := tab, tr := rec1 }
def cT (tab : FMap Byte) (k1 : DWord) (v : FMap Word) : Iss := issOf (tmT tab k1 v) (grp [0])

theorem witness_WholeTables :
    ((Instr.hstat 0 1 4).wf = true ∧ (Instr.hrel 0 1 4).wf = true ∧ (Instr.hclaim 0 1 4).wf = true ∧ (Instr.hdrain 0 1 4).wf = true) ∧
    (Calm (world (tmT tabHeader 0x40 [])) (cT tabHeader 0x40 []) ((Use.ksrc 1 1).add (Use.dst 4 4)) ∧
      Calm (world (tmT tabHeader 0x40 [])) (cT tabHeader 0x40 []) ((Use.ksrc 1 1).add (Use.dst 6 2)) ∧ (cT tabHeader 0x40 []).g.tids = [0] ∧
      (world (tmT tabHeader 0x40 [])).htabOf 0 0x40 = .ok (some ⟨0, 0x40, 4, 1, 0, 0, 0, 0⟩)) ∧
    (∀ k1 ∈ ([0x400000041, 0x400000040] : List DWord), Calm (world (tmT tabHeader k1 [])) (cT tabHeader k1 []) ((Use.ksrc 1 3).add (Use.dst 6 2))) ∧
    (world (tmT tabHeader 0 [])).tableTrap 0 0 64 = none ∧ (∃ l, (world (tmT tabHeader 0 [])).liveEntries (tmT tabHeader 0 []) ⟨0, 0x40, 4, 1, 0, 0, 0, 0⟩ = .ok l) ∧
    claimRange (tmT [] 0 []) 0x400000041 0 0 = true ∧ claimRange (tmT [] 0 []) 0x400000040 0 0 = false ∧
    (leNat ((world (tmT tabHeader 0 [])).scrGet 0 0 1)).testBit 4 = true ∧ (leNat ((world (tmT [] 0 [])).scrGet 0 0 1)).testBit 4 = false ∧
    Calm (world (tmT tabHeader 0x40 [])) (cT tabHeader 0x40 []) ((Use.ksrc 1 1).add ((Use.src 4 3).add (Use.dst 6 2))) ∧
    drainRange (tmT [] 0 []) 0 ⟨0, 0x40, 4, 1, 0, 0, 0, 0⟩ 0x3FF8 2 0 = true ∧ drainRange (tmT [] 0 []) 0 ⟨0, 0x40, 4, 1, 0, 0, 0, 0⟩ 0x3FF8 1 1 = false := by
  refine ⟨by decide, ⟨calmOf rfl (by decide), calmOf rfl (by decide), rfl, okEq (by decide +kernel)⟩, ?_, by decide +kernel, okOf (by decide +kernel), by decide, by decide, by decide +kernel,
    by decide +kernel, calmOf rfl (by decide), by decide, by decide⟩
  intro k1 h
  fin_cases h <;> exact calmOf rfl (by decide)

/-- One thread, alone, inside a region that is open, with v2-v3 at 0x4000. -/
def reg0 : Region := { strict := true, handler := 0x2000, creg := 5 }
def tmR (r : Option Region) : Team := { team { v := [(2, 0x4000)], region := r, xhi := 2 ^ 63 - 1 } (grp [0]) with k := [(1, 0x2000)] }
def cR (r : Option Region) : Iss := issOf (tmR r) (grp [0])

theorem witness_RegionOps :
    (Apart (world tm2) c2 ((Use.ksrc 63 1).add ⟨[], [], 112, false⟩) ∧ c2.endsWell ∧ c2.g.tids.Nodup ∧ (world tm2).openRegions 0 + c2.g.tids.length ≤ 64) ∧
    ((Instr.xrd 0 1 110).wf = true ∧ Ready (world (tmR reg0)) (cR reg0) (Use.dst 110 2) ∧ (cR reg0).endsWell) ∧ Apart (world tm2) c2 {} ∧
    (inside (cR reg0) 0 reg0 ∧ Ready (world (tmR reg0)) (cR reg0) {} ∧
      ((world (tmR reg0)).abortRegion 0 0 6 5).iss = none ∧ (Instr.xend 0 63 110).wf = true ∧
      Ready (world (tmR reg0)) (cR reg0) ((Use.dst 110 2).add (Use.kdst 63 1))) ∧
    ((Instr.xst 0 2 8 2 31).wf = true ∧ (Instr.xld 0 2 8 2 31).wf = true ∧ Ready (world (tmR reg0)) (cR reg0) ((Use.src 2 2).add (Use.src 8 2)) ∧
      Ready (world (tmR reg0)) (cR reg0) ((Use.src 2 2).add (Use.dst 8 2)) ∧ (cR reg0).xAbort (world (tmR reg0)) 0 0x40F8 8 true = none ∧
      (cR reg0).xAbort (world (tmR reg0)) 0 0x40F8 8 false = none) :=
  ⟨⟨(calmOf rfl (by decide)).toApart, .inl (.inl (by decide)), by decide, by decide⟩, ⟨by decide, readyOf rfl (by decide), .inl (.inl (by decide))⟩,
    (calmOf rfl (by decide)).toApart,
    ⟨⟨rfl, rfl, rfl, by decide +kernel⟩, readyOf rfl (by decide), by decide +kernel, by decide, readyOf rfl (by decide)⟩,
    ⟨by decide, by decide, readyOf rfl (by decide), readyOf rfl (by decide), by decide +kernel, by decide +kernel⟩⟩

/-- The same thread behind an acquire that has not taken effect: XEND, XST and XLD issue. -/
theorem witness_RegionOps_behind : (issOf (behind (tmR reg0)) (grp [0])).acquiring = true ∧ inside (issOf (behind (tmR reg0)) (grp [0])) 0 reg0 ∧
    ∀ u ∈ ([(Use.dst 110 2).add (Use.kdst 63 1), (Use.src 2 2).add (Use.src 8 2), (Use.src 2 2).add (Use.dst 110 2)] : List Use),
      Ready (world (behind (tmR reg0))) (issOf (behind (tmR reg0)) (grp [0])) u :=
  ⟨by decide, ⟨rfl, rfl, rfl, by decide +kernel⟩, by intro u h; fin_cases h <;> exact readyOf rfl (by decide)⟩

/-- The second thread alone of the group inside its region. -/
def tmOne : Team := { tmR none with threads := [{}, { region := some reg0, xhi := 2 ^ 63 - 1 }], groups := [(0, grp [0, 1])] }

/-- Every kind of forbidden instruction inside a region; where one thread of two is inside it, the other goes on. -/
theorem witness_RegionOps_forbidden : (∀ i ∈ ([.xbegin 0 0 63 5, .pwaitCnt 0 3 0, .yield 0, .atoms 0 0 8 2 0 0, .kst 0 1 63 0 3 0, .cpy 0 63 1 59, .barrive 0 63 1 1,
      .scommit 0 63 1 62, .sclaim 0 63 1, .hins 0 1 8, .hstat 0 1 8] : List Instr), ∃ x, outlawed (cR reg0) i = some x ∧ Ready (world (tmR reg0)) (cR reg0) x.1) ∧
    (cR reg0).closing = false ∧ (cR reg0).acquiring = false ∧ ((world (tmR reg0)).abortRegion 0 0 7 0).iss = none ∧
    Ready (world tmOne) (issOf tmOne (grp [0, 1])) {} ∧ ∃ c', ((world tmOne).abortRegion 0 1 7 0).iss = some c' ∧ Apart ((world tmOne).abortRegion 0 1 7 0) c' {} := by
  refine ⟨?_, by decide, by decide, by decide +kernel, readyOf rfl (by decide), _, rfl, apartOf rfl (by decide +kernel)⟩
  intro i h
  fin_cases h <;> exact ⟨_, rfl, readyOf rfl (by decide)⟩

theorem witness_DirectIssues : ∀ i ∈ ([.scommit 0 63 1 62, .sraise 0 62 1 62, .squery 0 61 1 63, .sstart 0 63 1, .sstop 0 63 1, .glaunch 0 63 1 60 6,
    .qput 0 63 1 63 0] : List Instr), ∃ x, operating i = some x ∧ i.wf = true ∧ Apart (world tm1) c1 (x.use.add x.writes) ∧
      c1.g.tids = [0] := by
  intro i h
  fin_cases h <;> exact ⟨_, rfl, by decide, apartOf rfl (by decide), rfl⟩

/-- Behind an acquire that has not taken effect. -/
theorem witness_DirectIssues_behind : ∀ i ∈ ([.scommit 0 63 1 62, .glaunch 0 63 1 60 6] : List Instr), ∃ x, operating i = some x ∧ x.rel = true ∧
    Apart (world (behind tm1)) (issOf (behind tm1) (grp [0])) (x.use.add x.writes) ∧ (issOf (behind tm1) (grp [0])).acquiring = true := by
  intro i h
  fin_cases h <;> exact ⟨_, rfl, rfl, apartOf rfl (by decide), by decide⟩

/-- A started set of four cells at 0x4000. -/
def set0 : Machine.SSet :=
  { va := 0x4000, pa := 0x4000, ctx := 0, die := 0, tr := rec0, n := 4, thr := 0x3F800000, add := false, cls := 1, look := 0, vector := 0, vsize := 0, table := 0x4100,
    vbase := 0, adj := 0, tags := 0, pref := 0, qrec := 0x4200, phase := 0, watch := [], cmask := BitVec.allOnes 192, rseq := 0 }
def stSet (e : Machine.SSet) : State := { world tm1 with sets := [(3, e)] }
def x0 : Xlat := tm1.xlat

theorem witness_RaiseAccepted : (stSet set0).xlate x0 false 0x4000 .read = .ok (pte0 4) ∧ (world tm1).setAt (paOf (pte0 4) 0x4000) = none ∧
    (∀ b, (stSet { set0 with stopping := b }).setAt (paOf (pte0 4) 0x4000) = some (3, { set0 with stopping := b }) ∧
      FMap.get? (stSet { set0 with stopping := b }).sets 3 = some { set0 with stopping := b }) ∧ set0.n ≤ 4 ∧ 3 < set0.n := by
  refine ⟨by decide +kernel, by decide +kernel, ?_, by decide, by decide⟩
  intro b
  cases b <;> exact ⟨rfl, rfl⟩

/-- Contexts with and without privilege; a shootdown that all dies have answered. -/
def tmUser : Team := { tm1 with eff := { ctx0 with priv := false } }
def shot : Shoot := { id := 7, team := 0, grp := 0, ctx := 0, all := true, vpn := 0, dies := [] }

theorem witness_SystemRegisters :
    (∀ tm ∈ [tm1, tmUser], Ready (world tm) (issOf tm (grp [0])) (Use.kdst 63 1) ∧ Ready (world tm) (issOf tm (grp [0])) (Use.ksrc 63 1)) ∧
    tm1.eff.priv = true ∧ tmUser.eff.priv = false ∧ (world tm1).shoots.find? (fun y => y.team == 0 && y.grp == 0) = none ∧
    ({ world tm1 with shoots := [shot] } : State).shoots.find? (fun y => y.team == 0 && y.grp == 0) = some shot ∧ shot.dies = [] := by
  refine ⟨?_, rfl, rfl, rfl, rfl, rfl⟩
  intro tm h
  fin_cases h <;> exact ⟨readyOf rfl (by decide), readyOf rfl (by decide)⟩

-- Events.

/-- Two results owed, a fence of memory and engines that nothing holds up, page 3 of scratch asked for. -/
def tmEv : Team :=
  { tm1 with wbs := [{ id := 1, tid := some 0, owner := 0, reg := .v 1, val := none }, { id := 2, tid := some 1, owner := 1, reg := .v 1, val := some 5 }], refill := [3],
             threads := [{ fences := [{ seq := 1, cls := 3, sem := 3 }] }, {}] }

theorem witness_ResultEvents : (world tmEv).team? 0 = some tmEv ∧ tmEv.stored = 0 ∧
    (∃ (i : Nat) (w : Wb) (x : DWord), tmEv.wbs[i]? = some w ∧ w.val = some x ∧ (∀ (j : Nat) (o : Wb), j < i → tmEv.wbs[j]? = some o → o.reg = w.reg → o.tid ≠ w.tid)) ∧
    (∃ f, (tmEv.thread 0).fences.find? (fun f => !f.done) = some f ∧ (∀ id ∈ f.ops, ∀ o, (world tmEv).op? id = some o → o.done = true) ∧
      (∀ w ∈ tmEv.wbs, w.val = none → w.id ∉ f.owed) ∧ (∀ l ∈ tmEv.laters, l.id ∉ f.owed) ∧ (f.cls % 2 = 1 → (world tmEv).canRelease tmEv.core = true ∧ f.ncs = [])) ∧
    (tmEv.active = true ∧ 3 ∈ tmEv.refill ∧ frameAt (world tmEv) 0 1 = none ∧ ∀ g, g < 1 → frameAt (world tmEv) 0 g ≠ none) := by
  refine ⟨rfl, rfl, ⟨1, _, 5, rfl, rfl, ?_⟩, ⟨{ seq := 1, cls := 3, sem := 3 }, rfl, by simp, by decide, by decide, by decide +kernel⟩, by decide, by decide, by decide, by decide⟩
  intro j o hj ho
  have : j = 0 := by omega
  subst this
  cases ho
  decide

/-- An operation of the team 0. -/
def op0 : Op := { team := some 0, ctx := 0, tid := 0, hdr := 0x1000, core := 0, priv := true, cls := 2, kind := .copy }
def far : Chunk := ⟨.glob 0x900000, .skip, 64, 0, .look⟩
def stOp (o : Op) : State := { world tm1 with ops := [(4, o)], nextId := 20 }

theorem witness_EngineEvents :
    (({ op0 with chunks := [far] } : Op).chunks ≠ []) ∧
    (∀ k ∈ ([.azero 0 2, .mma 0 16 false true false {} [{}] none, .ald, .copy, .sread 3 0 0 0 0 0] : List OpKind),
      (stOp { op0 with kind := k }).op? 4 = some { op0 with kind := k } ∧ ({ op0 with kind := k } : Op).landed = true ∧
      (stOp { op0 with kind := k }).matrixTurn 4 { op0 with kind := k } = true ∧
      (∀ e ∈ (stOp { op0 with kind := k }).ops, e.1 < 4 → e.2.core = 0 → e.2.done = true) ∧
      ∀ h ∈ ((stOp { op0 with kind := k }).core 0).accBad, h / 256 ≠ 0) ∧
    ((stOp { op0 with failed := [far] }).unitFault { op0 with failed := [far] } far = some 0x900000 ∧ (stOp op0).queued (some 0) 0 < 64 ∧ op0.phase = .none) ∧
    ((stOp { op0 with done := true }).ops.find? (fun e => e.2.team == some 0 && e.2.cls == 2)) = some (4, { op0 with done := true }) ∧
    (∀ tm, (stOp { op0 with done := true }).team? 0 = some tm → ∀ w ∈ tm.wbs, w.id ∉ op0.wbs) := by
  refine ⟨by decide, ?_, ⟨by decide +kernel, by decide, rfl⟩, by decide +kernel, fun tm _ w _ h => by cases h⟩
  intro k h
  fin_cases h <;> decide +kernel

/-- An ordered set of one contribution to the word at 0x4000. -/
def contr : Op :=
  { op0 with cls := 3, kind := .reduceOrd 0x4000 0 1 false, got := [(0x4000, 1), (0x4001, 0), (0x4002, 0), (0x4003, 0)],
             pas := [(0x4000, 0x4000), (0x4001, 0x4001), (0x4002, 0x4002), (0x4003, 0x4003)] }

/-- An operation all of whose parts have landed and whose object at scratch 0 has still 64 bytes to take; and one that is ordered does not count so. -/
theorem witness_EngineEvents_counts :
    (let o : Op := { op0 with phase := .scratch 0, nominal := 64 }
     (stOp o).op? 4 = some o ∧ o.done = false ∧ o.landed = true ∧ (stOp o).matrixTurn 4 o = true ∧ o.counts = true) ∧
    ∀ k ∈ ([.azero 0 2, .mma 0 16 false true false {} [{}] none, .ald, .copy] : List OpKind), ({ op0 with kind := k } : Op).done = false ∧ ({ op0 with kind := k } : Op).counts = false := by
  decide +kernel

theorem witness_EngineEvents_set : ((stOp contr).redSet 0x4000 1).length = 1 ∧ (∀ e ∈ (stOp contr).redSet 0x4000 1, e.2.1.landed = true) ∧
    (∀ p ∈ (setElems ((stOp contr).redSet 0x4000 1)).flatMap Prod.snd, (stOp contr).setWaits ((stOp contr).redSet 0x4000 1) p = false) ∧
    (setElems ((stOp contr).redSet 0x4000 1)).map Prod.fst = [0x1000] ∧ ∀ i, i < 4 → (world tm1).poisoned (0x4000 + i) 1 = none := by
  decide +kernel

/-- A waiting release, and a parked unit of an engine operation. -/
def stRel : State :=
  { stOp op0 with rels := [(5, ⟨0, 0, 1, [], 9⟩)], cores := [(0, { slots := [(0, { state := 1, team := 0 })] })],
                  faults := [(6, ⟨some 0, 0, .engine, 4, 0x900000, [far], 0⟩)] }

theorem witness_EngineEvents_units : FMap.get? stRel.rels 5 = some ⟨0, 0, 1, [], 9⟩ ∧ (stRel.core 0).holds 0 0 = true ∧
    FMap.get? stRel.faults 6 = some ⟨some 0, 0, .engine, 4, 0x900000, [far], 0⟩ ∧ stRel.op? 4 = some op0 ∧ op0.phase = .none ∧ op0.status = 0 ∧ ((stRel.core 0).slot 0).state ≠ 2 ∧
    ∀ e a, op0.kind ≠ .record e a := ⟨by decide, by decide, by decide, by decide, rfl, rfl, by decide, fun _ _ h => by cases h⟩

/-- A team that is saved, one that is parked and ready, and one that waits at a PWAIT for a counter. -/
def tmSaved : Team := { tm2 with groups := [], active := false, life := .saved, stored := 2, tr := { rec0 with acc := 0 } }
def tmParked : Team := { tm2 with groups := [], active := false, readySince := some 0, slot := 1, threads := [{ pc := 0x1000, npc := 0x1000 }] }
def stParked : State := { world tmParked with cur := none, clock := 125000 }

theorem witness_TeamEvents_place : ∃ s1, (({ world tmSaved with cur := none } : State).placeSaved 0 tmSaved) = some s1 := someOf (by decide +kernel)

/-- A launch of one team of two threads, on a die whose pool of save areas is known. -/
def launch0 : Machine.Launch := { ctx := 0, die := 0, prio := 0, tr := { rec0 with acc := 0 }, ext := (1, 1, 1), order := [(0, 0)], cohort := 0, total := 1, left := 1 }
def stLaunch : State := { world tm1 with teams := [], cur := none, launches := [(7, launch0)], dies := [(0, { svpaSet := true, svvaSet := true })] }

theorem witness_TeamEvents_launch : stLaunch.teams = [] ∧ launch0.die = 0 ∧ launch0.open = true ∧ (stLaunch.ctx launch0.ctx).v = true ∧
    (∃ s1, stLaunch.placeLaunch 7 launch0 = some s1) ∧ ∃ s', stLaunch.putGrid 7 launch0 0 0 = some s' :=
  ⟨rfl, rfl, by decide, rfl, someOf (by decide +kernel), someOf (by decide +kernel)⟩

theorem witness_TeamEvents_activate :
    (∃ base, longest stParked.clock ((stParked.waiting 0).filter (fun e => stParked.coreOpen 0 e.2.ctx && (stParked.fitsActive 0 e.2.tr).isSome)) = some (0, tmParked) ∧
      stParked.fitsActive 0 tmParked.tr = some base) ∧
    ((stParked.core 0).held = false ∧ stParked.shareAllows 0 tmParked.standing = true ∧
      longest stParked.clock ((stParked.parkedOn 0).filter (fun e => (e.2.life == .live || e.2.life == .saving) && decide (0 < stParked.kindLimit 0 e.2.standing) &&
        e.2.parkedReady && e.2.readySince.any (fun c => decide (c + 125000 ≤ stParked.clock)))) = some (0, tmParked)) :=
  ⟨⟨0, by decide +kernel, by decide +kernel⟩, by decide, by decide +kernel, by decide +kernel⟩

/-- All of the core's scratch belongs to a team whose one thread is blocked at PWAIT.cnt; another team is ready. -/
def gWait : Group := { grp [0] with body := [0x01E40409, 0x8000] }
def tmBlocked : Team :=
  { team {} gWait with threads := [{ pc := 0x1000, npc := 0x1008, pwait := true, ran := true }], tr := { rec0 with scratch := 128 }, cnt := [(0, 1)] }
def stFullCore : State := { world tmBlocked with teams := [(0, tmBlocked), (1, tmParked)], cur := none }

theorem witness_TeamEvents_park : stFullCore.waiting 0 ≠ [] ∧ (∀ e ∈ stFullCore.waiting 0, stFullCore.fitsActive 0 e.2.tr = none) ∧
    eldest ((stFullCore.activeOn 0).filter (fun e => (e.2.life == .live || e.2.life == .saving) && stFullCore.allWait e.1 e.2)) = some (0, tmBlocked) := by decide +kernel

/-- Teams that have ended, that are discarded, and that may be saved. -/
def tmOver : Team := { tm2 with groups := [], threads := [{ exited := true }, { exited := true }] }
def tmGone : Team := { tm2 with groups := [], life := .discarding }
def tmSave : Team := { tm2 with groups := [], life := .saving }

theorem witness_TeamEvents_end :
    (tmOver.life = .live ∧ tmOver.live = [] ∧ (world tmOver).finished tmOver = true ∧ (world tmOver).canRelease 0 = true ∧ tmOver.applying = false ∧ tmOver.launch = none) ∧
    (tmGone.life = .discarding ∧ (∀ c, c < 4 → FMap.getD tmGone.cnt c 0 = 0) ∧ tmGone.applying = false ∧ tmGone.launch = none) ∧
    (tmSave.life = .saving ∧ tmSave.live ≠ [] ∧ (world tmSave).mayWrite 0 tmSave = true ∧ FMap.getD tmSave.cnt 2 0 = 0 ∧ (world tmSave).canRelease 0 = true ∧
      (∀ th ∈ tmSave.threads, th.region = none)) ∧
    ((world { tmSave with cnt := [(2, 1)] }).mayWrite 0 { tmSave with cnt := [(2, 1)] } = true ∧ FMap.getD [(2, 1)] 2 0 ≠ 0) := by decide +kernel

/-- The last team of the launch 7 retires, or is discarded; a team of which a region commits. -/
def stLast (l : Machine.Launch) : State := { world { tmOver with launch := some 7 } with launches := [(7, l)] }

theorem witness_TeamEvents_grid : FMap.get? (stLast launch0).launches 7 = some launch0 ∧ ({ tmGone with launch := some 7 } : Team).life = .discarding ∧
    ({ tmGone with launch := some 7 } : Team).applying = false ∧ (tmR (some { reg0 with stage := 2 })).applying = true ∧
    (stLast launch0).finished { tmOver with launch := some 7 } = true ∧ ({ tmOver with launch := some 7 } : Team).live = [] := by decide +kernel

/-- A launch that waits for a team; one of a command, one with a completion block, one without, of which all teams have retired. -/
theorem witness_TeamEvents_finish : launch0.left ≠ 0 ∧ ∀ l ∈ [{ launch0 with left := 0, cmd := some 3 }, { launch0 with left := 0 }, { launch0 with left := 0, block := 0x4000 }],
    FMap.get? (stLast l).launches 7 = some l ∧ l.left = 0 ∧ (stLast l).faults = [] ∧
    ∃ s1, (stLast l).deadWrite l.dead ⟨0, 0, 0x200000, true⟩ 0x4010 (natLe 16 0) = .ok s1 ∧ ∃ s2, s1.deadArrive l.dead ⟨0, 0, 0x200000, true⟩ 0x4000 = .ok s2 := by
  refine ⟨by decide, fun l h => ?_⟩
  fin_cases h <;> exact ⟨by decide, rfl, rfl, okThen (by decide +kernel)⟩

/-- No data error stands in the save area; or one in the first thread's block, which the save writes in part. -/
def stSaveBad : State := { world tmSave with links := { poison := [((world tmSave).areaPa tmSave / 64 + 64 + 1, 7)] } }

theorem witness_TeamEvents_area : ((world tmSave).gather 0 tmSave).saveError 0 = none ∧ ∃ str pa, (stSaveBad.gather 0 tmSave).saveError 0 = some (str, pa) := by
  refine ⟨by decide +kernel, ?_⟩
  obtain ⟨x, h⟩ := someOf (x := (stSaveBad.gather 0 tmSave).saveError 0) (by decide +kernel)
  exact ⟨x.1, x.2, h⟩

theorem witness_TeamEvents_prq : ∃ s : State, ((s.die 0).busy = true ∧ (s.die 0).pend = []) ∧ ((s.die 3).busy = false ∧ (s.die 3).prqMask.getLsbD 191 = true) :=
  ⟨{ dies := [(0, { busy := true }), (3, { prqMask := BitVec.allOnes 192 })] }, ⟨rfl, rfl⟩, rfl, by decide⟩

/-- A core with a copy of line 0x80 of coherence class D, requests and messages under way. -/
def lineD : CLine := { line0 1 with pte := pte0 4 }
def stLine : State :=
  { world tm1 with cores := [(0, { lines := [(0x80, lineD)], dreads := [0x81], invs := [0x80], dstores := [(0x82, 0x4100, pte0 4, 0, [1, 2])] })],
                   units := { dir := [(0x80, { st := 1, ptrs := [0], acks := 1, pend := 1 })] } }
def stGrant : State := { stLine with units := { dir := [(0x82, { writer := some 0 })] } }

theorem witness_LineEvents :
    (0x81 ∈ (stLine.core 0).dreads ∧ (stLine.dent 0x81).writer = none ∧ isMem (0x81 * 128) = true ∧ (stLine.makeRoom 0 0x81).isSome = true ∧
      (stGrant.makeRoom 0 0x82).isSome = true) ∧
    ((stLine.core 0).busyD 0x82 = true ∧ (stLine.dent 0x82).writer = none) ∧ 0x80 ∈ (stLine.core 0).invs ∧ (stLine.dent 0x80).acks ≠ 0 ∧
    (FMap.get? (stLine.core 0).lines 0x80 = some lineD ∧ lineD.coh = 1 ∧ lineD.nc = false ∧ (stLine.dent 0x80).crs = false ∧
      stLine.canWriteBack 0x80 lineD = true) ∧
    ((stGrant.core 0).dstores.find? (fun x => x.1 == 0x82) = some (0x82, 0x4100, pte0 4, 0, [1, 2]) ∧ (stGrant.dent 0x82).writer = some 0 ∧ (stGrant.dent 0x82).pend = 0 ∧
      stGrant.needsGrant (some (pte0 4)) 0x4100 true = false ∧ stGrant.sealedIn 0x4100 2 = false) := by decide +kernel

/-- A dirty line of coherence class S. -/
def lineS : CLine := { cells := [(0, (1, true)), (127, (2, true))], pte := pte0 4, va := 0x80 }
/-- It goes home when it is written back, and when it leaves the cache. -/
theorem witness_LineEvents_writeback : lineS.coh = 0 ∧ lineS.nc = false ∧ lineS.runs ≠ [] ∧
    ({ world tm1 with cores := [(0, { lines := [(0x80, lineS)] })] } : State).canWriteBack 0x80 lineS = true := by decide +kernel

theorem roomOf {s : State} {core line : Nat} (h : ((s.core core).lines.filter (fun l => s.canWriteBack l.1 l.2)).isEmpty = false) :
    ∃ s1, s.makeRoom core line = some s1 := by
  unfold State.makeRoom
  simp only
  split
  · exact ⟨_, rfl⟩
  · have := List.length_pos_of_ne_nil (fun e => by simp [e] at h : (s.core core).lines.filter (fun l => s.canWriteBack l.1 l.2) ≠ [])
    rw [List.getElem?_eq_getElem (by rw [Nat.max_eq_right this]; exact Nat.mod_lt _ this)]
    exact ⟨_, rfl⟩

/-- A cache that is full of lines that can leave. -/
theorem witness_LineEvents_full : ∃ s : State, 512 ≤ (s.core 0).lines.length ∧ FMap.get? (s.core 0).lines 600 = none ∧ ∃ s1, s.makeRoom 0 600 = some s1 :=
  ⟨{ world tm1 with cores := [(0, { lines := (List.range 512).map (fun n => (n, { lineS with va := n })) })] }, by decide +kernel, by decide +kernel,
    roomOf (by decide +kernel)⟩

/-- The core's lines are listed once each; a line of another class leaves the cache. -/
theorem witness_LineEvents_evict : FMap.rising (stLine.core 0).lines = true ∧ (stLine.core 0).lines = [(0x80, lineD)] ∧
    ∀ l ∈ [lineS, lineNc], (l.coh ≠ 1 ∨ l.nc = true) ∧ ({ world tm1 with cores := [(0, { lines := [(0x80, l)] })] } : State).canWriteBack 0x80 l = true := by
  decide +kernel

/-- Pages of this package and of package 3. -/
def page3 : Nat := 3 * 2 ^ 32
def stPage : State :=
  { world tm1 with links := { holders := [(4, { st := 1, ptrs := [3, 5], reqs := [(5, true)], recalls := [3] })], held := [(page3, true)], wants := [(page3 + 1, true)] } }

theorem witness_PageEvents :
    (stPage.foreign (4 * 4096) = false ∧ 3 ∈ (stPage.holder 4).recalls ∧ (stPage.holder 4).crs = false ∧ ((stPage.holder 4).reqs.head?.map Prod.snd) = some true) ∧
    (FMap.get? stPage.links.held page3 = some true ∧ stPage.collectReady page3 = true) ∧ (FMap.rising stPage.links.wants = true ∧ stPage.foreign ((page3 + 1) * 4096) = true ∧ FMap.get? stPage.links.wants (page3 + 1) = some true) := by
  decide +kernel

theorem witness_PageEvents_shootdown : ∃ (s : State) (x : Shoot), s.shoots.find? (fun y => y.id == 7) = some x ∧ 3 ∈ x.dies ∧ s.units.greqs = [] ∧ s.units.crumbs = [] ∧ s.holdsOld 3 x = false ∧
    s.latersOld 3 x = false ∧ (∀ c ∈ (s.cores.map Prod.fst).filter (fun c => c / 192 == 3), (s.core c).lines = [] ∧ (s.core c).dstores = []) ∧ s.shoots = [x] :=
  ⟨{ world tm1 with shoots := [{ shot with dies := [3] }], cores := [(576, {})] }, { shot with dies := [3] }, rfl, by decide, rfl, rfl, by decide +kernel, by decide +kernel, by decide, rfl⟩

/-- A request of region 0 (team 0, thread 0), a narrowing for it, and the region as it closes. -/
def req0 : GReq := { id := 8, region := 0, gran := 0x200, write := true, pa := 0x4000, n := 8, va := 0x4000, lo := 1, hi := 9 }
def msg0 (lo : Bool) : NMsg := ⟨9, 0, lo, 5⟩
def regAt (stage : Nat) (left had : List Nat) : Region := { reg0 with stage, toSeal := left, sealed := had, writeSet := [0x200] }
def stReg (r : Region) : State := { world (tmR (some r)) with units := { greqs := [req0], nmsgs := [] } }

theorem witness_RegionEvents_request : (stReg reg0).units.greqs = [req0] ∧ (stReg reg0).team? (req0.region / 1024) = some (tmR (some reg0)) ∧
    (stReg reg0).regionAt req0.region = some reg0 ∧ ((stReg reg0).gran req0.gran).sealed = none ∧ (tmR (some reg0)).earlier [req0.region % 1024] req0.id = false ∧
    ((stReg reg0).core 0).busyD (req0.pa / 128) = false ∧ (stReg reg0).prepWaits 0 req0.pa req0.n = false ∧
    (stReg reg0).needsGrant (some req0.pte) req0.pa req0.write = false ∧ (stReg reg0).poisoned req0.pa req0.n = none ∧
    ((({ stReg reg0 with units := { (stReg reg0).units with greqs := [] } } : State).homePrep 0 req0.pa req0.n).strictConflict
      ((({ stReg reg0 with units := { (stReg reg0).units with greqs := [] } } : State).homePrep 0 req0.pa req0.n).gran req0.gran) req0.region req0.write) = false := by
  decide +kernel

theorem witness_RegionEvents_narrowing : ∀ lo, ∃ s : State, s.units.nmsgs = [msg0 lo] ∧ s.team? ((msg0 lo).region / 1024) = some (tmR (some reg0)) ∧
    (msg0 lo).region % 1024 < (tmR (some reg0)).threads.length ∧ (((tmR (some reg0)).thread ((msg0 lo).region % 1024)).region = some reg0 ∧ reg0.stage ≠ 2) ∧
    0 ≤ (msg0 lo).val ∧ (msg0 lo).val < 2 ^ 63 :=
  fun lo => ⟨{ world (tmR (some reg0)) with units := { nmsgs := [msg0 lo] } }, rfl, by cases lo <;> rfl, Nat.zero_lt_two, ⟨rfl, by decide⟩, by show (0 : Int) ≤ 5; decide,
    by show (5 : Int) < 2 ^ 63; decide⟩

/-- Regions that seal their last granule, that have sealed all, that apply, and that have applied all. -/
theorem witness_RegionEvents_close : ∀ r ∈ [regAt 1 [0x200] [], regAt 1 [] [0x200], regAt 2 [] [0x200], regAt 2 [] []],
    (world (tmR (some r))).team? 0 = some (tmR (some r)) ∧ ((tmR (some r)).thread 0).region = some r ∧ (r.stage = 1 ∨ r.stage = 2) ∧
    (∀ q ∈ (world (tmR (some r))).units.greqs, q.region ≠ 0) ∧
    (r.writeSet.contains 0x200 = true → (world (tmR (some r))).needsGrant (FMap.get? r.ptes 0x200) (0x200 * 32) true = false) ∧ ∀ y, ((world (tmR (some r))).gran 0x200).sealed = some y → y = 0 * 1024 + 0 := by
  intro r h
  fin_cases h <;> refine ⟨rfl, rfl, by decide, by decide, by decide +kernel, ?_⟩ <;>
  · intro y hy
    simp [State.gran, world, FMap.getD] at hy

/-- A region whose XEND has still to release (R393). -/
theorem witness_RegionEvents_late : ∃ r : Region, r.stage = 1 ∧ r.late = true ∧ (tmR (some r)).earlier [0] ((r.xe.map Prod.fst).getD 0) = false ∧
    (world (tmR (some r))).canRelease 0 = true :=
  ⟨{ regAt 1 [0x200] [] with late := true, xe := some (8, 7) }, rfl, rfl, by decide, by decide +kernel⟩

theorem vgetOf {x : Got} (h : (match x with | .ok _ => true | _ => false) = true) : ∃ bs, x = .ok bs := by
  cases x with
  | ok bs => exact ⟨bs, rfl⟩
  | _ => simp at h

/-- Raises that make no cell queued, and that make one; a set that waits for its record; a set that stops. -/
def small : Raise := ⟨1, 3, 0x3F800000⟩
def large : Raise := ⟨1, 3, 0x3F800001⟩
def setDue : Machine.SSet := { set0 with due := true }
def setStop : Machine.SSet := { set0 with stopping := true }

theorem witness_SetEvents_absorb : (stSet { set0 with raises := [small] }).setHeld 3 = false ∧ set0.queues small = false ∧ set0.queues large = true ∧
    ∃ tags, (stSet { set0 with raises := [large] }).tagsOf ((stSet set0).setXlat set0) { set0 with raises := [large] } 3 = .ok tags :=
  ⟨by decide, by decide +kernel, by decide +kernel, okOf (by decide +kernel)⟩

/-- A set with one queued cell, which a die's slot dispatches. -/
def cellQ : Cell := { res := 0x40000000, state := 1, age := 1 }
def setQ : Machine.SSet := { set0 with cells := [(0, cellQ)] }
def stSlot : State := { world tmOver with teams := [], cur := none, sets := [(3, setQ)], dies := [(0, { svpaSet := true, svvaSet := true, wNext := some [(0, 0), (1, 256)] })] }

/-- The state after the die's weights are taken. -/
def stTaken : State := stSlot.fwTake 0

theorem witness_SetEvents_dispatch :
    (∃ s1, stTaken.slotTry 0 ((stTaken.die 0).w.map (fun e => (e.1, (e.2 : Int))))
      (sortNat (dedup ((stTaken.openSets.filter (fun e => !(e.2.eligible 0).isEmpty)).map (fun e => e.2.cls)))).length
      (sortNat (dedup ((stTaken.openSets.filter (fun e => !(e.2.eligible 0).isEmpty)).map (fun e => e.2.cls)))) = some s1) ∧
    FMap.get? stSlot.sets 3 = some setQ ∧ ∃ s1, stSlot.dispatch 0 3 setQ 0 cellQ = some s1 :=
  ⟨someOf (by decide +kernel), by decide, someOf (by decide +kernel)⟩

/-- The same set with lookahead 1 and a prefetch table at 0x4300: its one candidate has entered already, or has its regions read now. -/
def setLook (front : List Nat) : Machine.SSet := { setQ with look := 1, pref := 0x4300, front }

theorem witness_SetEvents_lookahead : ∀ e ∈ [setLook [0], setLook []], FMap.get? (stSet e).sets 3 = some e ∧ e.look ≠ 0 ∧ e.pref ≠ 0 ∧ e.stopping = false ∧
    [0, 1, 2, 3].flatMap e.firsts = [0] ∧ e.toRead = [] ∧ ∃ bs, (stSet e).vget ((stSet e).setXlat e) (e.pref + BitVec.ofNat 64 (32 * 0)) 32 = .ok bs := by
  intro e h
  fin_cases h <;> exact ⟨by decide +kernel, by decide, by decide, rfl, by decide +kernel, rfl, vgetOf (by decide +kernel)⟩

/-- An entry whose first region's bits 127:96 are not all zero. -/
theorem witness_SetEvents_lookahead_empty :
    (match ({ stSet (setLook []) with mem := [(0x430C, 1)] } : State).vget ((stSet (setLook [])).setXlat (setLook [])) 0x4300 32 with
      | .ok bs => decide (leNat bs / 2 ^ 96 % 2 ^ 32 ≠ 0)
      | _ => false) = true := by decide +kernel

/-- The next set of a record: without a signal, and with a phase object at 0x4400 and a vector. -/
def setSaid (phase : DWord) (vector : Nat) : Machine.SSet := { set0 with phase, vector, rgen := 1 }

/-- Whether the writes of that record pass, and its signal. -/
def recorded (phase : DWord) : Except State State :=
  (stSet (setSaid phase 0)).setWrites 3 (setSaid phase 0) ((setSaid phase 0).image false ++ [(set0.qrec, natLe 64 0), (set0.va + 192, natLe 8 1)])

theorem witness_SetEvents_plain : ∃ s1, recorded 0 = .ok s1 := okOf (by decide +kernel)
theorem witness_SetEvents_said : ∃ s1, recorded 0x4400 = .ok s1 ∧ ∃ s3, State.deadArrive s1 [] (s1.setXlat (setSaid 0x4400 0)) 0x4400 = .ok s3 :=
  okThen (f := fun s1 : State => s1.deadArrive [] (s1.setXlat (setSaid 0x4400 0)) 0x4400) (by decide +kernel)

theorem witness_SetEvents_record :
    (setDue.out = none ∧ setDue.due = true ∧ setDue.quiet = true ∧ setDue.stopping = false) ∧
    ({ setDue with phase := 0x4400 } : Machine.SSet).quiet = true ∧
    (FMap.get? (stSet { set0 with out := some [] }).sets 3 = some { set0 with out := some [] } ∧ (stSet { set0 with out := some [] }).setHeld 3 = false) ∧
    (setStop.stopping = true ∧ setStop.out = none ∧ setStop.raises = [] ∧ (∀ c ∈ setStop.cells, c.2.state ≠ 2 ∧ c.2.pina = 0 ∧ c.2.pinb = 0) ∧
      ∃ s1, (stSet setStop).setWrites 3 setStop (setStop.image true ++ [(setStop.va + 184, natLe 8 setStop.rseq), (setStop.va + 177, [0])]) = .ok s1) :=
  ⟨⟨rfl, rfl, by decide, rfl⟩, by decide,
    ⟨rfl, by decide⟩, ⟨rfl, rfl, rfl, by decide, okOf (by decide +kernel)⟩⟩

/-- Queue 1,023 of the package: ring of 16 entries at 0x4000 in context 0, enabled, with one entry to fetch. -/
def qrec : Nat := 0x4000 + 4 * 2 ^ 64 + 2 ^ 75 + 1 * 2 ^ 128
def stQ (entry : Nat) : State :=
  let m : Memory := Memory.storeNum [] (0x8000000 + 128 * 1023) 48 qrec
  { world tm1 with mem := m.storeNum 0x4000 64 entry, mmio := { qtbase := 0x8000000 }, boot := { state := 2 } }

theorem witness_QueueEvents_doorbell : (stQ 0).units.late = [] ∧ (1023 < 1024 ∧ (stQ 0).qRlogOk 1023 = true ∧ (stQ 0).qfield 1023 74 74 = 0 ∧
    (stQ 0).qfield 1023 75 75 = 1 ∧ (stQ 0).qfield 1023 191 128 ≤ 16 ∧ 16 - (stQ 0).qfield 1023 255 192 ≤ 2 ^ (stQ 0).qfield 1023 68 64) := by decide +kernel

theorem witness_QueueEvents_replica : FMap.rising (({ dies := [(2, { replicas := [(5, []), (1023, [9])] })] } : State).die 2).replicas = true := by decide

theorem witness_QueueEvents_fetch : (stQ 7).boot.state = 2 ∧ (stQ 7).qfield 1023 75 75 = 1 ∧ (stQ 7).qfield 1023 76 76 = 0 ∧ (stQ 7).qRlogOk 1023 = true ∧
    (stQ 7).qfield 1023 255 192 < (stQ 7).qfield 1023 191 128 ∧ ((stQ 7).ctx ((stQ 7).queueXlat 1023).ctx).v = true ∧ FMap.get? (stQ 7).cmds 1023 = none ∧
    ∃ bs, (stQ 7).vget ((stQ 7).queueXlat 1023) 0x4000 64 = .ok bs :=
  ⟨rfl, by decide +kernel, by decide +kernel, by decide +kernel, by decide +kernel, by decide +kernel, by decide, vgetOf (by decide +kernel)⟩

/-- Commands of queue 1,023: each op with the operand 0x4100. -/
def cmd (op stage : Nat) : Cmd := { bytes := natLe 64 (op + 0x4100 * 2 ^ 128), entry := 0x4000, stage }
def stCmd (c : Cmd) : State := { stQ 0 with cmds := [(1023, c)] }

theorem witness_QueueEvents_commands : ∀ op, op < 8 → (stCmd (cmd op 1)).cmdHeld 1023 = false ∧ (cmd op 1).stage = 1 ∧ (cmd op 1).num 0 1 = op ∧
    ((cmd op 1).va 16).toNat % 16 = 0 := by decide +kernel

theorem witness_QueueEvents_effects (a : Ask) (ha : a = { rec_ := 0x4100, ext := (0, 0, 0), curve := 0, cohort := 0, prio := 0, table := 0, cmd := some 1023 }) :
    (∃ s1 v, (stCmd (cmd 1 1)).opLaunch ((stCmd (cmd 1 1)).queueXlat 1023) a = .done s1 v) ∧
    (∃ s1 v, (stCmd (cmd 2 1)).opStart ((stCmd (cmd 2 1)).queueXlat 1023) 0x4100 (cmd 2 1).dead = .done s1 v) ∧
    (∃ s1 v, (stCmd (cmd 3 1)).opStop ((stCmd (cmd 3 1)).queueXlat 1023) 0x4100 none (some 1023) = .done s1 v) ∧
    (∃ s1 v, (stCmd (cmd 4 1)).opRaise ((stCmd (cmd 4 1)).queueXlat 1023) 0x4100 0 0 = .done s1 v) ∧
    (∃ s1, (stCmd (cmd 6 1)).arriveAt ((stCmd (cmd 6 1)).queueXlat 1023) 0x4100 = .ok s1) ∧
    ((stCmd (cmd 7 1)).xlate ((stCmd (cmd 7 1)).queueXlat 1023) false 0x4100 .rmw = .ok (pte0 4) ∧
      (stCmd (cmd 7 1)).needsGrant (some (pte0 4)) 0x4100 false = false ∧ (stCmd (cmd 7 1)).poisoned 0x4100 16 = none) ∧
    (∃ s1, (stCmd (cmd 1 3)).deadWrite (cmd 1 3).dead ((stCmd (cmd 1 3)).queueXlat 1023) (0x4000 + 4) (natLe 4 0) = .ok s1) := by
  subst ha
  exact ⟨doneOf (by decide +kernel), doneOf (by decide +kernel), doneOf (by decide +kernel), doneOf (by decide +kernel), okOf (by decide +kernel),
    ⟨by decide +kernel, by decide +kernel, by decide +kernel⟩, okOf (by decide +kernel)⟩

/-- A completed command without an arrival, and one with an arrival at 0x4100. -/
def cmdArr : Cmd := { bytes := natLe 64 (1 + 0x4100 * 2 ^ 64 + 0x4100 * 2 ^ 128), entry := 0x4000, stage := 3 }

theorem witness_QueueEvents_complete : (cmd 1 3).stage = 3 ∧ (cmd 1 3).va 8 = 0 ∧ cmdArr.va 8 ≠ 0 ∧
    ∃ s1 s2, (stCmd cmdArr).deadWrite cmdArr.dead ((stCmd cmdArr).queueXlat 1023) (0x4000 + 4) (natLe 4 0) = .ok s1 ∧
      s1.deadArrive cmdArr.dead ((stCmd cmdArr).queueXlat 1023) (cmdArr.va 8) = .ok s2 := by
  refine ⟨by decide +kernel, by decide +kernel, by decide +kernel, ?_⟩
  obtain ⟨s2, h⟩ := okOf (x := (match (stCmd cmdArr).deadWrite cmdArr.dead ((stCmd cmdArr).queueXlat 1023) (0x4000 + 4) (natLe 4 0) with
    | .ok s1 => s1.deadArrive cmdArr.dead ((stCmd cmdArr).queueXlat 1023) (cmdArr.va 8)
    | .error e => .error e)) (by decide +kernel)
  cases hd : (stCmd cmdArr).deadWrite cmdArr.dead ((stCmd cmdArr).queueXlat 1023) (0x4000 + 4) (natLe 4 0) with
  | ok s1 => rw [hd] at h; exact ⟨s1, s2, rfl, h⟩
  | error e => rw [hd] at h; cases h

theorem witness_RegisterEvents : (2047 < 2048) ∧ (∃ i, i < 16 ∧ (0x2F, 0x1F8) = (0x20 + i, 0x180 + 8 * i)) ∧ (∀ e ∈ State.reset.links.poison, ¬ (0 ≤ e.1 ∧ e.1 * 64 < 512)) ∧ (State.reset.mmio.fw.map Prod.snd).sum = 256 ∧
    (({ State.reset with mmio := { fw := [(0, 255)] } } : State).mmio.fw.map Prod.snd).sum ≠ 256 ∧ 767 < 768 :=
  ⟨by decide, ⟨15, by decide⟩, by decide⟩

/-- Every verdict falls under one clause, whatever the images hold. -/
theorem witness_BootEvents (s : State) :
    (State.reset.boot.state = 0 ∧ ({ State.reset with boot := { state := 1 } } : State).boot.state ≠ 0 ∧
      ({ State.reset with boot := { state := 4 } } : State).boot.state = 4 ∧ ({ State.reset with boot := { busy := true } } : State).boot.busy = true) ∧
    State.reset.mem.wf = true ∧ (s.verdict 1 = 0 ∨ (s.verdict 1 ≠ 0 ∧ s.verdict 2 = 0) ∨ (s.verdict 1 ≠ 0 ∧ s.verdict 2 ≠ 0)) ∧ (s.verdict 3 = 0 ∨ s.verdict 3 ≠ 0) :=
  ⟨by decide, by decide, by tauto, by tauto⟩

/-- Memory, the host's last reachable offset of MMIO and the one past it, and a window in one and in four bytes. -/
theorem witness_PackageEvents : (∀ pa ∈ [0x4000, mmioBase + 0xFFF], performs (world tm1) pa 1 ∧ hostReaches pa = true) ∧ hostReaches (mmioBase + 0x1000) = false ∧
    isMem 0x4000 = true ∧ (world tm1).sealedIn 0x4000 1 = false ∧ narrowWindow 0x4000 1 = false ∧
    (∃ pa, isMem pa = false ∧ narrowWindow pa 1 = true ∧ narrowWindow pa 4 = false ∧ performs (world tm1) pa 4) ∧ (world tm1).links.holders = [] := by
  refine ⟨fun pa h => ?_, by decide +kernel, by decide, by decide +kernel, by decide +kernel, ⟨mmioBase - 4, by decide +kernel, by decide +kernel, by decide +kernel,
    fun h => absurd h (by decide +kernel), fun _ => rfl⟩, rfl⟩
  fin_cases h <;> exact ⟨⟨fun _ => by decide +kernel, fun _ => rfl⟩, by decide +kernel⟩

/-- A host write that begins with the last byte of a page. -/
theorem witness_PackageEvents_host : ∃ (first : List Byte) (s1 : State), 0x4FFF % 4096 + first.length = 4096 ∧ exec (.hostWrite 0x4FFF first) (world tm1) = .next s1 :=
  ⟨[7], _, by decide, rfl⟩

theorem witness_DecodeEncode : (Instr.ffma 3 0 4 2 3).wf = true ∧ encodeBytes (.ffma 3 0 4 2 3) = some [0xBD, 0x21, 0x08, 0x06] ∧
    (Instr.iadd16 25 0).wf = true ∧ (encodeBytes (.iadd16 25 0)).map List.length = some 2 := by decide

theorem witness_DecodeWellFormed : ∃ i rest, decode [0xBD, 0x21, 0x08, 0x06, 0x22, 0x08] = .ok (i, rest) := ⟨.ffma 3 0 4 2 3, [0x22, 0x08], by decide +kernel⟩

/-- A group that issues next, a thread that forms a group at a header next, an event on the agenda. -/
def stGo : State := { world (team {} { grp [0, 1] with body := [0x06143019, 0x8000] }) with cur := none }
def stForm : State := { world { team { pc := 0x1000, npc := 0x1000 } (grp []) with groups := [] } with cur := none }

theorem witness_StepRunsDecoded :
    (stGo.agenda = [] ∧ stGo.choose = some (0, .go 0 0) ∧ wordInstr 0x06143019 = some (.iadd 0 0 6 5 3)) ∧
    (stForm.agenda = [] ∧ stForm.choose = some (0, .form 0 [0, 1]) ∧ stForm.fetchWord tm1.xlat 0x1000 = .ok 0x0000E081 ∧ reached stForm tm1.xlat 0x1000 ∧ isHeader 0x0000E081 = true ∧
      wordInstr 0x0000E081 = some (.runh 1 0 7 0 0)) ∧
    ({ State.reset with agenda := [.mcrAck] } : State).agenda = .mcrAck :: [] := by
  refine ⟨⟨rfl, by decide +kernel, by decide +kernel⟩, ⟨rfl, by decide +kernel, by decide +kernel, reachedOf (by decide +kernel), by decide, by decide +kernel⟩, rfl⟩

/-- A state that is no reset state meets the invariant and steps. -/
theorem witness_StepKeepsInv : (world tm1).Inv ∧ stGo.Inv ∧ ∃ s', step stGo = .next s' :=
  ⟨by unfold State.Inv; decide, by unfold State.Inv; decide, _, rfl⟩

theorem witness_ReadAfterWrite : Memory.wf [(0x1000, 0x81), (0xFFFFFFFFFFF, 1)] = true ∧ ([1, 0, 3] : List Byte).length = 3 ∧
    (world tm1).scrAt 0 0x3FFD 3 = some (0, 0x3FFD) := by decide +kernel

end Sys2Proof.Tests
end

namespace Sys2Proof.Machine

open Sys2Proof

/-- Threads changed one after another: a thread that is not among them stands. -/
theorem Team.foldUpd_other (l : List Nat) (f : Nat → Thread → Thread) (a : Team) (tid : Nat) (h : tid ∉ l) :
    (l.foldl (fun tm tid => tm.updThread tid (f tid)) a).thread tid = a.thread tid := by
  induction l generalizing a with
  | nil => rfl
  | cons x l ih =>
    obtain ⟨hx, hl⟩ := not_or.mp (mt List.mem_cons.mpr h)
    exact (ih _ hl).trans (by simp [Team.thread_updThread, hx])

/-- A run that ends where no stall check is due (R20, R157, R159): its threads go on and its group is gone. -/
theorem State.endRun_noCheck {s : State} {t gid : Nat} {tm : Team} {g : Group} (named : List Reg)
    (ht : s.team? t = some tm) (hg : FMap.get? tm.groups gid = some g)
    (hc : g.chk = false ∨ ∀ e ∈ g.log, e.short g.dist = true → e.reg ∈ named) :
    ∃ (soft : Nat → List (Reg × List DWord)) (more : Team → List (Reg × List DWord)), s.endRun t gid named = s.updTeam t (fun tm =>
      { (g.tids.foldl (fun tm tid => tm.updThread tid (fun th => th.goOn g.due (soft tid))) tm) with
        groups := FMap.erase tm.groups gid, soft := more tm }) := by
  have hcond : (g.chk && !(g.log.filter (fun e => e.short g.dist && !named.contains e.reg)).isEmpty) = false := by
    rcases hc with hc | hc
    · simp [hc]
    · simpa using fun _ : g.chk = true => hc
  unfold State.endRun
  simp only [ht, hg, hcond, Bool.false_and, Bool.false_eq_true, if_false]
  exact ⟨_, _, rfl⟩

/-- A thread that goes on stands at its next address, unless it has exited. -/
theorem Thread.goOn_arrives (th : Thread) (due : Nat) (soft : List (Reg × List DWord)) :
    (th.goOn due soft).exited = true ∨ (th.goOn due soft).pc = (th.goOn due soft).npc := by
  unfold Thread.goOn
  split
  · next e => exact .inl e
  · exact .inr rfl

/-- Threads that go on keep their next address and whether they have exited. -/
theorem Team.goOn_sameWay (l : List Nat) (due : Nat) (soft : Nat → List (Reg × List DWord)) (tm : Team) (tid : Nat) :
    SameWay (tm.thread tid) ((l.foldl (fun tm tid => tm.updThread tid (fun th => th.goOn due (soft tid))) tm).thread tid) :=
  Team.foldUpd_rel SameWay (fun _ => ⟨rfl, rfl⟩) (fun _ _ _ h k => ⟨k.1.trans h.1, k.2.trans h.2⟩) l
    (fun tid th => th.goOn due (soft tid)) (fun _ th => SameWay.goOn th _ _) tm tid

/-- Settles O6: `endRun` takes its branch without a stall check, in which each thread of the group goes on once or more (R20). -/
theorem runtEnds : Obligations.RuntEnds := by
  intro c0 c1 c2 cnt s c hi hshort
  obtain ⟨-, ht, hg⟩ := State.iss_eq hi
  obtain ⟨soft, more, hend⟩ := State.endRun_noCheck _ ht hg hshort
  have hexec : exec (.runt c0 c1 c2 cnt) s = .next (s.endRun c.t c.gid (([c0, c1, c2].take cnt.toNat).map (fun x => .v x.toNat))) := by
    show execRunt c0 c1 c2 cnt s = _
    simp only [execRunt, hi]
  refine ⟨_, _, hexec, ?_, ?_, by rw [hend, State.team?_updTeam_self, ht]; rfl, rfl, ?_, ?_, ?_⟩
  · rw [hend]; rfl
  · intro u hu
    rw [hend, State.team?_updTeam, if_neg hu]
  · intro tid htid hlen hlive
    obtain ⟨hnpc, hex⟩ := Team.goOn_sameWay c.g.tids c.g.due soft c.tm tid
    have hpc := Team.foldUpd_hit (fun th => th.exited = true ∨ th.pc = th.npc) c.g.tids (fun tid th => th.goOn c.g.due (soft tid))
      (fun _ th => Thread.goOn_arrives th _ _) c.tm tid hlen (.inl htid)
    refine ⟨?_, hnpc⟩
    rcases hpc with hpc | hpc
    · rw [hex, hlive] at hpc
      exact absurd hpc Bool.false_ne_true
    · exact hpc.trans hnpc
  · exact fun tid htid => Team.foldUpd_other c.g.tids (fun tid th => th.goOn c.g.due (soft tid)) c.tm tid htid
  · exact fun tid r hr => (SameRegs.goOn c.g.tids c.g.due soft more (fun tm => FMap.erase tm.groups c.gid) c.tm).reg tid r
      (fun h => absurd (hr.symm.trans h) Bool.false_ne_true)

end Sys2Proof.Machine

namespace Sys2Proof.Machine

open Sys2Proof Sys2Proof.Said

/-- A thread about to form a group at the header of a run of one NOP. Before, it skipped a cross-thread instruction at 0x8000, in a run at whose
header, 0x7000, it has waited since; every live thread of its crew has reached that instruction, and none waits at it (R193). -/
def skippedBefore : State :=
  let s := (State.reset.withFetchWord 32 0x0000E081).updThread 0 0 (fun th =>
    { th with arrivals := [⟨0x8000, false, false, 0, 0, false⟩], crossAt := some (0x7000, [0x8000]) })
  { s with mem := s.mem.storeNum 0x10004 2 0x8000 }

/-- The state in which the statement has that header execute: its thread in the new group, its arrival still there. -/
def skippedFormed : State :=
  ({ skippedBefore with cursor := 0, cur := some (0, 1) } : State).updTeam 0 (fun tm =>
    { tm with groups := FMap.set tm.groups 1 { tids := [0], hdr := 0x10000, next := 0x10000, body := [], trl := none, chk := false }, nextGroup := 2 })

/-- The arrivals of thread 0 of team 0 after an outcome. -/
def arrivalsAfter (o : Host.Outcome State Fault Refusal) : Option (List Arrival) :=
  match o with
  | .next s => (s.team? 0).map (fun tm => (tm.thread 0).arrivals)
  | _ => none

theorem reached_of_near {s : State} {x : Xlat} {va : DWord} (h : ∀ e ∈ s.pte? x va, s.foreign (paOf e va) = false) : reached s x va :=
  fun e he hf => absurd hf (by simp [h e he])

/-- The step lets the execution that nobody waits for take place before the header executes (R193). -/
theorem arrivalsAfter_step : arrivalsAfter (step skippedBefore) = some [] := by decide +kernel

/-- The header alone leaves the arrival: its run holds no cross-thread instruction. -/
theorem arrivalsAfter_runh : arrivalsAfter (exec (.runh 1 0 7 0 0) skippedFormed) = some [⟨0x8000, false, false, 0, 0, false⟩] := by decide +kernel

/-- Refutes O57: a new group meets `keepCross` before its header executes. A thread that waited at another header for an execution of a
cross-thread instruction which it had skipped, and for which no thread waits any more, then loses its arrival there (R193); the header alone
keeps it. -/
theorem not_stepRunsDecoded : ¬ Obligations.StepRunsDecoded := by
  unfold Obligations.StepRunsDecoded
  intro h
  have hstep : step skippedBefore = exec (.runh 1 0 7 0 0) skippedFormed := h.2.1 skippedBefore 0 0 [0] _ 0x0000E081 _
    rfl (by decide +kernel) rfl rfl (by decide +kernel) (by decide +kernel) (reached_of_near (by decide +kernel)) (by decide) (by decide +kernel)
  have := congrArg arrivalsAfter hstep
  rw [arrivalsAfter_step, arrivalsAfter_runh] at this
  exact absurd this (by decide)

end Sys2Proof.Machine

namespace Sys2Proof.Machine

open Sys2Proof Sys2Proof.Said

/-- A PWAIT of a group whose threads are all satisfied goes on, as an acquire (R125, R251). -/
theorem State.pwaitGo_satisfied {s : State} {c : Iss} {ok : Nat → Bool} (gap : Nat) (ref : PhRef) (after : Thread → Nat → Thread)
    (h : ∀ tid ∈ c.g.tids, ok tid = true) : s.pwaitGo c gap ref ok after = (waited s c ref after).advance c.t c.gid gap := by
  unfold State.pwaitGo
  rw [if_pos (List.all_eq_true.mpr h)]
  rfl

theorem bit_eq_testBit (x i : Nat) : bit x i = x.testBit i := by
  rw [Bool.eq_iff_iff, Nat.testBit_eq_decide_div_mod_eq, bit, Nat.shiftRight_eq_div_pow]
  simp

/-- What the fence wait leaves of a thread's fences, in the statement's words. -/
theorem fenced_eq (s : State) (c : Iss) (v : BitVec 7) : fenced s c v = fun th tid =>
    let tok := (c.src s tid v.toNat).toNat
    let past (f : Fence) : Bool := bit tok 31 && f.done && f.upTo (tok % 2 ^ 31)
    { th with armed := th.armed || th.fences.any (fun f => past f && f.sem % 2 == 1), fences := th.fences.filter (fun f => !past f) } := by
  funext th tid
  simp only [fenced, bit_eq_testBit, Fence.upTo]

/-- Phase n has ended when the object stands 1 to 32,767 phases past it, modulo 65,536 (R250). -/
theorem phaseEnded_iff {now n : Nat} (hnow : now < 2 ^ 16) (hn : n < 2 ^ 16) :
    phaseEnded now n = true ↔ ∃ d, 1 ≤ d ∧ d ≤ 32767 ∧ now = (n + d) % 2 ^ 16 := by
  simp only [phaseEnded, Bool.and_eq_true, decide_eq_true_eq]
  constructor
  · rintro ⟨h1, h2⟩
    exact ⟨(now + 2 ^ 16 - n % 2 ^ 16) % 2 ^ 16, h1, h2, by omega⟩
  · rintro ⟨d, h1, h2, rfl⟩
    omega

theorem Phase.past_iff (p : Phase) (n : Nat) : p.past n = true ↔ p.expa ≠ 0 ∧ phaseEnded p.phase n = true := by
  simp [Phase.past]

theorem pwaitS_goesOn {st : BitVec 2} {k : BitVec 6} {v : BitVec 7} {s : State} {c : Iss}
    (h : Apart s c ((Use.ksrc k.toNat 1).add (Use.src v.toNat 1))) (ha : (c.k s k.toNat).toNat % 2 ^ 32 % 16 = 0)
    (ht : s.scrTrap c.t ((c.k s k.toNat).toNat % 2 ^ 32) 16 = none)
    (hp : ∀ tid ∈ c.g.tids, ∀ u off, s.scrAt c.t ((c.k s k.toNat).toNat % 2 ^ 32) 16 = some (u, off) →
      (Phase.ofNat (s.phGet (.scr u off))).past (c.src s tid v.toNat).toNat = true) :
    exec (.pwaitS st k v) s =
      .next ((waited s c (.scratch ((c.k s k.toNat).toNat % 2 ^ 32)) (fun th _ => th)).advance c.t c.gid (1 + st.toNat)) := by
  show execPwaitS st k v s = _
  unfold execPwaitS
  rw [h.forbiddenFree]
  simp only [ha, ht, ne_eq, not_true_eq_false, if_false]
  rw [State.pwaitGo_satisfied]
  · rfl
  · intro tid htid
    cases hs : s.scrAt c.t ((c.k s k.toNat).toNat % 2 ^ 32) 16 with
    | none => rfl
    | some p => exact hp tid htid p.1 p.2 hs

theorem pwaitG_goesOn {st : BitVec 2} {k : BitVec 6} {v : BitVec 7} {s : State} {c : Iss}
    (h : Apart s c ((Use.ksrc k.toNat 1).add (Use.src v.toNat 1))) {e : Nat} (he : c.laneAddr s (c.k s k.toNat) 16 .rmw false false = .ok e)
    (hg : s.needsGrant (some e) (paOf e (c.k s k.toNat)) false = false) (hw : s.prepWaits c.tm.core (paOf e (c.k s k.toNat)) 16 = false) :
    let pa := paOf e (c.k s k.toNat)
    let s0 := (s.fillTlb c.tm.xlat (c.k s k.toNat) e).homePrep c.tm.core pa 16
    let s1 := if ∀ tid ∈ c.g.tids, (c.tm.thread tid).pwait = true then s0 else s0.noRoute c.tm.dieOf c.tm.ctx pa
    (∀ tid ∈ c.g.tids, (Phase.ofNat (s1.phGet (.mem pa e))).past (c.src s1 tid v.toNat).toNat = true) →
    exec (.pwaitG st k v) s = .next ((waited s1 c (.glob (c.k s k.toNat)) (fun th _ => th)).advance c.t c.gid (1 + st.toNat)) := by
  intro pa s0 s1 hp
  have hs1 : (if c.g.tids.all (fun tid => (c.tm.thread tid).pwait) then s0 else s0.noRoute c.tm.dieOf c.tm.ctx pa) = s1 := by
    simp only [s1, List.all_eq_true]
  show execPwaitG st k v s = _
  unfold execPwaitG
  rw [h.forbiddenFree]
  simp only [he, hg, hw, Bool.or_self, Bool.false_eq_true, if_false]
  rw [hs1, State.pwaitGo_satisfied _ _ _ hp]
  rfl

theorem pwaitCnt_goesOn {st cnt : BitVec 2} {thr : BitVec 7} {s : State} {c : Iss} (h : Apart s c {})
    (hc : FMap.getD c.tm.cnt cnt.toNat 0 ≤ thr.toNat) :
    exec (.pwaitCnt st cnt thr) s = .next ((waited s c .none (fun th _ => th)).advance c.t c.gid (1 + st.toNat)) := by
  show execPwaitCnt st cnt thr s = _
  unfold execPwaitCnt
  rw [h.forbiddenFree, State.pwaitGo_satisfied _ _ _ (fun _ _ => decide_eq_true hc)]
  rfl

theorem pwaitFence_goesOn {st : BitVec 2} {v : BitVec 7} {s : State} {c : Iss} (h : Apart s c (Use.src v.toNat 1))
    (hf : ∀ tid ∈ c.g.tids, fenceDone (c.tm.thread tid) (c.src s tid v.toNat).toNat = true) :
    exec (.pwaitFence st v) s = .next ((waited s c .none (fenced s c v)).advance c.t c.gid (1 + st.toNat)) := by
  show execPwaitFence st v s = _
  unfold execPwaitFence
  rw [h.forbiddenFree, State.pwaitGo_satisfied _ _ _ hf, fenced_eq]
  rfl

theorem pwaitLock_goesOn {st : BitVec 2} {v : BitVec 7} {s : State} {c : Iss} (h : Apart s c (Use.src v.toNat 1))
    (hl : ∀ tid ∈ c.g.tids, s.lockDone c.t tid (c.src s tid v.toNat).toNat = true) :
    exec (.pwaitLock st v) s = .next ((waited s c .none (fun th _ => th)).advance c.t c.gid (1 + st.toNat)) := by
  show execPwaitLock st v s = _
  unfold execPwaitLock
  rw [h.forbiddenFree, State.pwaitGo_satisfied _ _ _ hl]
  rfl

/-- Settles O24: each PWAIT passes its gate and goes on by `pwaitGo`; the last clause is the arithmetic of phases modulo 65,536. -/
theorem pwaitGoesOn : Obligations.PwaitGoesOn := by
  intro st k v thr cnt s c
  refine ⟨fun h => ?_, fun h e he => ?_, fun h _ hc => pwaitCnt_goesOn h hc, fun h hf => pwaitFence_goesOn h hf,
    fun h hl => pwaitLock_goesOn h hl, fun p n hphase hn => ?_⟩
  · intro a ha ht hp
    exact pwaitS_goesOn h ha ht hp
  · intro pa hg hw
    exact pwaitG_goesOn h he hg hw
  · rw [Phase.past_iff, phaseEnded_iff hphase hn]

end Sys2Proof.Machine

namespace Sys2Proof.Machine

open Sys2Proof Sys2Proof.Said

-- The issue of engine copies.

/-- An operation that is added stands under the next name, under its context's translation generation (R100). -/
theorem State.get?_ops_addOp (s : State) (o : Op) : FMap.get? (s.addOp o).2.ops s.nextId = some { o with gen := (s.ctx o.ctx).gen } := by
  unfold State.addOp
  cases o.team with
  | none => exact FMap.get?_set_self _ _ _
  | some t =>
    by_cases h : o.cls < 4
    · simp only [h, if_true]; exact FMap.get?_set_self _ _ _
    · simp only [h, if_false]; exact FMap.get?_set_self _ _ _

/-- It raises the counter of its class in its team (R34). -/
theorem State.cnt_addOp {s : State} {o : Op} {t : Nat} {tm : Team} (ho : o.team = some t) (hc : o.cls < 4) (ht : s.team? t = some tm) :
    ∃ tm', (s.addOp o).2.team? t = some tm' ∧ ∀ n, FMap.getD tm'.cnt n 0 = if n = o.cls then FMap.getD tm.cnt n 0 + 1 else FMap.getD tm.cnt n 0 := by
  refine ⟨{ tm with cnt := FMap.set tm.cnt o.cls (FMap.getD tm.cnt o.cls 0 + 1) }, ?_, fun n => ?_⟩
  · unfold State.addOp
    simp only [ho, hc, if_true, State.team?_updTeam_self]
    exact congrArg _ ht
  · rw [FMap.getD_set]
    split
    · next h => rw [h]
    · rfl

/-- An issue of operations in the statements' words: what it starts from, and the threads that its operations wait for. -/
theorem State.engineIssue_starts (s : State) (c : Iss) (want : Bool) (k : State → (Nat → List Nat) → State) :
    s.engineIssue c want k = k (starts s c want) (startsAfter s c want) := by
  rw [State.engineIssue_eq]
  by_cases h : s.lateIssue c want = true
  · have hafter : startsAfter s c want = fun tid => [tid] := funext fun tid => if_pos h
    rw [if_pos h, hafter, starts, if_pos h]
  · have hafter : startsAfter s c want = fun _ => [] := funext fun tid => if_neg h
    rw [if_neg h, hafter, starts, if_neg h]
    rfl

/-- A copy by a group of one thread, where there is room: refused or started, and the group moves on without waiting for it (R231). -/
theorem State.copies_alone {s : State} {c : Iss} {tid : Nat} {u : Use} (st : BitVec 2) (cls : Nat) (kd : List Nat) (op : Iss → OpKind × List Chunk)
    (h : Apart s c (copyUse c u)) (ha : c.alone tid) (hr : copyRoom (starts s c (!copyRefused s c)) c cls)
    (hs : stands ((starts s c (!copyRefused s c)).copyOne c cls kd (op c).1 (op c).2 (startsAfter s c (!copyRefused s c) tid) tid) c) :
    s.copies st u cls kd op =
      Said.issued ((starts s c (!copyRefused s c)).copyOne c cls kd (op c).1 (op c).2 (startsAfter s c (!copyRefused s c) tid) tid) c tid (gap st) := by
  have hmode : (s.iss.map (fun c => c.tm.eff.sr.cpymode.toNat)).getD 0 = c.tm.eff.sr.cpymode.toNat := by simp [h.iss]
  obtain ⟨tm, htm, hlen⟩ := hs
  have hroom : ((starts s c (!copyRefused s c)).cntRoom c.t cls && (bit c.tm.eff.sr.cpymode.toNat 0 ||
      decide ((starts s c (!copyRefused s c)).copiesOf c.t < c.tm.tr.copyq))) = true := by simpa [copyRoom] using hr
  unfold State.copies
  simp only [hmode]
  refine (h.forbiddenFree _).trans ?_
  rw [State.engineIssue_starts]
  refine State.issueEach_alone (gapOf st) (one := fun s' tid => s'.copyOne c cls kd (op c).1 (op c).2 (startsAfter s c (!copyRefused s c) tid) tid) ha hroom
    ⟨tm, htm, hlen.symm ▸ ha.2.1⟩

/-- The engine copies with a record issue so. -/
theorem State.recCopy_alone {s : State} {c : Iss} {tid : Nat} (st : BitVec 2) (x : Copying) (h : Apart s c (x.use c)) (ha : c.alone tid) :
    let s0 := starts s c (!copyRefused s c)
    let s1 := s0.copyOne c x.cls x.kd (.record x.e (x.args s c)) [⟨.glob (c.k s x.a.toNat), .skip, x.e.recBytes, 0, .record⟩]
      (startsAfter s c (!copyRefused s c) tid) tid
    copyRoom s0 c x.cls → stands s1 c → s.recCopy st x.e x.cls x.n x.kd x.a x.b = Said.issued s1 c tid (gap st) :=
  fun hr hs => State.copies_alone st x.cls x.kd _ h ha hr hs

/-- Which engine copies there are: each executes as `recCopy` says of its fields, and its record has 64 bytes, that of SREAD 256. -/
theorem exec_copying {i : Instr} {x : Copying} (h : copying i = some x) (s : State) :
    (∃ st : BitVec 2, exec i s = .next (s.recCopy st x.e x.cls x.n x.kd x.a x.b)) ∧ x.e.recBytes = if x.e = .sread then 256 else 64 := by
  unfold copying at h
  split at h
  case h_8 => exact absurd h (by simp)
  all_goals
    obtain rfl := Option.some.inj h
    exact ⟨⟨_, rfl⟩, rfl⟩

theorem tclass_alone {s : State} {c : Iss} {tid : Nat} (st : BitVec 2) (d a : BitVec 6) (h : Apart s c (copyUse c (Use.ksrc a.toNat 1)))
    (ha : c.alone tid) :
    let s0 := starts s c (!copyRefused s c)
    let s1 := s0.copyOne c 0 [d.toNat] (.tclass (c.k s a.toNat) 0) [⟨.glob (c.k s a.toNat), .skip, 1, 0, .tile⟩] (startsAfter s c (!copyRefused s c) tid) tid
    copyRoom s0 c 0 → stands s1 c → exec (.tclass st d a) s = .next (Said.issued s1 c tid (gap st)) :=
  fun hr hs => congrArg Host.Outcome.next (State.copies_alone st 0 [d.toNat]
    (fun c => (.tclass (c.k s a.toNat) 0, [⟨.glob (c.k s a.toNat), .skip, 1, 0, .tile⟩])) h ha hr hs)

/-- What a copy of one token register writes to its predicate, where copies do not wait (R238). -/
def copyFlagged (s : State) (c : Iss) (tid : Nat) (v : DWord) : State :=
  if bit c.tm.eff.sr.cpymode.toNat 0 then ({ s with nextId := s.nextId + 1 } : State).writeRegs c.t c.gid 0 [(tid, .p (bits c.tm.eff.sr.cpymode.toNat 3 1), v)]
  else { s with nextId := s.nextId + 1 }

/-- A refused copy: its token has status 8 (R231, R238). -/
theorem State.copyOne_refused {s : State} {c : Iss} (cls tid d : Nat) (kind : OpKind) (chunks : List Chunk) (after : List Nat) (h : copyRefused s c = true) :
    s.copyOne c cls [d] kind chunks after tid =
      (copyFlagged s c tid 1).owe c.t s.nextId tid true false [(.k d, some (BitVec.ofNat 64 (8 * 2 ^ 32)))] := by
  unfold State.copyOne
  exact if_pos h

/-- A copy that starts: its k register is owed and its operation is added and tries its first part. -/
theorem State.copyOne_started {s : State} {c : Iss} (cls tid d : Nat) (kind : OpKind) (chunks : List Chunk) (after : List Nat) (h : copyRefused s c = false) :
    let s1 := (copyFlagged s c tid 0).owe c.t s.nextId tid true false [(.k d, none)] 0 true
    ∃ n, s.copyOne c cls [d] kind chunks after tid =
      (s1.addOp { c.newOp tid cls kind [s.nextId] with copyq := true, chunks, bytes := n, after }).2.landNext s1.nextId := by
  intro s1
  have hgo : ¬ (bit c.tm.eff.sr.cpymode.toNat 0 && decide (128 ≤ s.copiesOn c.tm.core)) = true := by
    rw [Bool.not_eq_true]; exact h
  unfold State.copyOne
  exact ⟨_, if_neg hgo⟩

/-- Settles O26: every copy comes down to `copies` of a group of one thread, and `copyOne` refuses or adds one operation. -/
theorem copiesIssue : Obligations.CopiesIssue := by
  refine ⟨⟨fun i x s c tid hx _ h ha => ?_, fun st d a s c tid h ha => tclass_alone st d a h ha⟩, fun s c cls tid d kind chunks after => ?_⟩
  · intro s0 s1 hr hs
    obtain ⟨⟨st, hexec⟩, hbytes⟩ := exec_copying hx s
    refine ⟨st, hexec.trans (congrArg _ ?_)⟩
    have := State.recCopy_alone st x h ha
    rw [hbytes] at this
    exact this hr hs
  · exact ⟨fun h => State.copyOne_refused cls tid d kind chunks after h, fun h => State.copyOne_started cls tid d kind chunks after h,
      fun s o tm ho hc ht => ⟨State.get?_ops_addOp s o, State.cnt_addOp ho hc ht⟩⟩

end Sys2Proof.Machine

namespace Sys2Proof.Machine

open Sys2Proof Sys2Proof.Said

-- Operations.

@[simp] theorem State.op?_updOp_self (s : State) (id : Nat) (f : Op → Op) : (s.updOp id f).op? id = (s.op? id).map f :=
  FMap.get?_upd_self _ _ _

@[simp] theorem State.updOp_faults (s : State) (id : Nat) (f : Op → Op) : (s.updOp id f).faults = s.faults := rfl

@[simp] theorem Op.spoil_parked (o : Op) (cs : List Chunk) : (o.spoil cs).parked = o.parked := rfl
@[simp] theorem Op.spoil_kind (o : Op) (cs : List Chunk) : (o.spoil cs).kind = o.kind := rfl

/-- An operation without a phase object has none to look up. -/
theorem State.phaseAt_none {s : State} {o : Op} (h : o.phase = .none) : s.phaseAt o = .ok none := by
  simp [State.phaseAt, h]

theorem State.phasePlace_none {s : State} {o : Op} (h : o.phase = .none) : s.phasePlace o = [] := by
  simp [State.phasePlace, State.phaseAt_none h]

@[simp] theorem State.placesWait_nil (s : State) (o : Op) : s.placesWait o [] = none := by simp [State.placesWait]

/-- It counts no bytes (R237). -/
theorem State.count_none {s : State} {o : Op} (h : o.phase = .none) (id : Nat) (f : Phase × Nat → Phase × Nat) : s.count id o f = s := by
  simp [State.count, State.phaseAt_none h]

/-- Nor do its parked bytes stand in one. -/
theorem State.unhold_none {s : State} {u : FaultUnit} {o : Op} (h : o.phase = .none) : s.unhold u o = s := by
  simp [State.unhold, State.phaseAt_none h, State.phasePlace_none h, State.count_none h]

-- Completion (R121, R292, R299).

section

variable {s : State} {id : Nat} {o : Op} (hop : s.op? id = some o) (hdone : o.done = false) (hland : o.landed = true)
  (hturn : s.matrixTurn id o = true)

include hop hdone hland hturn

theorem engineComplete_counts (hcounts : o.counts = true) :
    exec (.engineComplete id) s = .next (s.updOp id (fun o => { o with chunks := Chunk.counting o.uncounted })) := by
  show execEngineComplete id s = _
  simp [execEngineComplete, hop, hdone, hland, hturn, hcounts]

variable (hcounts : o.counts = false)

include hcounts

theorem engineComplete_azero {first n : Nat} (hk : o.kind = .azero first n) : exec (.engineComplete id) s = .next
    ((s.updCore o.core (fun k => (List.range n).foldl (fun (k : CoreSt) i => k.clearUnit (first + i)) k)).finish id o) := by
  show execEngineComplete id s = _
  simp [execEngineComplete, hop, hdone, hland, hturn, hcounts, hk]

/-- A matrix operation that no older one of its core holds back, and whose unit it clears or finds without a data error (R295, R364). -/
theorem engineComplete_mma {unit ival : Nat} {zi fin nel : Bool} {a : OSlot} {bs : List OSlot} {m : Option OSlot}
    (hk : o.kind = .mma unit ival zi fin nel a bs m) (holder : ∀ e ∈ s.ops, e.1 < id → e.2.core = o.core → e.2.done = true)
    (hbad : zi = true ∨ ∀ h ∈ (s.core o.core).accBad, h / 256 ≠ unit) :
    let r := (s.core o.core).matmul unit ival zi fin a bs m
    exec (.engineComplete id) s = .next ((s.updCore o.core (fun _ => r.1)).finish id { o with flags := o.flags ||| r.2 }) := by
  intro r
  have hfree : ∀ p : Nat × Op → Bool, s.ops.any (fun e => decide (e.1 < id) && e.2.core == o.core && !e.2.done && p e) = false := by
    intro p
    rw [List.any_eq_false]
    intro e he hcond
    simp only [Bool.and_eq_true, decide_eq_true_eq, beq_iff_eq, Bool.not_eq_true'] at hcond
    obtain ⟨⟨⟨hlt, hcore⟩, hnot⟩, -⟩ := hcond
    rw [holder e he hlt hcore] at hnot
    exact absurd hnot (by decide)
  have hsound : (if zi = true then none else (s.core o.core).accBad.find? (fun h => h / 256 == unit)) = none := by
    rcases hbad with hbad | hbad
    · rw [if_pos hbad]
    · split
      · rfl
      · simpa using hbad
  show execEngineComplete id s = _
  simp only [execEngineComplete, hop, hdone, hland, hturn, hcounts, hk, hfree, hsound, Bool.not_true, Bool.or_self, Bool.false_eq_true, if_false]
  rfl

theorem engineComplete_plain (hk : o.kind = .ald ∨ o.kind = .copy) : exec (.engineComplete id) s = .next (s.finish id o) := by
  show execEngineComplete id s = _
  rcases hk with hk | hk <;> simp [execEngineComplete, hop, hdone, hland, hturn, hcounts, hk]

theorem engineComplete_sread {sid cell cur : Nat} {ver res mx : Word} (hk : o.kind = .sread sid cell cur ver res mx) :
    exec (.engineComplete id) s = .next ((s.finish id o).lookAhead sid) := by
  show execEngineComplete id s = _
  simp [execEngineComplete, hop, hdone, hland, hturn, hcounts, hk]

end

-- Fault units (R236).

/-- The failed pieces of an operation's first failed page park together, where the queue has a free entry and no phase object takes fault bytes. -/
theorem faultUnitPark_parks {s : State} {id : Nat} {o : Op} {c : Chunk} {rest : List Chunk} {va : DWord} (hop : s.op? id = some o)
    (hfail : o.failed = c :: rest) (hva : s.unitFault o c = some va) (hroom : s.queued o.team o.ctx < 64) (hphase : o.phase = .none) :
    let page := va.toNat / 4096
    let unit := c :: rest.filter (fun d => touches o d page)
    ∃ s', exec (.faultUnitPark id) s = .next s' ∧
      FMap.get? s'.faults s.nextId = some { team := o.team, ctx := o.ctx, agent := .engine, op := id, va, chunks := unit } ∧
      (s'.op? id).map (fun o => (o.failed, o.parked)) = some (rest.filter (fun d => !touches o d page), o.parked + 1) := by
  intro page unit
  let s1 : State := { s with
    nextId := s.nextId + 1, faults := FMap.set s.faults s.nextId { team := o.team, ctx := o.ctx, agent := .engine, op := id, va, chunks := unit } }
  refine ⟨s1.updOp id (fun q => { q with failed := rest.filter (fun d => !touches o d page), parked := q.parked + 1, faults := q.faults + 1 }), ?_, ?_, ?_⟩
  · show execFaultUnitPark id s = _
    simp [execFaultUnitPark, hop, hfail, hva, State.phaseAt_none hphase, Nat.not_le.mpr hroom, State.newId, s1, unit, page]
  · exact FMap.get?_set_self _ _ _
  · have hop1 : s1.op? id = some o := hop
    simp [hop1]

theorem faultReplay_returns {s : State} {fu : Nat} {u : FaultUnit} {o : Op} (hu : FMap.get? s.faults fu = some u) (hag : u.agent = .engine)
    (hop : s.op? u.op = some o) (hphase : o.phase = .none) (hst : o.status = 0) :
    ∃ s', exec (.faultReplay fu) s = .next s' ∧ s'.faults = FMap.erase s.faults fu ∧
      (s'.op? u.op).map (fun o => (o.chunks, o.parked)) = some (u.chunks ++ o.chunks, o.parked - 1) := by
  let s1 : State := { s with faults := FMap.erase s.faults fu }
  have hop1 : s1.op? u.op = some o := hop
  have hexec : exec (.faultReplay fu) s = .next (s.unpark fu u true) := by
    show execFaultReplay fu s = _
    simp [execFaultReplay, hu, hag]
  refine ⟨_, hexec, ?_, ?_⟩ <;>
    simp [State.unpark, hag, hop1, s1, State.unhold_none hphase, hst]

/-- A unit given up: its bytes are counted without being moved (R236, R237, R394). -/
theorem faultDeclare_counts {s : State} {fu : Nat} {u : FaultUnit} {o : Op} (hu : FMap.get? s.faults fu = some u) (hag : u.agent = .engine)
    (hop : s.op? u.op = some o) (hphase : o.phase = .none) (hst : o.status = 0) (hkind : ∀ e a, o.kind ≠ .record e a) :
    ∃ s', exec (.faultDeclareUnserviceable fu) s = .next s' ∧ s'.faults = FMap.erase s.faults fu ∧
      (s'.op? u.op).map (fun o => (o.chunks, o.parked, o.fault)) =
        some (Chunk.counting (u.chunks.foldl (fun n c => n + c.nom) 0) ++ o.chunks, o.parked - 1, true) := by
  let s1 : State := { s with faults := FMap.erase s.faults fu }
  have hop1 : s1.op? u.op = some o := hop
  obtain ⟨q, hq, hqk, hqv⟩ : ∃ q, (s.unpark fu u false).op? u.op = some q ∧ q.kind = o.kind ∧ (q.chunks, q.parked, q.fault) =
      (Chunk.counting (u.chunks.foldl (fun n c => n + c.nom) 0) ++ o.chunks, o.parked - 1, true) := by
    simp [State.unpark, hag, hop1, s1, State.unhold_none hphase, hst, hphase]
  refine ⟨s.unpark fu u false, ?_, ?_, ?_⟩
  · show execFaultDeclareUnserviceable fu s = _
    simp only [execFaultDeclareUnserviceable, hu, hag, hq]
    split
    · next e a he => exact absurd (hqk.symm.trans he) (hkind e a)
    · rfl
  · simp [State.unpark, hag, hop1, s1, State.unhold_none hphase]
  · rw [hq, Option.map_some, hqv]

-- Retirement and ordered sets (R35, R240).

theorem engineRetire_retires {s : State} {t cls id : Nat} {o : Op}
    (hfind : s.ops.find? (fun e => e.2.team == some t && e.2.cls == cls) = some (id, o)) (hdone : o.done = true)
    (hwritten : ∀ tm, s.team? t = some tm → ∀ w ∈ tm.wbs, w.id ∉ o.wbs) :
    exec (.engineRetire t cls) s = .next ((({ s with ops := FMap.erase s.ops id } : State).updTeam t (fun tm =>
      { tm with cnt := FMap.set tm.cnt cls (FMap.getD tm.cnt cls 0 - 1) })).raiseMatrix t o.flags o.hdr o.tid) := by
  have hnone : (s.team? t).any (fun tm => tm.wbs.any (fun w => o.wbs.contains w.id)) = false := by
    cases ht : s.team? t with
    | none => rfl
    | some tm => simpa using hwritten tm ht
  show execEngineRetire t cls s = _
  simp only [execEngineRetire, hfind, hdone, hnone, Bool.not_true, Bool.or_self, Bool.false_eq_true, if_false]

theorem cpyredSetInstall_installs {s : State} {start n : Nat} (hlen : (s.redSet start n).length = n) (hn : n ≠ 0)
    (hland : ∀ e ∈ s.redSet start n, e.2.1.landed = true)
    (hwaits : ∀ p ∈ (setElems (s.redSet start n)).flatMap Prod.snd, s.setWaits (s.redSet start n) p = false) :
    let l := s.redSet start n
    exec (.cpyredSetInstall start n) s = .next (l.foldl (fun s e => s.contributed ((l.head?.map Prod.fst).getD 0) e)
      ((setElems l).foldl (fun s w => s.setElem l w) (s.setPrep l ((setElems l).flatMap Prod.snd)))) := by
  intro l
  have hready : (l.length ≠ n || decide (n = 0) || !l.all (fun e => e.2.1.landed)) = false := by
    simpa [l, hlen, hn] using hland
  have hfree : ((setElems l).flatMap Prod.snd).any (s.setWaits l) = false := by
    rw [List.any_eq_false]
    exact fun p hp => by simp [l, hwaits p hp]
  show execCpyredSetInstall start n s = _
  simp only [execCpyredSetInstall]
  rw [if_neg (ne_true_of_eq_false hready), if_neg (ne_true_of_eq_false hfree)]

/-- An element of four adjacent bytes without a data error takes the sum of its set's contributions and of what it held (R240). -/
theorem State.setElem_adds (s : State) (l : List (Nat × Op × Nat × Bool)) (a at_ e0 e1 e2 e3 : Nat)
    (h : ∀ i, i < 4 → s.poisoned (at_ + i) 1 = none) :
    s.setElem l (a, [(at_, e0), (at_ + 1, e1), (at_ + 2, e2), (at_ + 3, e3)]) =
      s.homeWriteN { pte := some e0, op := (l.head?.map Prod.fst).getD 0, ctx := (l.head?.map (fun e => e.2.1.ctx)).getD 0 } at_
        (natLe 4 (setSum l a (leNat ((List.range 4).flatMap (fun i => s.homeBytes (at_ + i) 1))))) 2 := by
  have h0 : s.poisoned at_ 1 = none := h 0 (by decide)
  simp [State.setElem, h0, h 1 (by decide), h 2 (by decide), h 3 (by decide), List.range_succ]

-- The release of slots (R286).

@[simp] theorem State.core_updCore (s : State) (c : Nat) (f : CoreSt → CoreSt) : (s.updCore c f).core c = f (s.core c) := by
  simp [State.core, State.updCore]

theorem CoreSt.slot_freeSlot (k : CoreSt) (n m : Nat) :
    (k.freeSlot n).slot m = if m = n then { data := (k.slot n).data } else k.slot m := by
  simp only [CoreSt.freeSlot, CoreSt.setSlot, CoreSt.slot, FMap.getD_set]

/-- A team's slots freed one after another: those of the list that it holds are free, and every other slot stands. -/
theorem CoreSt.slot_freeHeld (go : List Nat) (t m : Nat) (k : CoreSt) :
    (go.foldl (fun (k : CoreSt) n => if k.holds t n then k.freeSlot n else k) k).slot m =
      if m ∈ go ∧ k.holds t m = true then { data := (k.slot m).data } else k.slot m := by
  induction go generalizing k with
  | nil => simp
  | cons n go ih =>
    rw [List.foldl_cons, ih]
    by_cases hn : k.holds t n = true
    · rw [if_pos hn]
      by_cases hm : m = n
      · subst hm
        simp [CoreSt.holds, CoreSt.slot_freeSlot] at hn ⊢
        simp [hn]
      · simp [CoreSt.holds, CoreSt.slot_freeSlot, hm]
    · rw [if_neg hn]
      by_cases hm : m = n
      · subst hm
        simp [hn]
      · simp [hm]

/-- A slot that a pending SREL lets go: it names it, and its team holds it no more, or its fill is complete and no named matrix instruction waits
for it. -/
def SRel.letsGo (r : SRel) (s : State) (n : Nat) : Bool :=
  bit r.mask n && (!(s.core r.core).holds r.team n || (((s.core r.core).slot n).state != 2 &&
    r.waits.all (fun w => w % 16 != n || !((s.team? r.team).map (fun tm => tm.waitsAt w)).getD false)))

theorem State.core_tryRel {s : State} {rel : Nat} {r : SRel} (hr : FMap.get? s.rels rel = some r) :
    (s.tryRel rel).core r.core = ((List.range 16).filter (r.letsGo s)).foldl
      (fun (k : CoreSt) n => if k.holds r.team n then k.freeSlot n else k) (s.core r.core) := by
  have hcore := State.core_updCore s r.core (fun k => ((List.range 16).filter (r.letsGo s)).foldl
    (fun (k : CoreSt) n => if k.holds r.team n then k.freeSlot n else k) k)
  unfold State.tryRel
  simp only [hr]
  split <;> exact hcore

theorem SRel.letsGo_iff {r : SRel} {s : State} {n : Nat} (hh : (s.core r.core).holds r.team n = true) : r.letsGo s n = true ↔
    r.mask.testBit n = true ∧ ((s.core r.core).slot n).state ≠ 2 ∧
      ∀ w ∈ r.waits, w % 16 = n → ∀ tm, s.team? r.team = some tm → tm.waitsAt w = false := by
  have hwaits : ∀ w, ((s.team? r.team).map (fun tm => tm.waitsAt w)).getD false = false ↔ ∀ tm, s.team? r.team = some tm → tm.waitsAt w = false := by
    intro w
    cases s.team? r.team <;> simp
  simp [SRel.letsGo, bit_eq_testBit, hh, hwaits, imp_iff_not_or]

/-- A slot of a core after a pending SREL has looked at it: free, if its team held it and the SREL lets it go; else as it was. -/
theorem State.slot_tryRel {s : State} {rel : Nat} {r : SRel} (hr : FMap.get? s.rels rel = some r) {n : Nat} (hn : n < 16) :
    ((s.tryRel rel).core r.core).slot n = if r.letsGo s n = true ∧ (s.core r.core).holds r.team n = true
      then { data := ((s.core r.core).slot n).data } else (s.core r.core).slot n := by
  rw [State.core_tryRel hr, CoreSt.slot_freeHeld]
  simp [hn]

theorem slotRelease_frees {s : State} {rel : Nat} {r : SRel} (hr : FMap.get? s.rels rel = some r) : ∃ s', exec (.slotRelease rel) s = .next s' ∧
    ∀ n, n < 16 → (((s.core r.core).slot n).state ≠ 2 → r.mask.testBit n = true → (s.core r.core).holds r.team n = true →
        (∀ w ∈ r.waits, w % 16 = n → ∀ tm, s.team? r.team = some tm → tm.waitsAt w = false) → ((s'.core r.core).slot n).state = 0) ∧
      (r.mask.testBit n = false ∨ ((s.core r.core).slot n).state = 2 ∨ (s.core r.core).holds r.team n = false → (s'.core r.core).slot n = (s.core r.core).slot n) := by
  refine ⟨s.tryRel rel, rfl, fun n hn => ⟨fun hst hm hh hw => ?_, fun hno => ?_⟩⟩
  · rw [State.slot_tryRel hr hn, if_pos ⟨(SRel.letsGo_iff hh).mpr ⟨hm, hst, hw⟩, hh⟩]
  · rw [State.slot_tryRel hr hn, if_neg]
    rintro ⟨hgo, hh⟩
    obtain ⟨hm, hst, -⟩ := (SRel.letsGo_iff hh).mp hgo
    rcases hno with h | h | h
    · simp [hm] at h
    · exact hst h
    · simp [hh] at h

/-- Settles O44: one lemma for each event; the phase object, absent in the clauses on parked units, takes no part. -/
theorem engineEvents : Obligations.EngineEvents := by
  refine ⟨fun s id o hop => ⟨fun _ => rfl, fun hd hl ht hc => engineComplete_counts hop hd hl ht hc, fun hd hl ht hc => ?_, ?_⟩, ?_, ?_, ?_, ?_⟩
  · exact ⟨fun _ _ hk => engineComplete_azero hop hd hl ht hc hk,
      fun _ _ _ _ _ _ _ _ hk holder hbad => engineComplete_mma hop hd hl ht hc hk holder hbad,
      fun hk => engineComplete_plain hop hd hl ht hc hk, fun _ _ _ _ _ _ hk => engineComplete_sread hop hd hl ht hc hk⟩
  · exact fun c rest va hfail hva hroom hphase => faultUnitPark_parks hop hfail hva hroom hphase
  · exact fun s t cls id o hfind hdone hwritten => engineRetire_retires hfind hdone hwritten
  · exact fun s start n hlen hn hland hwaits => ⟨cpyredSetInstall_installs hlen hn hland hwaits,
      fun s a at_ e0 e1 e2 e3 h => State.setElem_adds s _ a at_ e0 e1 e2 e3 h⟩
  · exact fun s rel r hr => slotRelease_frees hr
  · exact fun s fu u hu hag o hop hphase hst hkind => ⟨faultReplay_returns hu hag hop hphase hst, faultDeclare_counts hu hag hop hphase hst hkind⟩

end Sys2Proof.Machine

namespace Sys2Proof.Machine

open Sys2Proof Sys2Proof.Said

-- Placement (R339).

theorem placeKey_mod (k id : Nat) (h : id < 2 ^ 64) : (k * 2 ^ 64 + id) % 2 ^ 64 = id := by omega

/-- One saved team of a valid context, and nothing else, is what admission takes. -/
theorem State.placeOrder_saved {s : State} {id : Nat} {tm : Team} (hl : s.launches = []) (ht : s.teams = [(id, tm)]) (hid : id < 2 ^ 64)
    (hlife : tm.life = .saved) (hv : (s.ctx tm.ctx).v = true) : s.placeOrder = [id] := by
  simp only [State.placeOrder, hl, ht, List.filter_nil, List.map_nil, List.nil_append, List.filter_cons, hlife, hv, beq_self_eq_true, Bool.and_self,
    if_true, List.map_cons, List.foldr_cons, List.foldr_nil, insertSorted, placeKey_mod _ _ hid]

/-- One open launch of a valid context, and nothing else, is what admission takes. -/
theorem State.placeOrder_launch {s : State} {id : Nat} {l : Machine.Launch} (ht : s.teams = []) (hl : s.launches = [(id, l)]) (hid : id < 2 ^ 64)
    (hopen : l.open = true) (hv : (s.ctx l.ctx).v = true) : s.placeOrder = [id] := by
  simp only [State.placeOrder, hl, ht, List.filter_nil, List.map_nil, List.append_nil, List.filter_cons, hopen, hv, Bool.and_self,
    if_true, List.map_cons, List.foldr_cons, List.foldr_nil, insertSorted, placeKey_mod _ _ hid]

@[simp] theorem FMap.get?_single {α : Type} (n : Nat) (a : α) : FMap.get? [(n, a)] n = some a := by simp [FMap.get?]

theorem teamPlace_saved {s s1 : State} {die id : Nat} {tm : Team} (hl : s.launches = []) (ht : s.teams = [(id, tm)]) (hid : id < 2 ^ 64)
    (hdie : tm.dieOf = die) (hlife : tm.life = .saved) (hv : (s.ctx tm.ctx).v = true) (hp : s.placeSaved id tm = some s1) :
    exec (.teamPlace die) s = .next { s1 with agenda := .teamPlace die :: s1.agenda } := by
  have hat : s.placeId id = some (die, s1) := by simp [State.placeId, State.team?, hl, ht, hp, hdie]
  show execTeamPlace die s = _
  simp [execTeamPlace, State.placeOrder_saved hl ht hid hlife hv, hat]

theorem teamPlace_grid {s s1 : State} {die id : Nat} {l : Machine.Launch} (ht : s.teams = []) (hl : s.launches = [(id, l)]) (hid : id < 2 ^ 64)
    (hdie : l.die = die) (hopen : l.open = true) (hv : (s.ctx l.ctx).v = true) (hp : s.placeLaunch id l = some s1) :
    exec (.teamPlace die) s = .next { s1 with agenda := .teamPlace die :: s1.agenda } := by
  have hat : s.placeId id = some (die, s1) := by simp [State.placeId, hl, hp, hdie]
  show execTeamPlace die s = _
  simp [execTeamPlace, State.placeOrder_launch ht hl hid hopen hv, hat]

-- Activation, parking, rotation (R27, R29, R346).

theorem teamActivate_longest {s : State} {core t base : Nat} {tm : Team}
    (hlong : longest s.clock ((s.waiting core).filter (fun e => s.coreOpen core e.2.ctx && (s.fitsActive core e.2.tr).isSome)) = some (t, tm))
    (hfit : s.fitsActive core tm.tr = some base) : exec (.teamActivate core) s = .next (s.activate t base false) := by
  show execTeamActivate core s = _
  simp only [execTeamActivate, hlong, hfit]

theorem teamPark_eldest {s : State} {core t : Nat} {tm : Team} (hneed : ∃ e ∈ s.waiting core, s.fitsActive core e.2.tr = none)
    (hnone : ∀ e ∈ s.waiting core, s.fitsActive core e.2.tr = none ∨ s.coreOpen core e.2.ctx = false)
    (hold : eldest ((s.activeOn core).filter (fun e => (e.2.life == .live || e.2.life == .saving) && s.allWait e.1 e.2)) = some (t, tm)) :
    exec (.teamPark core) s = .next (s.park t) := by
  have hnotAll : (s.waiting core).all (fun e => (s.fitsActive core e.2.tr).isSome) = false := by
    obtain ⟨e, he, hfit⟩ := hneed
    exact List.all_eq_false.mpr ⟨e, he, by simp [hfit]⟩
  have hnotAny : (s.waiting core).any (fun e => (s.fitsActive core e.2.tr).isSome && s.coreOpen core e.2.ctx) = false := by
    refine List.any_eq_false.mpr fun e he => ?_
    rcases hnone e he with h | h <;> simp [h]
  show execTeamPark core s = _
  simp only [execTeamPark, hnotAll, hnotAny, Bool.or_self, Bool.false_eq_true, if_false, hold]

/-- A waiting team that fits becomes active without a park. -/
theorem State.rotate_fits {s : State} {core t base : Nat} {tm : Team} (n : Nat) (hshare : s.shareAllows core tm.standing = true)
    (hfit : s.fitsActive core tm.tr = some base) : s.rotate core t tm (n + 1) = some (s.activate t base true) := by
  simp [State.rotate, hshare, hfit]

theorem rotation_fits {s : State} {core t base : Nat} {tm : Team} (hheld : (s.core core).held = false)
    (hlong : longest s.clock ((s.parkedOn core).filter (fun e => (e.2.life == .live || e.2.life == .saving) &&
      decide (0 < s.kindLimit core e.2.standing) && e.2.parkedReady && e.2.readySince.any (fun c => decide (c + 125000 ≤ s.clock)))) = some (t, tm))
    (hshare : s.shareAllows core tm.standing = true) (hfit : s.fitsActive core tm.tr = some base) :
    exec (.rotation core) s = .next (s.activate t base true) := by
  have hfirst : ∀ l : List (Nat × Team), longest s.clock l = some (t, tm) → s.rotateFirst core l.length l = some (s.activate t base true) := by
    intro l hl
    cases l with
    | nil => simp [longest, argMin] at hl
    | cons e l =>
      simp only [List.length_cons, State.rotateFirst, hl, State.rotate_fits 16 hshare hfit, Option.orElse_some]
  show execRotation core s = _
  simp only [execRotation, hheld, Bool.false_eq_true, if_false]
  exact congrArg (fun x : Option State => Host.Outcome.next (x.getD s)) (hfirst _ hlong)

-- The end of a team (R38, R351).

section

variable {s : State} {t : Nat} {tm : Team} (ht : s.team? t = some tm)

include ht

theorem teamRetire_retires (hlife : tm.life = .live ∨ tm.life = .faulted) (hlive : tm.live = []) (hfin : s.finished tm = true)
    (hrel : s.canRelease tm.core = true) (happ : tm.applying = false) :
    let s0 := ((((s.release tm.core).dropRegions t).settleCell tm true).tally tm).releaseTeam t
    exec (.teamRetire t) s = .next (match tm.launch with
      | none => s0
      | some l => s0.finishLaunch l) := by
  have hnot : (tm.life == .discarding || tm.life == .saved) = false := by
    rcases hlife with h | h <;> rw [h] <;> rfl
  show execTeamRetire t s = _
  simp only [execTeamRetire, ht, hnot, hlive, hfin, hrel, happ, List.isEmpty_nil, Bool.not_true, Bool.or_self, Bool.false_eq_true, if_false]
  cases tm.launch <;> rfl

/-- A team that is discarded, whose copies and held accesses are done, goes; its launch, if it has one, takes its place back. -/
theorem discardRequeue_discards (hlife : tm.life = .discarding) (hcnt : ∀ c, c < 4 → FMap.getD tm.cnt c 0 = 0) (hlat : tm.laters = [])
    (happ : tm.applying = false) : exec (.discardRequeue t) s = .next ((match tm.launch with
      | some l => { s.settleCell tm false with launches := FMap.upd (s.settleCell tm false).launches l (fun e => { e with requeue := e.requeue ++ [e.index tm.grid] }) }
      | none => s.settleCell tm false).releaseTeam t) := by
  have hzero : (List.range 4).any (fun c => FMap.getD tm.cnt c 0 != 0) = false := by
    simpa [List.any_eq_false] using hcnt
  show execDiscardRequeue t s = _
  simp only [execDiscardRequeue, ht, hlife, hzero, hlat, happ, bne_self_eq_false, List.isEmpty_nil, Bool.not_true, Bool.or_self, Bool.false_eq_true,
    if_false] <;> rfl

/-- While a commit of the team is being applied neither event does anything (R141). -/
theorem teamEnd_applying (happ : tm.applying = true) : exec (.teamRetire t) s = .next s ∧ exec (.discardRequeue t) s = .next s := by
  constructor
  · show execTeamRetire t s = _
    simp only [execTeamRetire, ht, happ, Bool.or_true, if_true]
  · show execDiscardRequeue t s = _
    simp only [execDiscardRequeue, ht, happ, Bool.or_true, if_true]

end

/-- The launch of a retired team counts it. -/
theorem State.launches_tally {s : State} {tm : Team} {l : Nat} {x : Machine.Launch} (hl : tm.launch = some l) (hx : FMap.get? s.launches l = some x) :
    (s.tally tm).launches = FMap.set s.launches l { x with
      retired := x.retired + 1, sumRet := x.sumRet + tm.ret, sumClk := x.sumClk + (s.clock - tm.placedAt), left := x.left - 1
      tfaults := if tm.life = .faulted then x.tfaults + 1 else x.tfaults } := by
  have hfault : x.tfaults + b2n (tm.life == .faulted) = if tm.life = .faulted then x.tfaults + 1 else x.tfaults := by
    by_cases h : tm.life = .faulted <;> simp [h, b2n]
  simp only [State.tally, hl, FMap.upd, hx, hfault]

-- Saving (R352).

section

variable {s : State} {t : Nat} {tm : Team} (ht : s.team? t = some tm) (hlife : tm.life = .saving) (hlive : tm.live ≠ []) (hmay : s.mayWrite t tm = true)

include ht hlife hlive hmay

/-- A save that may proceed waits for its matrix operations, its core's stores and its closing regions. -/
theorem teamSave_waits (hw : FMap.getD tm.cnt 2 0 ≠ 0 ∨ s.canRelease tm.core = false ∨ (∃ th ∈ tm.threads, ∃ r, th.region = some r ∧ r.stage ≠ 0)) :
    exec (.teamSave t) s = .next (s.updTeam t (fun tm => { tm with proceeds := true })) := by
  have hwait : (FMap.getD tm.cnt 2 0 != 0 || !s.canRelease tm.core || tm.threads.any (fun th => th.region.any (fun r => r.stage != 0))) = true := by
    rcases hw with h | h | ⟨th, hth, r, hr, hst⟩
    · simp [h]
    · simp [h]
    · have : tm.threads.any (fun th => th.region.any (fun r => r.stage != 0)) = true := List.any_eq_true.mpr ⟨th, hth, by simp [hr, hst]⟩
      simp [this]
  show execTeamSave t s = _
  simp only [execTeamSave, ht, hlife, hmay, List.isEmpty_eq_false_iff.mpr hlive, bne_self_eq_false, Bool.not_true, Bool.or_self, Bool.false_eq_true,
    if_false, hwait, if_true]

/-- A save that nothing holds writes the area, or, where a data error stands in the way, discards the team (R371). -/
theorem teamSave_saves (hcnt : FMap.getD tm.cnt 2 0 = 0) (hrel : s.canRelease tm.core = true)
    (hreg : ∀ th ∈ tm.threads, ∀ r, th.region = some r → r.stage = 0) :
    exec (.teamSave t) s = .next (match (s.gather t tm).saveError t with
      | some (str, pa) => ((s.gather t tm).contextMc tm.dieOf str tm.ctx pa).startDiscard t
      | none =>
        let s1 := ((s.gather t tm).storeArea t 1).updCore tm.core (fun c => { c.freeSlots t with full := false })
        (s1.updTeam t (fun tm =>
          { tm with life := .saved, active := false, pinned := [], refill := [], rotated := false, proceeds := true })).updDie
          tm.dieOf (fun d => { d with pend := d.pend.filter (· != t), late := d.late || decide (d.goAt + d.reqDl < s1.clock) })) := by
  have hgo : tm.threads.any (fun th => th.region.any (fun r => r.stage != 0)) = false := by
    refine List.any_eq_false.mpr fun th hth => ?_
    cases hr : th.region with
    | none => simp
    | some r => simp [hreg th hth r hr]
  show execTeamSave t s = _
  simp only [execTeamSave, ht, hlife, hmay, List.isEmpty_eq_false_iff.mpr hlive, bne_self_eq_false, Bool.not_true, Bool.or_self, Bool.false_eq_true,
    if_false, hcnt, hrel, hgo]
  rfl

end

end Sys2Proof.Machine

namespace Sys2Proof.Machine

open Sys2Proof Sys2Proof.Said

-- The end of a launch (R355, R380).

theorem State.finishLaunch_open {s : State} {lid : Nat} {l : Machine.Launch} (hl : FMap.get? s.launches lid = some l) (hleft : l.left ≠ 0) :
    s.finishLaunch lid = s := by
  simp [State.finishLaunch, hl, hleft]

section

variable {s : State} {lid : Nat} {l : Machine.Launch} (hl : FMap.get? s.launches lid = some l) (hleft : l.left = 0)
  (hq : ∀ f ∈ s.faults, f.2.agent = .launch → f.2.op ≠ lid)

include hl hleft hq

/-- With its last team retired and nothing of it parked, a launch reports to its command, or to its completion block, and is gone. -/
theorem State.finishLaunch_last :
    let status := if l.tfaults = 0 then 0 else 12
    let count := min l.tfaults (2 ^ 24 - 1)
    let x : Xlat := ⟨l.die, l.ctx, (s.ctx l.ctx).root.toNat, (s.ctx l.ctx).priv⟩
    (∀ q, l.cmd = some q → s.finishLaunch lid = { s with
      cmds := FMap.upd s.cmds q (fun c => { c with stage := 3, status, count }), launches := FMap.erase s.launches lid }) ∧
    (l.cmd = none → l.block = 0 → s.finishLaunch lid = { s with launches := FMap.erase s.launches lid }) ∧
    (l.cmd = none → l.block ≠ 0 → ∀ s1 s2, s.deadWrite l.dead x (l.block + 16) (natLe 16 (status + count * 2 ^ 8)) = .ok s1 →
      s1.deadArrive l.dead x l.block = .ok s2 → s.finishLaunch lid = { s2 with launches := FMap.erase s2.launches lid }) := by
  intro status count x
  have hgo : (decide (l.left ≠ 0) || s.faults.any (fun f => f.2.agent == .launch && f.2.op == lid)) = false := by
    have : s.faults.any (fun f => f.2.agent == .launch && f.2.op == lid) = false := by
      refine List.any_eq_false.mpr fun f hf => ?_
      simpa using hq f hf
    simp [hleft, this]
  refine ⟨fun q hc => ?_, fun hc hb => ?_, fun hc hb s1 s2 h1 h2 => ?_⟩
  · simp only [State.finishLaunch, hl, hgo, hc, Bool.false_eq_true, if_false]
    rfl
  · simp only [State.finishLaunch, hl, hgo, hc, hb, Bool.false_eq_true, if_false, if_true]
  · simp only [status, count, x] at h1 h2
    simp only [State.finishLaunch, hl, hgo, hc, hb, Bool.false_eq_true, if_false, h1, h2]

end

-- What a machine check of a context, and the end of a team's work, leave as it was.

theorem State.core_updCore_ne (s : State) {c k : Nat} (f : CoreSt → CoreSt) (h : k ≠ c) : (s.updCore c f).core k = s.core k := by
  simp [State.core, State.updCore, FMap.getD_set_ne _ _ _ h]

theorem State.die_updDie (s : State) (d e : Nat) (f : DieSt → DieSt) : (s.updDie d f).die e = if e = d then f (s.die d) else s.die e := by
  simp only [State.die, State.updDie, FMap.getD_set]

@[simp] theorem State.die_updDie_self (s : State) (d : Nat) (f : DieSt → DieSt) : (s.updDie d f).die d = f (s.die d) := by
  simp [State.die_updDie]

/-- What every step of a fold keeps of the state, the fold keeps. -/
theorem State.foldl_keeps {α : Type} {R : State → State → Prop} (refl : ∀ s, R s s) (trans : ∀ a b c, R a b → R b c → R a c)
    (f : State → α → State) (h : ∀ s a, R s (f s a)) (l : List α) (s : State) : R s (l.foldl f s) := by
  induction l generalizing s with
  | nil => exact refl s
  | cons a l ih => exact trans _ _ _ (h s a) (ih _)

/-- The clock, the cores, and the pre-emption requests of the dies stand as they were. -/
structure KeepsRequests (s s' : State) : Prop where
  clock : s'.clock = s.clock
  cores : s'.cores = s.cores
  prqCtx : ∀ d, (s'.die d).prqCtx = (s.die d).prqCtx
  prqDl : ∀ d, (s'.die d).prqDl = (s.die d).prqDl

/-- So do the teams: what a report of the machine leaves. -/
structure Reported (s s' : State) : Prop extends KeepsRequests s s' where
  teams : s'.teams = s.teams

theorem KeepsRequests.refl (s : State) : KeepsRequests s s := ⟨rfl, rfl, fun _ => rfl, fun _ => rfl⟩

theorem KeepsRequests.trans {a b c : State} (h : KeepsRequests a b) (k : KeepsRequests b c) : KeepsRequests a c :=
  ⟨k.clock.trans h.clock, k.cores.trans h.cores, fun d => (k.prqCtx d).trans (h.prqCtx d), fun d => (k.prqDl d).trans (h.prqDl d)⟩

theorem KeepsRequests.updTeam (s : State) (t : Nat) (f : Team → Team) : KeepsRequests s (s.updTeam t f) := ⟨rfl, rfl, fun _ => rfl, fun _ => rfl⟩

theorem Reported.refl (s : State) : Reported s s := ⟨.refl s, rfl⟩

theorem Reported.trans {a b c : State} (h : Reported a b) (k : Reported b c) : Reported a c :=
  ⟨h.toKeepsRequests.trans k.toKeepsRequests, k.teams.trans h.teams⟩

theorem Reported.updDie (s : State) (d : Nat) (f : DieSt → DieSt) (hc : ∀ x, (f x).prqCtx = x.prqCtx) (hl : ∀ x, (f x).prqDl = x.prqDl) :
    Reported s (s.updDie d f) := by
  refine ⟨⟨rfl, rfl, fun e => ?_, fun e => ?_⟩, rfl⟩ <;> rw [State.die_updDie] <;> split
  · next h => rw [hc, h]
  · rfl
  · next h => rw [hl, h]
  · rfl

/-- Memory, data errors, operations and the reports that are kept are no part of it. -/
theorem Reported.stored (s : State) (mem : Memory) (links : Links) (ops : FMap Op) (mmio : Mmio) : Reported s { s with mem, links, ops, mmio } :=
  ⟨⟨rfl, rfl, fun _ => rfl, fun _ => rfl⟩, rfl⟩

theorem Reported.ringEntry (s : State) (d kind vector ctx setid : Nat) : Reported s (s.ringEntry d kind vector ctx setid).1 := by
  unfold State.ringEntry
  dsimp only
  split <;> dsimp only
  · refine .updDie s d _ ?_ ?_ <;> exact fun _ => rfl
  · refine (Reported.stored s _ _ s.ops s.mmio).trans (.updDie _ d _ ?_ ?_) <;> exact fun _ => rfl

theorem Reported.interrupt (s : State) (d kind vector ctx setid : Nat) : Reported s (s.interrupt d kind vector ctx setid) := by
  have h := Reported.ringEntry s d kind vector ctx setid
  unfold State.interrupt
  split
  · next s1 he => rw [he] at h; exact h
  · next s1 str pa he =>
    rw [he] at h
    exact h.trans ((Reported.stored s1 s1.mem s1.links s1.ops _).trans (.ringEntry _ d 2 0 0 0))

theorem Reported.contextMc (s : State) (d str ctx pa : Nat) : Reported s (s.contextMc d str ctx pa) :=
  (Reported.stored s s.mem s.links s.ops _).trans (.interrupt _ d 2 0 ctx 0)

theorem Reported.recode (s : State) (ctx pa n op : Nat) : Reported s (s.recode ctx pa n op) := by
  refine State.foldl_keeps Reported.refl (fun _ _ _ => Reported.trans) _ (fun s i => ?_) _ s
  dsimp only
  split
  · exact .refl s
  · split
    · exact .stored s s.mem _ s.ops s.mmio
    · split
      · exact .stored s s.mem _ _ s.mmio
      · exact (Reported.stored s s.mem _ s.ops s.mmio).trans (.contextMc _ _ _ _ _)

theorem Reported.putArea (s : State) (tm : Team) (l : List (Nat × Nat × Nat)) : Reported s (s.putArea tm l) :=
  State.foldl_keeps Reported.refl (fun _ _ _ => Reported.trans) _
    (fun s _ => (Reported.stored s _ s.links s.ops s.mmio).trans (.recode _ _ _ _ _)) l s

theorem KeepsRequests.dropRegions (s : State) (t : Nat) : KeepsRequests s (s.dropRegions t) := by
  unfold State.dropRegions
  split
  · exact .refl s
  · refine State.foldl_keeps KeepsRequests.refl (fun _ _ _ => KeepsRequests.trans) _ (fun s tid => ?_) _ s
    split
    · exact ⟨rfl, rfl, fun _ => rfl, fun _ => rfl⟩
    · exact .refl s

theorem KeepsRequests.orphanChecks (s : State) (t : Nat) (tids : List Nat) : KeepsRequests s (s.orphanChecks t tids) := by
  unfold State.orphanChecks
  split
  · exact .refl s
  · exact (State.foldl_keeps Reported.refl (fun _ _ _ => Reported.trans) _ (fun s _ => .contextMc s _ _ _ _) _ s).toKeepsRequests.trans (.updTeam _ _ _)

theorem KeepsRequests.dropFutures (s : State) (t : Nat) : KeepsRequests s (s.dropFutures t) := ⟨rfl, rfl, fun _ => rfl, fun _ => rfl⟩

theorem KeepsRequests.startDiscard (s : State) (t : Nat) : KeepsRequests s (s.startDiscard t) := by
  unfold State.startDiscard
  split
  · exact .refl s
  · exact (((KeepsRequests.dropRegions s t).trans (.orphanChecks _ _ _)).trans (.dropFutures _ t)).trans (.updTeam _ _ _)

-- Pre-emption (R348, R382).

/-- Cores changed one after another, each step one core by a change that a second time changes nothing more: the named cores are changed, the other cores
and the rest of the machine stand. -/
theorem State.cores_foldl {at_ : Nat → Nat} {f : CoreSt → CoreSt} {step : State → Nat → State} (hf : ∀ k, f (f k) = f k)
    (hrest : ∀ s i, { step s i with cores := s.cores } = s)
    (hcore : ∀ s i core, (step s i).core core = if core = at_ i then f (s.core core) else s.core core) (l : List Nat) (s : State) :
    { l.foldl step s with cores := s.cores } = s ∧
      ∀ core, (l.foldl step s).core core = if ∃ i ∈ l, core = at_ i then f (s.core core) else s.core core := by
  induction l generalizing s with
  | nil => exact ⟨rfl, fun core => by simp⟩
  | cons i l ih =>
    obtain ⟨h1, h2⟩ := ih (step s i)
    refine ⟨(congrArg (fun x : State => { x with cores := s.cores }) h1).trans (hrest s i), fun core => ?_⟩
    rw [List.foldl_cons, h2, hcore]
    by_cases hi : core = at_ i
    · simp [hi, hf]
    · simp [hi]

theorem State.core_updCore_eq (s : State) (c k : Nat) (f : CoreSt → CoreSt) : (s.updCore c f).core k = if k = c then f (s.core k) else s.core k := by
  by_cases h : k = c
  · subst h; simp
  · rw [if_neg h, State.core_updCore_ne s f h]

/-- The cores that the request of a die names, held (R348). -/
def State.holdNamed (s : State) (die : Nat) : State :=
  ((List.range 192).filter (fun i => (s.die die).prqMask.getLsbD i)).foldl (fun s i => s.updCore (die * 192 + i) (fun c => { c with held := true })) s

theorem State.holdNamed_rest (s : State) (die : Nat) : { s.holdNamed die with cores := s.cores } = s :=
  (State.cores_foldl (at_ := fun i => die * 192 + i) (f := fun c => { c with held := true })
    (step := fun s i => s.updCore (die * 192 + i) (fun c => { c with held := true })) (fun _ => rfl) (fun _ _ => rfl)
    (fun s i core => State.core_updCore_eq s (die * 192 + i) core (fun c => { c with held := true })) _ s).1

theorem State.holdNamed_held (s : State) {die i : Nat} (hi : i < 192) (hm : (s.die die).prqMask.getLsbD i = true) :
    ((s.holdNamed die).core (die * 192 + i)).held = true := by
  have h := (State.cores_foldl (at_ := fun i => die * 192 + i) (f := fun c => { c with held := true })
    (step := fun s i => s.updCore (die * 192 + i) (fun c => { c with held := true })) (fun _ => rfl) (fun _ _ => rfl)
    (fun s i core => State.core_updCore_eq s (die * 192 + i) core (fun c => { c with held := true }))
    ((List.range 192).filter (fun i => (s.die die).prqMask.getLsbD i)) s).2 (die * 192 + i)
  rw [if_pos ⟨i, List.mem_filter.mpr ⟨List.mem_range.mpr hi, hm⟩, rfl⟩] at h
  exact congrArg CoreSt.held h

/-- The cores of a die are freed: freeing one that is not held changes nothing of it. -/
theorem State.freeCores_spec (s : State) (die : Nat) : { s.freeCores die with cores := s.cores } = s ∧
    ∀ core, (s.freeCores die).core core = if ∃ i ∈ List.range 192, core = die * 192 + i then { s.core core with held := false } else s.core core := by
  refine State.cores_foldl (at_ := fun i => die * 192 + i) (f := fun c => { c with held := false }) (fun _ => rfl) (fun s i => ?_) (fun s i core => ?_)
    (List.range 192) s
  · split <;> rfl
  · split
    · exact State.core_updCore_eq s (die * 192 + i) core (fun c => { c with held := false })
    · next hh =>
      split
      · next hi =>
        rw [← hi] at hh
        rw [← Bool.eq_false_of_not_eq_true hh]
      · rfl

/-- The teams that a pre-emption of a die is for. -/
def State.preempted (s : State) (die : Nat) : List (Nat × Team) :=
  s.teams.filter (fun e => e.2.ctx == (s.die die).prqCtx.toNat && e.2.core / 192 == die &&
    ((List.range 192).filter (fun i => (s.die die).prqMask.getLsbD i)).contains (e.2.core % 192) && e.2.life != .saved)

/-- A request that is taken up: the named cores are held, the outcomes of the teams are fixed, which keeps requests and cores, and the die is busy. -/
theorem State.preempt_eq {s : State} {die : Nat} (hbusy : (s.die die).busy = false) : ∃ s1, KeepsRequests (s.holdNamed die) s1 ∧
    s.preempt die = s1.updDie die (fun di => { di with
      busy := true, goAt := s1.clock, reqCtx := di.prqCtx.toNat, reqDl := di.prqDl.toNat, pend := (s.preempted die).map Prod.fst }) := by
  unfold State.preempt
  simp only [hbusy, Bool.false_eq_true, if_false]
  refine ⟨_, ?_, rfl⟩
  refine State.foldl_keeps KeepsRequests.refl (fun _ _ _ => KeepsRequests.trans) _ (fun s e => ?_) _ (s.holdNamed die)
  split
  · exact .refl s
  · split
    · exact .refl s
    · exact .startDiscard s _
    · exact .updTeam s _ _

theorem State.mem_preempted {s : State} {die t : Nat} {tm : Team} (h : (t, tm) ∈ s.teams) (hctx : tm.ctx = (s.die die).prqCtx.toNat)
    (hdie : tm.core / 192 = die) (hmask : (s.die die).prqMask.getLsbD (tm.core % 192) = true) (hlife : tm.life ≠ .saved) :
    (t, tm) ∈ s.preempted die := by
  refine List.mem_filter.mpr ⟨h, ?_⟩
  simp [hctx, hdie, hmask, hlife, Nat.mod_lt]

/-- A die that is not busy takes up its request: the named cores are held, and every team of the context on them is pending (R348). -/
theorem preemptionRequest_takes {s : State} {die : Nat} (hbusy : (s.die die).busy = false) :
    ∃ s', exec (.preemptionRequest die) s = .next s' ∧ (s'.die die).busy = true ∧ (s'.die die).goAt = s.clock ∧
      (s'.die die).reqCtx = (s.die die).prqCtx.toNat ∧ (s'.die die).reqDl = (s.die die).prqDl.toNat ∧
      (∀ i, i < 192 → (s.die die).prqMask.getLsbD i = true → (s'.core (die * 192 + i)).held = true) ∧
      ∀ t tm, (t, tm) ∈ s.teams → tm.ctx = (s.die die).prqCtx.toNat → tm.core / 192 = die → (s.die die).prqMask.getLsbD (tm.core % 192) = true →
        tm.life ≠ .saved → t ∈ (s'.die die).pend := by
  obtain ⟨s1, hkeep, hs'⟩ := State.preempt_eq hbusy
  have hclock := congrArg State.clock (s.holdNamed_rest die)
  have hdie := congrArg (fun x : State => x.die die) (s.holdNamed_rest die)
  replace hdie : (s.holdNamed die).die die = s.die die := hdie
  refine ⟨_, congrArg Host.Outcome.next hs', ?_⟩
  simp only [State.die_updDie_self]
  refine ⟨trivial, hkeep.clock.trans hclock, by rw [hkeep.prqCtx, hdie], by rw [hkeep.prqDl, hdie], fun i hi hm => ?_,
    fun t tm h hctx hcore hmask hlife => ?_⟩
  · refine Eq.trans ?_ (State.holdNamed_held s hi hm)
    exact congrArg (fun m : FMap CoreSt => (FMap.getD m (die * 192 + i) {}).held) hkeep.cores
  · exact List.mem_map.mpr ⟨_, State.mem_preempted h hctx hcore hmask hlife, rfl⟩

theorem preemptionRequest_busy {s : State} {die : Nat} (hbusy : (s.die die).busy = true) : exec (.preemptionRequest die) s = .next s := by
  show execPreemptionRequest die s = _
  simp [execPreemptionRequest, State.preempt, hbusy]

theorem preemptionComplete_completes {s : State} {die : Nat} (hbusy : (s.die die).busy = true) (hpend : (s.die die).pend = []) :
    exec (.preemptionComplete die) s = .next (((s.freeCores die).updDie die (fun d => { d with busy := false })).interrupt
      die 3 0 (s.die die).reqCtx 0) := by
  show execPreemptionComplete die s = _
  simp only [execPreemptionComplete, hbusy, hpend, List.isEmpty_nil, Bool.not_true, Bool.or_self, Bool.false_eq_true, if_false]

theorem prqLateClear_clears (s : State) (die : Nat) :
    ∃ s', exec (.prqLateClear die) s = .next s' ∧ (s'.die die).late = false ∧ ∀ d, d ≠ die → s'.die d = s.die d :=
  ⟨_, rfl, by rw [State.die_updDie_self], fun d hd => by rw [State.die_updDie, if_neg hd]⟩

theorem State.freeCores_frees (s : State) {die i : Nat} (hi : i < 192) : ((s.freeCores die).core (die * 192 + i)).held = false ∧
    { (s.freeCores die).core (die * 192 + i) with held := (s.core (die * 192 + i)).held } = s.core (die * 192 + i) := by
  rw [(State.freeCores_spec s die).2, if_pos ⟨i, List.mem_range.mpr hi, rfl⟩]
  exact ⟨rfl, rfl⟩

theorem State.freeCores_others (s : State) {die core : Nat} (h : ∀ i, i < 192 → core ≠ die * 192 + i) : (s.freeCores die).core core = s.core core := by
  rw [(State.freeCores_spec s die).2, if_neg]
  rintro ⟨i, hi, hc⟩
  exact h i (List.mem_range.mp hi) hc

-- A new team of a grid (R33).

end Sys2Proof.Machine

namespace Sys2Proof.Machine

open Sys2Proof Sys2Proof.Said

-- A new team of a grid (R33).

/-- A team with another place: slot, accumulator rows, area, and whether and since when it is active. -/
def SamePlaced (a b : Team) : Prop :=
  { b with slot := a.slot, accBase := a.accBase, area := a.area, active := a.active, regBase := a.regBase, activeAt := a.activeAt, rotated := a.rotated,
           readySince := a.readySince } = a

theorem SamePlaced.core {a b : Team} (h : SamePlaced a b) : b.core = a.core := by
  have hc := congrArg Team.core h
  exact hc

theorem SamePlaced.stored {a b : Team} (h : SamePlaced a b) : b.stored = a.stored := by
  have hs := congrArg Team.stored h
  exact hs

/-- A team stands on the machine but for its place, and no other core than its own has changed. -/
structure PlacedOn (s s' : State) (t : Nat) (tm : Team) : Prop where
  team : ∃ tm', s'.team? t = some tm' ∧ SamePlaced tm tm'
  cores : ∀ core, core ≠ tm.core → s'.core core = s.core core

/-- The core of the team changes in what it holds itself. -/
theorem PlacedOn.updCore {s s' : State} {t : Nat} {tm : Team} (h : PlacedOn s s' t tm) (f : CoreSt → CoreSt) : PlacedOn s (s'.updCore tm.core f) t tm :=
  ⟨h.team, fun core hc => (State.core_updCore_ne s' f hc).trans (h.cores core hc)⟩

/-- It becomes active: a new team has no state in its area. -/
theorem PlacedOn.activate {s s' : State} {t base : Nat} {tm : Team} {rotated : Bool} (h : PlacedOn s s' t tm) (hnew : tm.stored = 0) :
    PlacedOn s (s'.activate t base rotated) t tm := by
  obtain ⟨⟨tm', ht', hsame⟩, hcores⟩ := h
  have hstored : tm'.stored = 0 := hsame.stored.trans hnew
  have hcore : tm'.core = tm.core := hsame.core
  let f : Team → Team := fun tm => { tm with active := true, regBase := base, activeAt := s'.clock, rotated, readySince := none }
  have hplaced : PlacedOn s (s'.updTeam t f) t tm := by
    refine ⟨⟨f tm', ?_, hsame⟩, hcores⟩
    rw [State.team?_updTeam_self, ht']
    rfl
  unfold State.activate
  simp only [ht', hstored, if_true]
  have harea := Reported.putArea ((s'.updTeam t f).updCore tm'.core (fun c => c.take 0 base tm'.tr.regBytes)) tm' [(8, 4, base)]
  have hup := hplaced.updCore (fun c => c.take 0 base tm'.tr.regBytes)
  rw [← hcore] at hup
  refine ⟨?_, fun core hc => ?_⟩
  · obtain ⟨tm2, h2, hs2⟩ := hup.team
    exact ⟨tm2, (congrArg (fun m => FMap.get? m t) harea.teams).trans h2, hs2⟩
  · exact (congrArg (fun m : FMap CoreSt => FMap.getD m core {}) harea.cores).trans (hup.cores core hc)

theorem PlacedOn.acquire {s s' : State} {t : Nat} {tm : Team} (h : PlacedOn s s' t tm) : PlacedOn s (s'.acquire tm.core) t tm := by
  unfold State.acquire
  exact h.updCore _

theorem PlacedOn.noteFull {s s' : State} {t : Nat} {tm : Team} (h : PlacedOn s s' t tm) : PlacedOn s (s'.noteFull tm.core) t tm := by
  unfold State.noteFull
  split
  · exact h.updCore _
  · exact h

/-- A new team as its placement begins it: live, under the context's system registers, with the promotion interval of sr.promote. -/
def Team.begun (tm : Team) (s : State) (core : Nat) : Team :=
  { tm with core, life := .live, proceeds := false, eff := s.ctx tm.ctx, ival := (s.ctx tm.ctx).sr.promote.toNat % 128, placedAt := s.clock }

theorem State.putTeam_new {s s' : State} {t core : Nat} {tm : Team} (h : s.putTeam t tm core true = some s') (hnew : tm.stored = 0) :
    PlacedOn s s' t (tm.begun s core) := by
  unfold State.putTeam at h
  split at h
  case h_2 => cases h
  case h_1 slot accBase area _ _ _ =>
    let tm1 : Team := { tm.begun s core with slot, accBase, area, active := false, readySince := some s.clock }
    let s1 : State := s.updDie (core / 192) (fun d => { d with areas := insertSorted area d.areas })
    have hset : PlacedOn s ({ s1 with teams := FMap.set s1.teams t tm1 } : State) t (tm.begun s core) :=
      ⟨⟨tm1, FMap.get?_set_self _ _ _, rfl⟩, fun _ _ => rfl⟩
    have hclear : PlacedOn s (({ s1 with teams := FMap.set s1.teams t tm1 } : State).clearAcc tm1) t (tm.begun s core) := hset.updCore _
    dsimp only at h
    split at h
    · obtain rfl := Option.some.inj h
      exact hclear.activate hnew
    · obtain rfl := Option.some.inj h
      exact hclear.noteFull

theorem freshThreads_thread {tm : Team} {tr : TeamRec} (h : tm.threads = freshThreads tr) {tid : Nat} (hl : tid < tr.threads) :
    tm.thread tid = { pc := tr.entry, npc := tr.entry } := by
  simp [Team.thread, h, freshThreads, hl]

/-- The team that a launch places at a curve index, before its place is known. -/
def Launch.newTeam (l : Machine.Launch) (lid core q : Nat) : Team :=
  { ctx := l.ctx, core, slot := 0, launch := some lid, grid := l.coord q, prio := l.prio, tr := l.tr, threads := freshThreads l.tr }

theorem State.putGrid_placed {s s' : State} {id cl q : Nat} {l : Machine.Launch} (h : s.putGrid id l cl q = some s') :
    ∃ core, s.coreFor (clusterCores cl) l.ctx false l.tr = some core ∧
      PlacedOn { s with nextId := s.nextId + 1 } s' s.nextId ((l.newTeam id core q).begun { s with nextId := s.nextId + 1 } core) := by
  unfold State.putGrid at h
  split at h
  case h_1 => cases h
  case h_2 core hcore =>
    obtain ⟨s1, hput, rfl⟩ := Option.map_eq_some_iff.mp h
    exact ⟨core, hcore, (State.putTeam_new hput rfl).acquire⟩

theorem putGrid_spec {s s' : State} {id cl q : Nat} {l : Machine.Launch} (h : s.putGrid id l cl q = some s') :
    ∃ core tm, s.coreFor (clusterCores cl) l.ctx false l.tr = some core ∧
    s'.team? s.nextId = some tm ∧ tm.core = core ∧ tm.ctx = l.ctx ∧ tm.launch = some id ∧ tm.grid = l.coord q ∧ tm.tr = l.tr ∧ tm.life = .live ∧
    (∀ n, n < 64 → tm.kreg n = 0) ∧ tm.kf = 0 ∧ tm.kexc = 0 ∧ (∀ n, FMap.getD tm.cv n (0, 0) = (0, 0)) ∧ (∀ n, FMap.getD tm.aw n (0, 0) = (0, 0)) ∧
    (∀ n, FMap.getD tm.cnt n 0 = 0) ∧ tm.ival = (s.ctx l.ctx).sr.promote.toNat % 128 ∧ tm.wbs = [] ∧ tm.threads.length = l.tr.threads ∧
    (∀ core', core' ≠ core → s'.core core' = s.core core') ∧
    ∀ tid, tid < l.tr.threads → let th := tm.thread tid
      th.pc = l.tr.entry ∧ th.npc = l.tr.entry ∧ th.exited = false ∧ th.p = 0 ∧ th.xlo = 0 ∧ th.xhi = 0 ∧ th.epc = 0 ∧ th.ecause = 0 ∧ th.eva = 0 ∧
      th.hm = false ∧ th.rr = false ∧ ∀ n, tm.reg tid (.v n) = 0 := by
  obtain ⟨core, hcore, ⟨tm, ht, hsame⟩, hcores⟩ := State.putGrid_placed h
  have hthreads : tm.threads = freshThreads l.tr := congrArg Team.threads hsame
  have hzero : ∀ {α : Type} (m : FMap α), m = [] → ∀ n (d : α), FMap.getD m n d = d := fun m hm n d => by rw [hm]; rfl
  refine ⟨core, tm, hcore, ht, congrArg Team.core hsame, congrArg Team.ctx hsame, congrArg Team.launch hsame, congrArg Team.grid hsame,
    congrArg Team.tr hsame, congrArg Team.life hsame, fun n _ => hzero tm.k (congrArg Team.k hsame) n 0, congrArg Team.kf hsame, congrArg Team.kexc hsame,
    fun n => hzero tm.cv (congrArg Team.cv hsame) n _, fun n => hzero tm.aw (congrArg Team.aw hsame) n _, fun n => hzero tm.cnt (congrArg Team.cnt hsame) n 0,
    congrArg Team.ival hsame, congrArg Team.wbs hsame, by simp [hthreads, freshThreads], hcores, fun tid hl => ?_⟩
  have hth := freshThreads_thread hthreads hl
  have hreg : ∀ n, tm.reg tid (.v n) = 0 := fun n => by
    unfold Team.reg
    rw [hth]
    rfl
  dsimp only
  rw [hth]
  exact ⟨rfl, rfl, rfl, rfl, rfl, rfl, rfl, rfl, rfl, rfl, rfl, hreg⟩

/-- Settles O45: one lemma for each event, and one for what it does where it has two outcomes. -/
theorem teamEvents : Obligations.TeamEvents := by
  refine ⟨fun s die id tm s1 hl ht hid hdie hlife hv hp => teamPlace_saved hl ht hid hdie hlife hv hp,
    fun s die id l s1 ht hl hid hdie hopen hv hp => teamPlace_grid ht hl hid hdie hopen hv hp,
    fun s s' id cl q l h => putGrid_spec h,
    fun s core t base tm hlong hfit => teamActivate_longest hlong hfit,
    fun s core t tm hneed hnone hold => teamPark_eldest hneed hnone hold,
    fun s core t tm hheld hlong hshare base hfit => rotation_fits hheld hlong hshare hfit,
    fun s t tm ht => ⟨teamRetire_retires ht, fun hlife hcnt hlat happ => ?_, teamEnd_applying ht, fun l x hl hx => State.launches_tally hl hx,
      fun hlife hlive hmay => ⟨teamSave_waits ht hlife hlive hmay, fun hcnt hrel hreg => ?_⟩⟩,
    fun s lid l hl => ⟨State.finishLaunch_open hl, State.finishLaunch_last hl⟩,
    fun s die => ⟨preemptionRequest_busy, preemptionRequest_takes, preemptionComplete_completes, fun i hi => State.freeCores_frees s hi,
      fun core h => State.freeCores_others s h, (State.freeCores_spec s die).1, prqLateClear_clears s die⟩⟩
  case refine_1 =>
    have hdiscard := discardRequeue_discards ht hlife hcnt hlat happ
    constructor
    · intro hnone
      rwa [hnone] at hdiscard
    · intro l hsome
      rwa [hsome] at hdiscard
  case refine_2 =>
    have hsave := teamSave_saves ht hlife hlive hmay hcnt hrel hreg
    constructor
    · intro hnone
      rwa [hnone] at hsave
    · intro str pa hsome
      rwa [hsome] at hsave

end Sys2Proof.Machine

namespace Sys2Proof.Machine

open Sys2Proof Sys2Proof.Said

-- The i8 product (R67).

/-- A table built up key by key: a key that is not among them keeps its entry. -/
theorem FMap.getD_foldl_set_out {α β : Type} (l : List β) (key : β → Nat) (val : β → α → α) (d : α) (m : FMap α) (k : Nat) (h : k ∉ l.map key) :
    (l.foldl (fun m p => FMap.set m (key p) (val p (m.getD (key p) d))) m).getD k d = m.getD k d := by
  induction l generalizing m with
  | nil => rfl
  | cons p l ih =>
    obtain ⟨hp, hl⟩ := not_or.mp (mt List.mem_cons.mpr h)
    exact (ih _ hl).trans (FMap.getD_set_ne _ _ _ hp)

/-- Where no key comes twice, each one's entry is what it held, changed once. -/
theorem FMap.getD_foldl_set_in {α β : Type} (l : List β) (key : β → Nat) (val : β → α → α) (d : α) (m : FMap α) (hn : (l.map key).Nodup)
    (p : β) (hp : p ∈ l) :
    (l.foldl (fun m p => FMap.set m (key p) (val p (m.getD (key p) d))) m).getD (key p) d = val p (m.getD (key p) d) := by
  induction l generalizing m with
  | nil => cases hp
  | cons q l ih =>
    obtain ⟨hq, hl⟩ := List.nodup_cons.mp hn
    rw [List.foldl_cons]
    rcases List.mem_cons.mp hp with rfl | hp
    · rw [FMap.getD_foldl_set_out l key val d _ _ hq, FMap.getD_set_self]
    · rw [ih _ hl hp, FMap.getD_set_ne _ _ _ fun (e : key p = key q) => hq (e ▸ List.mem_map_of_mem hp)]

theorem Num.toInt_fin_zero (n : Bool) (m : Nat) : (Num.fin n m 0).toInt = if n then -(m : Int) else m := by
  cases n <;> simp [Num.toInt]

/-- Exact values of integers multiply as the integers do. -/
theorem Num.toInt_mul_ofInt (x y : Int) (z : Num) : ((mulExact (Num.ofInt x) (Num.ofInt y)).getD z).toInt = x * y := by
  show (Num.fin (decide (x < 0) != decide (y < 0)) (x.natAbs * y.natAbs) 0).toInt = x * y
  rw [Num.toInt_fin_zero, Nat.cast_mul]
  rcases lt_or_ge x 0 with hx | hx <;> rcases lt_or_ge y 0 with hy | hy <;>
    simp [hx, hy, not_lt.mpr, abs_of_neg, abs_of_nonneg]

theorem sext_eq_toInt (n x : Nat) (hn : 0 < n) : sext n x = (BitVec.ofNat n x).toInt := by
  obtain ⟨k, rfl⟩ : ∃ k, n = k + 1 := ⟨n - 1, by omega⟩
  have hhalf : x % 2 ^ (k + 1) < 2 ^ k ↔ 2 * (x % 2 ^ (k + 1)) < 2 ^ (k + 1) := by rw [pow_succ']; omega
  simp [sext, BitVec.toInt_eq_toNat_cond, hhalf]

/-- An i8 element of a slot, stored untransposed. -/
theorem OSlot.elem_i8 {s : OSlot} (h : s.fmt = 6) (r c : Nat) : s.elem r c = Num.ofInt (i8At false s r c) := by
  simp [OSlot.elem, slotNum, h, sext_eq_toInt, i8At]

/-- An i8 element of the operand that a slot holds. -/
theorem OSlot.at_i8 {s : OSlot} (h : s.fmt = 6) (i j : Nat) : s.at i j = Num.ofInt (i8At s.tr s i j) := by
  unfold OSlot.at
  cases ht : s.tr
  · simp [OSlot.elem_i8 h]
  · simp [OSlot.elem_i8 h, i8At]

/-- The slot that holds the rows of B for row i of A (R291, R294). -/
def slotFor (bs : List OSlot) (i : Nat) : OSlot := (bs[if bs.length = 8 then i / 8 else 0]?).getD {}

theorem slotFor_mem {bs : List OSlot} (h : bs.length = 1 ∨ bs.length = 8) {i : Nat} (hi : i < 64) : slotFor bs i ∈ bs := by
  have hlt : (if bs.length = 8 then i / 8 else 0) < bs.length := by split <;> omega
  rw [slotFor, List.getElem?_eq_getElem hlt]
  exact List.getElem_mem hlt

theorem slotFor_eq (bs : List OSlot) (i : Nat) : (if bs.length = 8 then (bs[i / 8]?).getD {} else bs.headD {}) = slotFor bs i := by
  unfold slotFor
  split
  · rfl
  · cases bs <;> rfl

/-- The sum of the products of row i of A and column j of B, as integers. -/
def productSum (a : OSlot) (bs : List OSlot) (m : Option OSlot) (i j : Nat) : Int := ((matProducts a bs m i j).map Num.toInt).sum

theorem foldl_add_toInt (l : List Num) (t : Int) : l.foldl (fun (t : Int) x => t + x.toInt) t = t + (l.map Num.toInt).sum := by
  induction l generalizing t with
  | nil => simp
  | cons x l ih => simp [ih, add_assoc]

theorem productSum_dense {a : OSlot} {bs : List OSlot} (ha : a.fmt = 6) {i : Nat} (hb : (slotFor bs i).fmt = 6) (j : Nat) :
    productSum a bs none i j = ((List.range 64).map (fun kk => i8At a.tr a i kk * i8At (slotFor bs i).tr (slotFor bs i) kk j)).sum := by
  simp only [productSum, matProducts, slotFor_eq, List.map_map, Function.comp_def, OSlot.at_i8 ha, OSlot.at_i8 hb, Num.toInt_mul_ofInt]

/-- Two places of a group of four. -/
theorem sum_two_of_four {x y : Nat} (hxy : x < y) (hy : y < 4) (p q : Nat → Int) :
    ((List.range 4).map (fun n => if n = x then p n else if n = y then q n else 0)).sum = p x + q y := by
  interval_cases y <;> interval_cases x <;> simp [List.range_succ]

theorem bits_two (w g : Nat) : bits w (g + 1) g = w / 2 ^ g % 4 := by
  simp [bits, Nat.shiftRight_eq_div_pow, show g + 1 + 1 - g = 2 by omega]

/-- The products of a group of four of B's rows with a metadata slot: the two that it names (R293). -/
theorem productSum_sparse {a : OSlot} {bs : List OSlot} (ha : a.fmt = 6) {i : Nat} (hb : (slotFor bs i).fmt = 6) (m : OSlot) (j : Nat) :
    productSum a bs (some m) i j = ((List.range 16).map (fun g =>
      let x := m.num (8 * i) 8 / 2 ^ (4 * g) % 4
      let y := m.num (8 * i) 8 / 2 ^ (4 * g + 2) % 4
      if y ≤ x then 0
      else i8At false a i (2 * g) * i8At (slotFor bs i).tr (slotFor bs i) (4 * g + x) j +
        i8At false a i (2 * g + 1) * i8At (slotFor bs i).tr (slotFor bs i) (4 * g + y) j)).sum := by
  have hzero : (Num.fin false 0 0).toInt = 0 := rfl
  simp only [productSum, matProducts, slotFor_eq, List.flatMap_def, List.map_flatten, List.sum_flatten, List.map_map, Function.comp_def, bits_two]
  congr 1
  refine List.map_congr_left fun g _ => ?_
  simp only [apply_ite Num.toInt, OSlot.elem_i8 ha, OSlot.at_i8 hb, Num.toInt_mul_ofInt, hzero]
  split
  · simp
  · exact sum_two_of_four (by omega) (Nat.mod_lt _ (by decide)) _ _

/-- The elements of a unit, row by row: each one's key, row and column. -/
def unitElems (unit : Nat) : List (Nat × Nat × Nat) := (List.range 4096).map (fun n => (unit * 4096 + n, n / 64, n % 64))

theorem unitElems_nodup (unit : Nat) : ((unitElems unit).map Prod.fst).Nodup := by
  rw [unitElems, List.map_map]
  exact List.nodup_range.map fun _ _ h => Nat.add_left_cancel h

theorem mem_unitElems (unit : Nat) {i j : Nat} (hi : i < 64) (hj : j < 64) : ((unit * 64 + i) * 64 + j, i, j) ∈ unitElems unit :=
  List.mem_map.mpr ⟨i * 64 + j, List.mem_range.mpr (by omega), by simp only [Prod.mk.injEq]; omega⟩

theorem key_of_unitElems {unit key : Nat} (h : key ∈ (unitElems unit).map Prod.fst) : key / 4096 = unit := by
  simp only [unitElems, List.map_map, List.mem_map, List.mem_range, Function.comp_apply] at h
  omega

/-- An element with its products added, modulo 2^32 (R67). -/
def withProducts (a : OSlot) (bs : List OSlot) (m : Option OSlot) (p : Nat × Nat × Nat) (x : Word) : Word :=
  BitVec.ofInt 32 (x.toNat + productSum a bs m p.2.1 p.2.2)

/-- A unit's elements with its products added, one after another. -/
def addProducts (unit : Nat) (a : OSlot) (bs : List OSlot) (m : Option OSlot) (acc : FMap Word) : FMap Word :=
  (unitElems unit).foldl (fun acc p => FMap.set acc p.1 (withProducts a bs m p (FMap.getD acc p.1 0))) acc

/-- An i8 product on a unit whose count is 0 adds to its elements, and does nothing else. -/
theorem CoreSt.matmul_i8 {k : CoreSt} {unit : Nat} {a : OSlot} (ha : a.fmt = 6) (hc : FMap.getD k.cnt unit 0 = 0) (ival : Nat) (fin : Bool)
    (bs : List OSlot) (m : Option OSlot) : k.matmul unit ival false fin a bs m = ({ k with acc := addProducts unit a bs m k.acc }, 0) := by
  simp only [CoreSt.matmul, CoreSt.settle, ha, hc, Bool.false_eq_true, if_true, if_false, foldl_add_toInt, zero_add]
  rfl

theorem getD_addProducts_in {unit i j : Nat} (hi : i < 64) (hj : j < 64) (a : OSlot) (bs : List OSlot) (m : Option OSlot) (acc : FMap Word) :
    (addProducts unit a bs m acc).getD ((unit * 64 + i) * 64 + j) 0 =
      BitVec.ofInt 32 ((acc.getD ((unit * 64 + i) * 64 + j) 0).toNat + productSum a bs m i j) := by
  have h := FMap.getD_foldl_set_in (unitElems unit) Prod.fst (withProducts a bs m) 0 acc (unitElems_nodup unit) _ (mem_unitElems unit hi hj)
  rwa [← addProducts] at h

theorem getD_addProducts_out {unit key : Nat} (h : key / 4096 ≠ unit) (a : OSlot) (bs : List OSlot) (m : Option OSlot) (acc : FMap Word) :
    (addProducts unit a bs m acc).getD key 0 = acc.getD key 0 := by
  have hout := FMap.getD_foldl_set_out (unitElems unit) Prod.fst (withProducts a bs m) 0 acc key fun hk => h (key_of_unitElems hk)
  rwa [← addProducts] at hout

/-- Settles O31: the fold over the unit's elements changes each of them once, by the sum of its products. -/
theorem matrixProduct : Obligations.MatrixProduct := by
  intro k unit ival fin a bs m ha hlen hbs hc
  simp only [CoreSt.matmul_i8 ha hc]
  refine ⟨fun i j hi hj => ?_, fun row e hrow he => ?_, trivial, trivial⟩
  · have hb := hbs _ (slotFor_mem hlen hi)
    rw [CoreSt.elem, getD_addProducts_in hi hj]
    cases m with
    | none => rw [productSum_dense ha hb, slotFor, CoreSt.elem]
    | some m => rw [productSum_sparse ha hb, slotFor, CoreSt.elem]
  · rw [CoreSt.elem, getD_addProducts_out (by omega), CoreSt.elem]

end Sys2Proof.Machine

namespace Sys2Proof.Machine

open Sys2Proof Sys2Proof.Said

-- The events of results, fences, scratch pages and waiters (R87, R127, R158, R251).

theorem Team.kexc_setOwed (tm : Team) (tid : Nat) (r : Reg) (x : DWord) : (tm.setOwed tid r x).kexc = tm.kexc := by
  unfold Team.setOwed
  dsimp only
  split
  · exact Team.kexc_setReg _ _ _ _
  · split <;> exact Team.kexc_setReg _ _ _ _

/-- An owed result brings its flags, whether or not its register is still there to be written (R72). -/
theorem Team.kexc_writeWb (tm : Team) (now : Nat) {w : Wb} {x : DWord} (hv : w.val = some x) : (tm.writeWb now w).kexc = tm.kexc ||| w.fl := by
  unfold Team.writeWb
  rw [hv]
  dsimp only
  split
  · rfl
  · exact Team.kexc_setOwed _ _ _ _

/-- What a run end has left to a thread's readers is no part of its registers. -/
theorem Team.reg_updThread_soft (tm : Team) (tid : Nat) (f : Thread → List (Reg × List DWord)) (i : Nat) (r : Reg) :
    (tm.updThread tid (fun th => { th with soft := f th })).reg i r = tm.reg i r :=
  Team.foldUpd_reg [tid] (fun _ th => { th with soft := f th }) tm i r fun _ th => by cases r <;> rfl

/-- A register holds what an owed result has written to it. -/
theorem Team.reg_setOwed (tm : Team) (tid : Nat) (r : Reg) (x : DWord) (ho : r.ok = true) (h : r.isTeam = false → tid < tm.threads.length) :
    (tm.setOwed tid r x).reg tid r = r.clip x := by
  have hreg : ∀ gs, (({ tm with groups := gs } : Team).setReg tid r x).reg tid r = r.clip x :=
    fun gs => Team.reg_setReg _ _ _ _ _ ho fun hr => ⟨rfl, h hr⟩
  unfold Team.setOwed
  dsimp only
  split
  · exact hreg _
  · split
    · exact (Team.reg_congr rfl rfl rfl tid r).trans (hreg _)
    · exact (Team.reg_updThread_soft _ tid _ tid r).trans (hreg _)

/-- Only t0-t7 and L go with their run. -/
theorem Team.stale_of_not_isT (tm : Team) {w : Wb} (h : w.reg.isT = false) : tm.stale w = false := by
  unfold Team.stale Team.dead
  cases hr : w.reg <;> simp_all [Reg.isT]

theorem Team.reg_writeWb (tm : Team) (now : Nat) {w : Wb} {x : DWord} (hv : w.val = some x) (hT : w.reg.isT = false) (ho : w.reg.ok = true)
    (h : w.reg.isTeam = false → w.tid.getD 0 < tm.threads.length) : (tm.writeWb now w).reg (w.tid.getD 0) w.reg = w.reg.clip x := by
  unfold Team.writeWb
  rw [hv]
  simp only [Team.stale_of_not_isT _ hT, Bool.false_eq_true, if_false]
  exact Team.reg_setOwed _ _ _ _ ho h

theorem goodValue_eq_clip {r : Reg} {x y : DWord} (h : goodValue r x y) : y = r.clip x := by cases r <;> exact h

theorem resultWriteback_writes {s : State} {t i : Nat} {tm : Team} {w : Wb} {x : DWord} (ht : s.team? t = some tm) (hw : tm.wbs[i]? = some w)
    (hv : w.val = some x) (hst : tm.stored = 0) (hfirst : ∀ j o, j < i → tm.wbs[j]? = some o → o.reg = w.reg → o.tid ≠ w.tid) :
    exec (.resultWriteback t i) s =
      .next ((if w.obs = true ∧ tm.life ≠ .saved then s.acquire tm.core else s).updTeam t (fun tm => tm.writeWb s.clock w)) := by
  have hnone : (tm.wbs.take i).any (fun o => o.reg == w.reg && o.tid == w.tid) = false := by
    refine List.any_eq_false.mpr fun o ho => ?_
    obtain ⟨j, hj, hjo⟩ := List.mem_take_iff_getElem.mp ho
    have := hfirst j o (by omega) (by rw [List.getElem?_eq_getElem (by omega), hjo])
    simpa using this
  show execResultWriteback t i s = _
  simp only [execResultWriteback, ht, hw, hv, hnone, hst, Bool.false_eq_true, if_false, if_true, Bool.and_eq_true, bne_iff_ne]
  split <;> rfl

theorem fenceComplete_completes {s : State} {t tid : Nat} {tm : Team} {f : Fence} (ht : s.team? t = some tm)
    (hf : (tm.thread tid).fences.find? (fun f => !f.done) = some f) (hops : ∀ id ∈ f.ops, ∀ o, s.op? id = some o → o.done = true)
    (hwbs : ∀ w ∈ tm.wbs, w.val = none → w.id ∉ f.owed) (hlaters : ∀ l ∈ tm.laters, l.id ∉ f.owed)
    (hmem : f.cls % 2 = 1 → s.canRelease tm.core = true ∧ f.ncs = []) :
    exec (.fenceComplete t tid) s = .next ((if f.cls % 2 = 1 then s.release tm.core else s).updThread t tid (fun th =>
      { th with fences := th.fences.map (fun g => if g.seq = f.seq then { g with done := true } else g) })) := by
  have h1 : f.ops.all (fun id => ((s.op? id).map (fun o => o.done)).getD true) = true := by
    refine List.all_eq_true.mpr fun id hid => ?_
    cases ho : s.op? id with
    | none => rfl
    | some o => exact hops id hid o ho
  have h2 : tm.wbs.any (fun w => w.val.isNone && f.owed.contains w.id) = false := by
    simpa [List.any_eq_false, Option.isNone_iff_eq_none] using hwbs
  have h3 : tm.laters.any (fun l => f.owed.contains l.id) = false := by simpa [List.any_eq_false] using hlaters
  have h4 : (f.cls % 2 == 1 && (!s.canRelease tm.core || !f.ncs.isEmpty)) = false := by
    by_cases hc : f.cls % 2 = 1
    · simp [hmem hc]
    · simp [hc]
  show execFenceComplete t tid s = _
  simp only [execFenceComplete, ht, hf, h1, h2, h3, h4, Bool.not_true, Bool.or_self, Bool.false_eq_true, if_false, beq_iff_eq]

/-- The lowest number that passes a test is the one found. -/
theorem find?_range_lowest {n f : Nat} {p : Nat → Bool} (hf : f < n) (hp : p f = true) (hlow : ∀ g, g < f → p g = false) :
    (List.range n).find? p = some f := by
  rw [List.find?_range_eq_some]
  exact ⟨hp, List.mem_range.mpr hf, fun g hg => by simp [hlow g hg]⟩

theorem scratchPageRefill_pins {s : State} {t page f : Nat} {tm : Team} (ht : s.team? t = some tm) (ha : tm.active = true) (hp : page ∈ tm.refill)
    (hf : f < 128) (hfree : frameAt s tm.core f = none) (hlow : ∀ g, g < f → frameAt s tm.core g ≠ none) :
    exec (.scratchPageRefill t page) s = .next ((s.updCore tm.core (fun k => k.take 1 (f * 4096) 4096)).updTeam t (fun tm =>
      { tm with pinned := FMap.set tm.pinned page f, refill := tm.refill.filter (· != page) })) := by
  have hfind : (List.range 128).find? (fun f => (frameAt s tm.core f).isNone) = some f :=
    find?_range_lowest hf (by simp [hfree]) fun g hg => by simpa [Option.isSome_iff_ne_none] using hlow g hg
  show execScratchPageRefill t page s = _
  simp [execScratchPageRefill, ht, ha, hp, hfind]

/-- A team whose waiting groups look again. -/
def Team.lookAgain (tm : Team) (now : Nat) : Team :=
  { tm with reeval := now, groups := tm.groups.map (fun g => (g.1, { g.2 with held := false })) }

theorem Team.held_lookAgain (tm : Team) (now : Nat) : ∀ g ∈ (tm.lookAgain now).groups, g.2.held = false := by
  intro g hg
  obtain ⟨g', -, rfl⟩ := List.mem_map.mp hg
  rfl

theorem waiterReevaluate_releases {s : State} {t : Nat} {tm : Team} (ht : s.team? t = some tm) :
    ∃ s' tm', exec (.waiterReevaluate t) s = .next s' ∧ s'.team? t = some tm' ∧ tm'.reeval = s.clock ∧ (∀ g ∈ tm'.groups, g.2.held = false) ∧
      tm'.threads = tm.threads ∧ SameOthers s s' t ∧ SameMachine s s' :=
  ⟨s.updTeam t (fun tm => tm.lookAgain s.clock), tm.lookAgain s.clock, rfl, by rw [State.team?_updTeam_self, ht]; rfl, rfl, tm.held_lookAgain s.clock, rfl,
    fun u hu => by rw [State.team?_updTeam, if_neg hu], rfl⟩

/-- Settles O43: one lemma for each event. -/
theorem resultEvents : Obligations.ResultEvents := by
  intro s t tm ht
  refine ⟨fun i w x hw hv hst hfirst => ⟨resultWriteback_writes ht hw hv hst hfirst, tm.kexc_writeWb s.clock hv, fun hT hp hl y hy => ?_⟩,
    fun tid f hf hops hwbs hlaters hmem => fenceComplete_completes ht hf hops hwbs hlaters hmem,
    fun page f ha hp hf hfree hlow => scratchPageRefill_pins ht ha hp hf hfree hlow, waiterReevaluate_releases ht⟩
  have ho : w.reg.ok = true := by
    cases hr : w.reg with
    | p n => exact decide_eq_true (hp n hr)
    | _ => rfl
  rw [goodValue_eq_clip hy]
  exact tm.reg_writeWb s.clock hv hT ho hl

end Sys2Proof.Machine

namespace Sys2Proof.Machine

open Sys2Proof Sys2Proof.Said

-- Accumulator elements (R69, R133, R298).

/-- The row of the core that ARD and AWR name for a thread. -/
def Iss.coreRow (c : Iss) (s : State) (k n tid : Nat) : Nat := c.tm.accBase * 64 + (c.accRow s k n tid).getD 0

/-- Units promoted one after another before an access (R69), and the flags of that. -/
def CoreSt.settleAll (k : CoreSt) (units : List Nat) : CoreSt × BitVec 5 :=
  units.foldl (fun (x : CoreSt × BitVec 5) u => ((x.1.settle u).1, x.2 ||| (x.1.settle u).2)) (k, 0)

/-- The units in which the threads of a group have their rows, promoted (R69). -/
def Iss.settled (c : Iss) (s : State) (k n : Nat) : CoreSt × BitVec 5 :=
  (s.core c.tm.core).settleAll (dedup (c.g.tids.map (fun tid => c.coreRow s k n tid / 64)))

/-- Rows inside their crews' windows that no earlier operation has still to write, and elements without a data error: nothing traps or waits, and the
access goes on after the promotion. -/
theorem State.accElem_goes {s : State} {c : Iss} {u : Use} (h : Ready s c u) (k n : Nat) (half : Option Nat)
    (go : State → Iss → (Nat → Nat) → BitVec 5 → State)
    (hrow : ∀ tid ∈ c.g.tids, (c.accRow s k n tid).isSome = true ∧ s.rowBusy c.t (c.coreRow s k n tid) = false)
    (hbad : ∀ x ∈ half, ∀ tid ∈ c.g.tids, c.coreRow s k n tid * 4 + 2 * x + tid % 32 / 16 ∉ (s.core c.tm.core).accBad) :
    s.accElem u k n half go =
      go ((s.updCore c.tm.core (fun _ => (c.settled s k n).1)).raiseFlags c 0 (c.settled s k n).2) c (c.coreRow s k n) (c.settled s k n).2 := by
  have hin : ∀ crew, c.g.tids.any (fun tid => tid / 32 == crew && (c.accRow s k n tid).isNone) = false :=
    fun crew => List.any_eq_false.mpr fun tid htid => by simp [Option.isSome_iff_ne_none.mp (hrow tid htid).1]
  have hfree : c.g.tids.any (fun tid => s.rowBusy c.t (c.coreRow s k n tid)) = false :=
    List.any_eq_false.mpr fun tid htid => by simp [(hrow tid htid).2]
  have hsound : ∀ tid ∈ c.g.tids, half.any (fun x => (s.core c.tm.core).accBad.contains (c.coreRow s k n tid * 4 + 2 * x + tid % 32 / 16)) = false := by
    intro tid htid
    cases half with
    | none => rfl
    | some x => simpa using hbad x rfl tid htid
  have hfold : ∀ tid, c.tm.accBase * 64 + (c.accRow s k n tid).getD 0 = c.coreRow s k n tid := fun _ => rfl
  unfold State.accElem
  rw [State.gate_ready h]
  simp only [hin, Bool.false_eq_true, if_false]
  rw [State.splitTraps_none fun _ _ => rfl]
  simp only [hfold, hfree, Bool.false_eq_true, if_false]
  rw [State.splitTraps_none fun tid htid => by rw [hsound tid htid]; rfl]
  rfl

/-- Settles O34: both instructions are what `accElem` goes on to. -/
theorem accumulatorElements : Obligations.AccumulatorElements := by
  intro st k d n h s c row hrow q s0
  refine ⟨fun hready hbad => ?_, fun hready => ?_⟩
  · show Host.Outcome.next (s.accElem _ _ _ _ _) = _
    rw [State.accElem_goes hready _ _ _ _ hrow]
    · rfl
    · intro x hx tid htid
      obtain rfl : h.toNat = x := by simpa using hx
      have hhalf : row tid * 4 + (32 * h.toNat + tid % 32) / 16 = row tid * 4 + 2 * h.toNat + tid % 32 / 16 := by omega
      exact hhalf ▸ hbad tid htid
  · show Host.Outcome.next (s.accElem _ _ _ _ _) = _
    rw [State.accElem_goes hready _ _ _ _ hrow fun x hx => by cases hx]
    rfl

end Sys2Proof.Machine

namespace Sys2Proof.Machine

open Sys2Proof Sys2Proof.Said

-- A crumb log over the MMIO registers (R365, R373, R375).

/-- A privileged context whose crumb log stands at VA 0x20000, with its running count at 0. -/
def ringCtx : Ctx := { v := true, priv := true, sr := { crumb := 0x20001 } }

/-- A team of context 3 on core 3, slot 0: the third word of a record of its thread 0 is 3. -/
def ringTeam : Team := { ctx := 3, core := 3, slot := 0, eff := ringCtx }

/-- The entry that maps the log's page onto the MMIO page of qtbase, ctbase and the context-load register: readable, writable, u = 0. -/
def ringPte : Nat := 7 + (mmioBase + 0x20000) / 4096 * 2 ^ 20

/-- The package right after reset, but for that context, and its translation of the log's page in the TLB of die 0. -/
def ringState : State := { State.reset with ctxs := [(3, ringCtx)], dies := [(0, { tlb := [⟨3, 0x20, ringPte, false, 1, 0⟩] })] }

/-- The record of a privileged team is written through that entry: it is no access that the page forbids. -/
theorem ringState_translates : ringState.xlate ringTeam.xlat true (ringVa ringState ringTeam) .write = .ok ringPte := by decide +kernel

/-- The third word goes to the context-load register and so loads context 3 from its record in memory, whose next is 0. -/
theorem ringState_next_stays : ((ringState.crumb ringTeam flOf false 0 0).ctx ringTeam.ctx).sr.crumbc = 4 := by decide +kernel

/-- Refutes O25: its clause on next, unlike those on execution and on the record's words, does not ask that the ring lies in memory. Where the ring
lies over the context-load register, writing the record loads the context anew, and next does not rise. -/
theorem not_crumbRecords : ¬ Obligations.CrumbRecords := by
  rintro ⟨-, hrecord⟩
  have hnext := (hrecord ringState ringTeam ringCtx flOf false 0 0 rfl rfl (by decide) (by decide)).1
  rw [ringState_next_stays] at hnext
  exact absurd hnext (by decide)

end Sys2Proof.Machine

namespace Sys2Proof.Machine

open Sys2Proof Sys2Proof.Said

-- Scratch reads back what was written (R88).

/-- A change of a listed entry that a test does not see: the test finds the same key. -/
theorem FMap.find?_set_key {α : Type} (m : FMap α) {n : Nat} {a b : α} (p : Nat × α → Bool) (ha : m.get? n = some a) (hp : p (n, b) = p (n, a)) :
    ((FMap.set m n b).find? p).map Prod.fst = (m.find? p).map Prod.fst := by
  induction m with
  | nil => cases ha
  | cons e m ih =>
    obtain ⟨k, c⟩ := e
    simp only [FMap.get?] at ha
    split at ha
    · cases ha
    · next hlt =>
      split at ha
      · next he =>
        subst he; cases ha
        simp only [FMap.set, Nat.lt_irrefl, if_false, if_true, List.find?_cons, hp]
        split <;> rfl
      · next hne =>
        simp only [FMap.set, hlt, hne, if_false, List.find?_cons]
        split
        · rfl
        · exact ih ha

/-- A change of a team that keeps its core, its slot and its life leaves every slot with the team it has. -/
theorem State.teamAt_updTeam (s : State) (u : Nat) (f : Team → Team) (hcore : ∀ tm, (f tm).core = tm.core) (hslot : ∀ tm, (f tm).slot = tm.slot)
    (hlife : ∀ tm, (f tm).life = tm.life) (core slot : Nat) : (s.updTeam u f).teamAt core slot = s.teamAt core slot := by
  simp only [State.teamAt, State.teamsOn, State.updTeam, List.find?_filter, FMap.upd]
  split
  · next tm htm => exact FMap.find?_set_key _ _ htm (by simp only [hcore, hslot, hlife])
  · rfl

/-- One that keeps its record too leaves every scratch address where it lies. -/
theorem State.scrAt_updTeam (s : State) (u : Nat) (f : Team → Team) (hcore : ∀ tm, (f tm).core = tm.core) (hslot : ∀ tm, (f tm).slot = tm.slot)
    (hlife : ∀ tm, (f tm).life = tm.life) (htr : ∀ tm, (f tm).tr = tm.tr) (t a n : Nat) : (s.updTeam u f).scrAt t a n = s.scrAt t a n := by
  have hteam : ∀ v, (s.updTeam u f).team? v = (s.team? v).map (fun tm => if v = u then f tm else tm) := fun v => by
    rw [State.team?_updTeam]
    split
    · next e => rw [e]
    · exact Option.map_id'.symm
  have hsame : ∀ v tm, (if v = u then f tm else tm).core = tm.core ∧ (if v = u then f tm else tm).tr = tm.tr := fun v tm => by
    split <;> simp only [hcore, htr, and_self]
  unfold State.scrAt
  simp only [hteam, State.teamAt_updTeam s u f hcore hslot hlife]
  cases s.team? t with
  | none => rfl
  | some tm =>
    simp only [Option.map_some, (hsame t tm).1]
    split
    · rfl
    · next v _ =>
      cases s.team? v with
      | none => rfl
      | some um => simp only [Option.map_some, (hsame v um).2]

theorem State.scrAt_team {s : State} {t a n u off : Nat} (h : s.scrAt t a n = some (u, off)) : ∃ um, s.team? u = some um := by
  unfold State.scrAt at h
  split at h
  · cases h
  · dsimp only at h
    split at h
    · cases h
    · split at h
      · cases h
      · next um hum =>
        split at h
        · cases h; exact ⟨um, hum⟩
        · cases h

theorem State.scrAt_scrPut (s : State) (u off : Nat) (bs : List Byte) (t a n : Nat) : (s.scrPut u off bs).scrAt t a n = s.scrAt t a n := by
  unfold State.scrPut
  refine State.scrAt_updTeam s u _ ?_ ?_ ?_ ?_ t a n <;> exact fun _ => rfl

theorem State.scrGet_scrPut {s : State} {u : Nat} {um : Team} (hu : s.team? u = some um) (off : Nat) (bs : List Byte) :
    (s.scrPut u off bs).scrGet u off bs.length = bs := by
  have hkeys : ((List.range bs.length).map (fun i => off + i)).Nodup := List.nodup_range.map (add_right_injective off)
  simp only [State.scrGet, State.scrPut, State.team?_updTeam_self, hu, Option.map_some]
  refine List.ext_getElem (by simp) fun i _ hi => ?_
  have hin := FMap.getD_foldl_set_in (List.range bs.length) (fun i => off + i) (fun i _ => (bs[i]?).getD 0) 0 um.scr hkeys i (List.mem_range.mpr hi)
  simpa [hi] using hin

theorem State.scrGet_scrPut_out (s : State) {u w k off : Nat} {bs : List Byte} (h : w ≠ u ∨ k < off ∨ off + bs.length ≤ k) :
    (s.scrPut u off bs).scrGet w k 1 = s.scrGet w k 1 := by
  simp only [State.scrGet, State.scrPut, State.team?_updTeam]
  by_cases e : w = u
  · subst e
    rw [if_pos rfl]
    have hout : k ∉ (List.range bs.length).map (fun i => off + i) := by
      simp only [List.mem_map, List.mem_range, not_exists, not_and]
      intro i hi
      omega
    cases s.team? w with
    | none => rfl
    | some um => simpa using FMap.getD_foldl_set_out (List.range bs.length) (fun i => off + i) (fun i _ => (bs[i]?).getD 0) 0 um.scr k hout
  · rw [if_neg e]

/-- Settles O59: of memory by the laws of `storeBytes`; of scratch, since a write moves no team and so no address. -/
theorem readAfterWrite : Obligations.ReadAfterWrite := by
  refine ⟨fun m a bs hm => ⟨Memory.wf_storeBytes bs m a hm, Memory.bytes_storeBytes bs m a hm, fun b => Memory.byte_storeBytes_out bs m a b hm⟩, ?_⟩
  rintro s t a n u off bs rfl hat
  obtain ⟨um, hum⟩ := State.scrAt_team hat
  have hput : s.scrWrite t a bs = s.scrPut u off bs := by simp only [State.scrWrite, hat]
  rw [hput]
  refine ⟨?_, fun w k h => State.scrGet_scrPut_out s h, rfl⟩
  simp only [State.scrRead, State.scrAt_scrPut, hat]
  exact State.scrGet_scrPut hum off bs

-- The privileged instructions (R100, R167, R372).

theorem State.privGate_privileged {s : State} {c : Iss} {u : Use} (h : Ready s c u) (hp : c.tm.eff.priv = true) (k : Iss → State) :
    s.privGate u k = k c := by
  rw [State.privGate, State.gate_ready h]
  exact if_pos hp

theorem State.privGate_trap {s : State} {c : Iss} {u : Use} (h : Ready s c u) (hp : c.tm.eff.priv = false) (k : Iss → State) :
    s.privGate u k = s.trapAll c.t c.gid c.g { cause := 2 } := by
  rw [State.privGate, State.gate_ready h]
  exact if_neg (ne_true_of_eq_false hp)

/-- Settles O42: all three pass `privGate`, and TLBI looks for the shootdown of its group. -/
theorem systemRegisters : Obligations.SystemRegisters := by
  intro st k r s c x
  refine ⟨fun h => ⟨fun hp => ?_, fun hp => ?_⟩, fun h => ⟨fun hp => ⟨?_, ?_⟩, fun hp => ⟨?_, fun hno => ?_, fun y hy hdone => ?_⟩⟩⟩
  · exact congrArg Host.Outcome.next (State.privGate_trap h hp _)
  · exact congrArg Host.Outcome.next (State.privGate_privileged h hp _)
  · exact congrArg Host.Outcome.next (State.privGate_trap h hp _)
  · exact congrArg Host.Outcome.next (State.privGate_trap h hp _)
  · exact congrArg Host.Outcome.next (State.privGate_privileged h hp _)
  · refine congrArg Host.Outcome.next ((State.privGate_privileged h hp _).trans ?_)
    simp only [hno, bit_eq_testBit]
    rfl
  · refine congrArg Host.Outcome.next ((State.privGate_privileged h hp _).trans ?_)
    simp only [hy, hdone, List.isEmpty_nil, if_true]
    rfl

-- What the uniform data cache gives a load (R92, R94-R96).

theorem narrowWindow_mem {pa : Nat} (n : Nat) (h : isMem pa = true) : narrowWindow pa n = false := by simp [narrowWindow, h]

theorem State.reclass_sameClass {s : State} {core line coh : Nat} {nc : Bool} (h : sameClass s core line coh nc) :
    s.reclass core line coh nc = some s := by
  unfold State.reclass
  split
  · rfl
  · next l hl =>
    obtain ⟨hnc, hcoh⟩ := h l hl
    simp [hnc, hcoh]

/-- Settles O20: in plain memory, granted and of one class, `uload` comes to its choice by coherence class, and then by hit and hint. -/
theorem cacheLoads : Obligations.CacheLoads := by
  intro s core ctx pte nc va pa n hint hmem hgrant hclass
  refine ⟨fun hnc hcoh => ?_, fun hcls l hl => ?_⟩
  · simp only [State.uload, narrowWindow_mem n hmem, hmem, hgrant, State.reclass_sameClass hclass]
    simp [hnc, hcoh]
  · intro o hit
    have hU : (!nc && decide (pteCoh pte = 2)) = false := by rcases hcls with h | h <;> simp [h]
    have hD : (!nc && decide (pteCoh pte = 1)) = false := by rcases hcls with h | h <;> simp [h]
    have hhit : ((List.range n).all (fun i => (FMap.get? l.cells (o + i)).isSome) && (hint != 2 || !l.runs.isEmpty)) = true ↔ hit := by
      simp [hit, imp_iff_not_or]
    have hline : FMap.getD (s.core core).lines (pa / 128) {} = l := by simp [FMap.getD, hl]
    simp only [State.uload, narrowWindow_mem n hmem, hmem, hgrant, State.reclass_sameClass hclass, hU, hD, hline, Bool.not_true, Bool.false_eq_true, if_false]
    refine ⟨fun h => ?_, fun h hh => ?_⟩
    · rw [if_pos (hhit.mpr h)]
    · rw [if_neg (mt hhit.mp h), if_pos (by simpa using hh)]
      rfl

end Sys2Proof.Machine

namespace Sys2Proof.Machine

open Sys2Proof Sys2Proof.Said

-- Pages shared between packages (R97, R98).

@[simp] theorem State.holder_setHolder (s : State) (page : Nat) (h : Holder) : (s.setHolder page h).holder page = h :=
  FMap.getD_set_self _ _ _ _

/-- A request for a page that is homed here joins the queue of its record, which is then served. -/
theorem holderRequest_joins {s : State} {page : Nat} (hhome : s.foreign (page * 4096) = false) (pkg : Nat) (write : Bool) :
    s.holderRequest pkg page write = (s.setHolder page { s.holder page with reqs := (s.holder page).reqs ++ [(pkg, write)] }).serve page
      ((s.holder page).reqs.length + 1) := by
  simp only [State.holderRequest, hhome, Bool.false_eq_true, if_false]

/-- The answer to a recall for a write takes the package out of the record, whose queue goes on. -/
theorem recallAnswer_leaves {s : State} {pkg page : Nat} (hin : pkg ∈ (s.holder page).recalls) (hcrs : (s.holder page).crs = false)
    (hw : ((s.holder page).reqs.head?.map Prod.snd) = some true) : exec (.recallAnswer pkg page) s =
      .next ((s.setHolder page { s.holder page with
        recalls := (s.holder page).recalls.filter (· != pkg), ptrs := (s.holder page).ptrs.filter (· != pkg) }).serve page
          ((s.holder page).reqs.length + 1)) := by
  show execRecallAnswer pkg page s = _
  simp only [execRecallAnswer, List.contains_iff_mem.mpr hin, hcrs, hw, Option.getD_some, Bool.not_true, Bool.false_eq_true, if_false]

/-- The release of a page that is homed here takes the package, and no other, out of its record. -/
theorem holderRelease_leaves {s : State} {pkg page : Nat} (hhome : s.foreign (page * 4096) = false) (hcrs : (s.holder page).crs = false) :
    ∃ s', exec (.holderRelease pkg page) s = .next s' ∧ pkg ∉ (s'.holder page).ptrs ∧
      (∀ q, q ≠ pkg → (q ∈ (s'.holder page).ptrs ↔ q ∈ (s.holder page).ptrs)) ∧ s'.mem = s.mem := by
  refine ⟨s.setHolder page { s.holder page with
    ptrs := (s.holder page).ptrs.filter (· != pkg), st := if ((s.holder page).ptrs.filter (· != pkg)).isEmpty then 0 else (s.holder page).st }, ?_, ?_, fun q hq => ?_, rfl⟩
  · show execHolderRelease pkg page s = _
    simp only [execHolderRelease, hhome, hcrs, Bool.false_eq_true, if_false]
  · simp
  · simp [hq]

theorem holderGrant_serves {s : State} {page : Nat} (hhome : s.foreign (page * 4096) = false) (excl : Bool) :
    exec (.holderGrant page excl) s = .next (s.serve page ((s.holder page).reqs.length + 1)) := by
  show execHolderGrant page excl s = _
  simp only [execHolderGrant, hhome, Bool.not_false, if_true]

/-- A recall of a page that is held, once no seal stands in its way: its dirty words go home, and it is held no more, or not exclusively. -/
theorem State.recall_ready {s : State} {page : Nat} {ex : Bool} (hheld : FMap.get? s.links.held page = some ex) (hready : s.collectReady page = true)
    (drop : Bool) : s.recall page drop = { s.collectPage page drop with
      links := { (s.collectPage page drop).links with
        asked := s.links.asked.filter (· != (page, drop)),
        held := if drop then FMap.erase (s.collectPage page drop).links.held page else FMap.set (s.collectPage page drop).links.held page false } } := by
  simp only [State.recall, hheld, hready, Option.isNone_some, Bool.not_true, Bool.false_eq_true, if_false]

/-- A grant of another package's page that this one wants: it is held, exclusively where it was or where the grant says so, and wanted still only where
a write wants more than was granted. -/
theorem holderGrant_held {s : State} {page : Nat} {excl w : Bool} (hr : FMap.rising s.links.wants = true) (hfar : s.foreign (page * 4096) = true)
    (hw : FMap.get? s.links.wants page = some w) : ∃ s', exec (.holderGrant page excl) s = .next s' ∧
      FMap.get? s'.links.held page = some (FMap.getD s.links.held page false || excl) ∧
      (FMap.get? s'.links.wants page = if excl || !w then none else some w) ∧ { s' with links := s.links } = s := by
  refine ⟨{ s with links := { s.links with
    held := FMap.set s.links.held page (FMap.getD s.links.held page false || excl), wants := if excl || !w then FMap.erase s.links.wants page else s.links.wants } }, ?_, FMap.get?_set_self _ _ _, ?_, rfl⟩
  · show execHolderGrant page excl s = _
    simp only [execHolderGrant, hfar, hw, Bool.not_true, Bool.false_eq_true, if_false]
  · dsimp only
    split
    · rw [FMap.get?_erase _ _ _ hr, if_pos rfl]
    · exact hw

-- Shootdowns (R100).

/-- A core with no lines and no stores on their way has nothing to send home. -/
theorem State.release_empty {s : State} {core : Nat} (h : (s.core core).lines = []) : s.release core = s := by
  simp [State.release, State.sLines, h]

theorem State.oldNc_empty {s : State} {core : Nat} (x : Shoot) (h : (s.core core).lines = []) : s.oldNc core x = [] := by
  simp [State.oldNc, h]

theorem State.canRelease_empty {s : State} {core : Nat} (hl : (s.core core).lines = []) (hd : (s.core core).dstores = []) : s.canRelease core = true := by
  simp [State.canRelease, State.sLines, hl, hd]

/-- What the cores of a die send home before it acknowledges: nothing, where they hold no lines. -/
theorem State.sendHome_empty (x : Shoot) (cores : List Nat) (s : State) (h : ∀ c ∈ cores, (s.core c).lines = []) :
    cores.foldl (fun (s : State) c => (s.oldNc c x).foldl (fun s l => s.dropLine c l.1) (s.release c)) s = s := by
  induction cores with
  | nil => rfl
  | cons c cores ih =>
    have hc := h c List.mem_cons_self
    simp only [List.foldl_cons, State.oldNc_empty x hc, State.release_empty hc, List.foldl_nil]
    exact ih fun k hk => h k (List.mem_cons_of_mem _ hk)

/-- A die whose cores hold no lines acknowledges the one shootdown under way: the translations that it invalidates go, and the die is asked no more. -/
theorem tlbShootdownAck_acknowledges {s : State} {die id : Nat} {x : Shoot} (hx : s.shoots.find? (fun x => x.id == id) = some x) (hdie : die ∈ x.dies)
    (hreqs : s.units.greqs = []) (hcrumbs : s.units.crumbs = []) (hold : s.holdsOld die x = false) (hlate : s.latersOld die x = false)
    (hcores : ∀ c ∈ (s.cores.map Prod.fst).filter (fun c => c / 192 == die), (s.core c).lines = [] ∧ (s.core c).dstores = []) (hone : s.shoots = [x]) :
    ∃ s', exec (.tlbShootdownAck die id) s = .next s' ∧ (∀ t ∈ (s'.die die).tlb, x.hits t = false) ∧
      (∀ y ∈ s'.shoots, y.dies = x.dies.filter (· != die)) := by
  have hid : x.id = id := by simpa using List.find?_some hx
  have hall : ((s.cores.map Prod.fst).filter (fun c => c / 192 == die)).all
      (fun c => s.canRelease c && (s.oldNc c x).all (fun l => s.canWriteBack l.1 l.2)) = true := by
    refine List.all_eq_true.mpr fun c hc => ?_
    obtain ⟨hl, hd⟩ := hcores c hc
    simp [State.canRelease_empty hl hd, State.oldNc_empty x hl]
  have hhome := State.sendHome_empty x _ s fun c hc => (hcores c hc).1
  let s1 : State := s.updDie die (fun d => { d with tlb := d.tlb.filter (fun t => !x.hits t) })
  let left : Shoot := { x with dies := x.dies.filter (· != die) }
  have hleft : s1.shoots.map (fun y => if y.id = id then left else y) = [left] := by
    show s.shoots.map _ = _
    simp [hone, hid]
  have hexec : ∃ b : Bool, exec (.tlbShootdownAck die id) s = .next { s1 with shoots := if b then [left].filter (fun y => y.id != id) else [left] } := by
    refine ⟨left.dies.isEmpty && !((s1.team? x.team).bind (fun tm => FMap.get? tm.groups x.grp)).isSome, ?_⟩
    show execTlbShootdownAck die id s = _
    simp only [execTlbShootdownAck, hx, hreqs, hcrumbs, hold, hlate, hall, hhome, List.contains_iff_mem.mpr hdie, List.any_nil, Bool.or_self, Bool.not_true,
      Bool.false_eq_true, if_false]
    rw [hleft]
  obtain ⟨b, hexec⟩ := hexec
  refine ⟨_, hexec, fun t ht => ?_, fun y hy => ?_⟩
  · have ht : t ∈ (s1.die die).tlb := ht
    rw [State.die_updDie_self] at ht
    simpa using (List.mem_filter.mp ht).2
  · have hy : y ∈ if b then [left].filter (fun y => y.id != id) else [left] := hy
    have hin : y ∈ [left] := by
      split at hy
      · exact List.mem_of_mem_filter hy
      · exact hy
    rw [List.mem_singleton.mp hin]

/-- Settles O47: of a page's record by the queue that `serve` works off, of another package's page by what is held and wanted; a die's
acknowledgement by what its cores hold. -/
theorem pageEvents : Obligations.PageEvents := by
  refine ⟨fun s pkg page hhome => ⟨fun w => ?_, fun hin => recallAnswer_leaves hin, holderRelease_leaves hhome, holderGrant_serves hhome⟩, fun s page ex hheld hready => ⟨?_, ?_⟩,
    fun s page excl w => holderGrant_held, fun s die id x hx hdie hreqs hcrumbs hold hlate => ?_⟩
  · cases w
    · exact congrArg Host.Outcome.next (holderRequest_joins hhome pkg false)
    · exact congrArg Host.Outcome.next (holderRequest_joins hhome pkg true)
  · exact congrArg Host.Outcome.next (State.recall_ready hheld hready false)
  · exact congrArg Host.Outcome.next (State.recall_ready hheld hready true)
  · exact fun hcores hone => tlbShootdownAck_acknowledges hx hdie hreqs hcrumbs hold hlate hcores hone

end Sys2Proof.Machine

namespace Sys2Proof.Machine

open Sys2Proof Sys2Proof.Said

theorem mem_foldl_dedup (l acc : List Nat) (x : Nat) :
    x ∈ l.foldl (fun acc x => if acc.contains x then acc else acc ++ [x]) acc ↔ x ∈ acc ∨ x ∈ l := by
  induction l generalizing acc with
  | nil => simp
  | cons y l ih =>
    rw [List.foldl_cons, ih]
    split
    · next hy =>
      have hin : x = y → x ∈ acc := fun e => e ▸ List.contains_iff_mem.mp hy
      rw [List.mem_cons]
      tauto
    · simp [or_assoc]

/-- Repeats that go take no element with them. -/
@[simp] theorem mem_dedup (l : List Nat) (x : Nat) : x ∈ dedup l ↔ x ∈ l := (mem_foldl_dedup l [] x).trans (by simp)

-- Writes from outside the cores (R80, R373, R379, R388).

/-- A write that nothing at its home holds back performs at once. -/
theorem State.outWrite_performs {s : State} {pa : Nat} {bs : List Byte} (h : performs s pa bs.length) :
    s.outWrite pa bs = s.homeWriteN { watch := false } pa bs (bs.length / 128 + 2) := by
  obtain ⟨hmem, hbell⟩ := h
  have hheld : (if isMem pa then (pagesOf pa bs.length).filter (fun p => s.needsGrant none p true) else []) = [] := by
    split
    · next hm => exact List.filter_eq_nil_iff.mpr fun p hp => by simp [(hmem hm).1 p hp]
    · rfl
  have hseal : (isMem pa && s.sealedIn pa bs.length) = false := by
    cases hm : isMem pa with
    | false => rfl
    | true => exact (hmem hm).2
  have hlate : (isDoorbell pa && !s.units.late.isEmpty) = false := by
    cases hd : isDoorbell pa with
    | false => rfl
    | true => simp [hbell hd]
  simp only [State.outWrite, hheld, hseal, hlate, List.isEmpty_nil, Bool.not_true, Bool.false_eq_true, if_false]
  rfl

/-- Bytes inside one page are one part. -/
theorem pageParts_single {pa : Nat} {bs : List Byte} (hne : bs ≠ []) (h : pa % 4096 + bs.length ≤ 4096) : pageParts pa bs = [(pa, bs)] := by
  have hlen : 0 < bs.length := List.length_pos_iff.mpr hne
  have hcount : (pa % 4096 + bs.length + 4095) / 4096 = 1 := by omega
  have hmax : max pa ((pa / 4096 + 0) * 4096) = pa := by omega
  have htake : bs.take ((pa / 4096 + 0) * 4096 + 4096 - pa) = bs := List.take_of_length_le (by omega)
  simp only [pageParts, pagesOf, hcount, List.range_one, List.map_cons, List.map_nil, hmax, Nat.sub_self, List.drop_zero, htake]

/-- Bytes that fill their first page: that part comes first, then those of the next pages. -/
theorem pageParts_append {pa : Nat} {first : List Byte} (rest : List Byte) (h : pa % 4096 + first.length = 4096) :
    pageParts pa (first ++ rest) = (pa, first) :: pageParts (pa + first.length) rest := by
  have hcount : (pa % 4096 + (first ++ rest).length + 4095) / 4096 = ((pa + first.length) % 4096 + rest.length + 4095) / 4096 + 1 := by
    rw [List.length_append]
    omega
  have hmax : max pa ((pa / 4096 + 0) * 4096) = pa := by omega
  have hfirst : (pa / 4096 + 0) * 4096 + 4096 - pa = first.length := by omega
  have htake : (first ++ rest).take first.length = first := List.take_left
  simp only [pageParts, pagesOf, hcount, List.range_succ_eq_map, List.map_cons, List.map_map, hmax, Nat.sub_self, List.drop_zero, hfirst, htake]
  refine congrArg ((pa, first) :: ·) (List.map_congr_left fun i _ => ?_)
  have hpage : (pa / 4096 + (i + 1)) * 4096 = ((pa + first.length) / 4096 + i) * 4096 := by omega
  have hle : pa + first.length ≤ ((pa + first.length) / 4096 + i) * 4096 := by omega
  have hpast : first.length ≤ ((pa + first.length) / 4096 + i) * 4096 - pa := by omega
  simp only [Function.comp_apply, Nat.succ_eq_add_one, hpage, Nat.max_eq_right hle, Nat.max_eq_right (Nat.le_of_add_right_le hle), List.drop_append, List.drop_eq_nil_of_le hpast, List.nil_append, Nat.sub_sub]

/-- The host's write of bytes inside one page that it reaches. -/
theorem hostWrite_performs {s : State} {pa : Nat} {data : List Byte} (hne : data ≠ []) (hpage : pa % 4096 + data.length ≤ 4096)
    (hreach : hostReaches pa = true) (hperf : performs s pa data.length) :
    exec (.hostWrite pa data) s = .next (s.homeWriteN { watch := false } pa data (data.length / 128 + 2)) := by
  show execHostWrite pa data s = _
  simp only [execHostWrite, pageParts_single hne hpage, List.foldl_cons, List.foldl_nil, hreach, if_true, State.outWrite_performs hperf]

theorem hostWrite_unreached {pa : Nat} {data : List Byte} (hne : data ≠ []) (hpage : pa % 4096 + data.length ≤ 4096)
    (hreach : hostReaches pa = false) (s : State) : exec (.hostWrite pa data) s = .next s := by
  show execHostWrite pa data s = _
  simp only [execHostWrite, pageParts_single hne hpage, List.foldl_cons, List.foldl_nil, hreach, Bool.false_eq_true, if_false]

/-- A host write that goes past its first page goes on as the write of the rest, after that of the first part. -/
theorem hostWrite_append {pa : Nat} {first : List Byte} {s s1 : State} (rest : List Byte) (hpage : pa % 4096 + first.length = 4096)
    (hfirst : exec (.hostWrite pa first) s = .next s1) : exec (.hostWrite pa (first ++ rest)) s = exec (.hostWrite (pa + first.length) rest) s1 := by
  have hne : first ≠ [] := List.ne_nil_of_length_pos (by omega)
  have hone : execHostWrite pa first s = .next s1 := hfirst
  show execHostWrite pa (first ++ rest) s = execHostWrite (pa + first.length) rest s1
  simp only [execHostWrite, pageParts_single hne hpage.le, List.foldl_cons, List.foldl_nil, Host.Outcome.next.injEq] at hone
  simp only [execHostWrite, pageParts_append rest hpage, List.foldl_cons, hone]

/-- A control core's store. -/
theorem controlCoreAccess_performs {s : State} {pa w : Nat} (v : BitVec 64) (hwide : narrowWindow pa (min (2 ^ w) 8) = false)
    (hperf : performs s pa (min (2 ^ w) 8)) : exec (.controlCoreAccess true pa w v) s =
      .next (s.homeWriteN { watch := false } pa (natLe (min (2 ^ w) 8) v.toNat) (min (2 ^ w) 8 / 128 + 2)) := by
  show execControlCoreAccess true pa w v s = _
  have hout := State.outWrite_performs (bs := natLe (min (2 ^ w) 8) v.toNat) (by rwa [length_natLe])
  simp only [execControlCoreAccess, hwide, Bool.not_false, Bool.and_self, if_true, hout, length_natLe]

theorem controlCoreAccess_narrow {pa w : Nat} (s : State) (v : BitVec 64) (hnarrow : narrowWindow pa (min (2 ^ w) 8) = true) :
    exec (.controlCoreAccess true pa w v) s = .next s := by
  show execControlCoreAccess true pa w v s = _
  simp only [execControlCoreAccess, hnarrow, Bool.not_true, Bool.and_false, Bool.false_eq_true, if_false]

/-- A flit that arrives whole, and that no seal holds back; whether it raises watches is a free value. -/
theorem flitReceive_performs {s : State} {pa : Nat} {data : List Byte} (h : isMem pa = true → s.sealedIn pa data.length = false) :
    ∃ watch : Bool, exec (.flitReceive true pa data) s =
      .next (({ s with freeCtr := s.freeCtr + 1 } : State).homeWriteN { watch } pa data (data.length / 128 + 2)) := by
  have hseal : (isMem pa && s.sealedIn pa data.length) = false := by
    cases hm : isMem pa with
    | false => rfl
    | true => exact h hm
  refine ⟨(Config.freeWord s.freeCtr pa).getLsbD 0, ?_⟩
  show execFlitReceive true pa data s = _
  simp only [execFlitReceive, hseal, Bool.not_true, Bool.false_eq_true, if_false]

-- The failure of a package (R389).

/-- A page's record after a package has failed: neither holder, nor asked, nor asking. -/
def Holder.without (h : Holder) (pkg : Nat) : Holder :=
  let ptrs := h.ptrs.filter (· != pkg)
  { h with ptrs, recalls := h.recalls.filter (· != pkg), reqs := h.reqs.filter (fun r => r.1 != pkg), st := if !h.crs && ptrs.isEmpty then 0 else h.st }

/-- The links after a package has failed: its route and its pages are gone, and it is in no record. -/
def Links.without (l : Links) (pkg : Nat) : Links :=
  { l with
    routes := l.routes.filter (· != pkg), failed := dedup (l.failed ++ [pkg])
    held := l.held.filter (fun e => paPkg (e.1 * 4096) != pkg), wants := l.wants.filter (fun e => paPkg (e.1 * 4096) != pkg)
    holders := l.holders.map (fun e => (e.1, e.2.without pkg)) }

theorem packageFailure_eq (pkg : Nat) (s : State) : exec (.packageFailure pkg) s =
    .next ((s.links.without pkg).holders.foldl (fun s e => s.serve e.1 (e.2.reqs.length + 1)) { s with links := s.links.without pkg }) := rfl

/-- The links of a failed package go, and no others. -/
theorem Links.mem_without (l : Links) (pkg : Nat) : (∀ p, p ∈ (l.without pkg).routes ↔ p ∈ l.routes ∧ p ≠ pkg) ∧
    (∀ p, p ∈ (l.without pkg).failed ↔ p ∈ l.failed ∨ p = pkg) ∧
    (∀ p e, (p, e) ∈ (l.without pkg).held ↔ (p, e) ∈ l.held ∧ paPkg (p * 4096) ≠ pkg) ∧
    (∀ p w, (p, w) ∈ (l.without pkg).wants ↔ (p, w) ∈ l.wants ∧ paPkg (p * 4096) ≠ pkg) := by
  refine ⟨fun p => ?_, fun p => ?_, fun p e => ?_, fun p w => ?_⟩ <;> simp [Links.without]

theorem Holder.mem_without (h : Holder) (pkg : Nat) : pkg ∉ (h.without pkg).ptrs ∧ pkg ∉ (h.without pkg).recalls ∧
    (∀ q, q ≠ pkg → (q ∈ (h.without pkg).ptrs ↔ q ∈ h.ptrs) ∧ (q ∈ (h.without pkg).recalls ↔ q ∈ h.recalls)) ∧
    (h.without pkg).reqs = h.reqs.filter (fun r => r.1 != pkg) := by
  refine ⟨?_, ?_, fun q hq => ?_, rfl⟩ <;> simp_all [Holder.without]

theorem FMap.get?_map_snd {α β : Type} (m : FMap α) (f : α → β) (n : Nat) : FMap.get? (m.map (fun e => (e.1, f e.2))) n = (m.get? n).map f := by
  induction m with
  | nil => rfl
  | cons e m ih =>
    simp only [List.map_cons, FMap.get?, ih]
    split
    · rfl
    · split <;> rfl

theorem Links.get?_holders_without {l : Links} {page : Nat} {h : Holder} (pkg : Nat) (hh : FMap.get? l.holders page = some h) :
    FMap.get? (l.without pkg).holders page = some (h.without pkg) :=
  (FMap.get?_map_snd l.holders (fun h => h.without pkg) page).trans (by rw [hh]; rfl)

/-- Where no page that is homed here has a record, the links are all that a failure changes. -/
theorem packageFailure_links {s : State} (pkg : Nat) (h : s.links.holders = []) : exec (.packageFailure pkg) s = .next { s with links := s.links.without pkg } := by
  rw [packageFailure_eq]
  simp [Links.without, h]

-- Throttling (R390).

theorem thermalThrottle_joins (s : State) (cluster : Nat) : ∃ s', exec (.thermalThrottle cluster) s = .next s' ∧ cluster ∈ s'.links.throttled ∧
    (∀ c, c ≠ cluster → (c ∈ s'.links.throttled ↔ c ∈ s.links.throttled)) := ⟨_, rfl, by simp, fun c hc => by simp [hc]⟩

theorem throttleEnd_leaves (s : State) (cluster : Nat) : ∃ s', exec (.throttleEnd cluster) s = .next s' ∧ cluster ∉ s'.links.throttled ∧
    (∀ c, c ≠ cluster → (c ∈ s'.links.throttled ↔ c ∈ s.links.throttled)) := ⟨_, rfl, by simp, fun c hc => by simp [hc]⟩

/-- Settles O53: writes from outside by the parts into which their pages cut them, a failure by what `without` leaves of the links. -/
theorem packageEvents : Obligations.PackageEvents := by
  intro s pa w cluster pkg data v
  obtain ⟨hroutes, hfailed, hheld, hwants⟩ := Links.mem_without s.links pkg
  refine fun hflit => ⟨flitReceive_performs hflit, rfl, fun hne hpage => ⟨hostWrite_performs hne hpage, fun h => hostWrite_unreached hne hpage h s⟩,
    fun first rest s1 => hostWrite_append rest, controlCoreAccess_performs v, controlCoreAccess_narrow s v, rfl, fun hno => ?_, ?_, thermalThrottle_joins s cluster, throttleEnd_leaves s cluster, rfl, rfl⟩
  · refine ⟨_, packageFailure_links pkg hno, hroutes, hfailed, hheld, hwants, rfl, ?_⟩
    exact congrArg (fun m => { s.links with holders := m }) (show (s.links.without pkg).holders = s.links.holders by simp [Links.without, hno])
  · refine ⟨{ s with links := s.links.without pkg }, fun page h hh => ⟨h.without pkg, Links.get?_holders_without pkg hh, h.mem_without pkg⟩, rfl, packageFailure_eq pkg s⟩

end Sys2Proof.Machine

namespace Sys2Proof.Machine

open Sys2Proof Sys2Proof.Said

-- Room in a full cache (R1).

/-- Where the keys rise, an entry of the list is what its key reads. -/
theorem FMap.get?_of_mem {α : Type} {m : FMap α} (hr : FMap.rising m = true) {e : Nat × α} (he : e ∈ m) : m.get? e.1 = some e.2 := by
  induction m with
  | nil => cases he
  | cons x m ih =>
    obtain ⟨k, a⟩ := x
    obtain ⟨hbelow, hm⟩ := (FMap.rising_cons k a m).mp hr
    rcases List.mem_cons.mp he with rfl | he
    · simp [FMap.get?]
    · have hlt := hbelow e he
      simp [FMap.get?, ih hm he, Nat.not_lt.mpr hlt.le, hlt.ne']

/-- A full cache makes room by the eviction of one of the listed lines that can leave now. -/
theorem State.makeRoom_full {s : State} {core line : Nat} (hfull : 512 ≤ (s.core core).lines.length) (hout : FMap.get? (s.core core).lines line = none) :
    s.makeRoom core line = ((((s.core core).lines.filter (fun l => s.canWriteBack l.1 l.2))[Config.freePick s.freeCtr core 0 %
      max 1 ((s.core core).lines.filter (fun l => s.canWriteBack l.1 l.2)).length]?).map (fun l => s.evict core l.1)) := by
  simp [State.makeRoom, cacheLines, hout, Nat.not_lt.mpr hfull]

/-- Where the lines are kept in rising order, what leaves is a line that the core holds and that can be written back. -/
theorem State.makeRoom_evicts {s s1 : State} {core line : Nat} (hr : FMap.rising (s.core core).lines = true) (hfull : 512 ≤ (s.core core).lines.length)
    (hout : FMap.get? (s.core core).lines line = none) (h : s.makeRoom core line = some s1) :
    ∃ other l, FMap.get? (s.core core).lines other = some l ∧ s.canWriteBack other l = true ∧ s1 = s.evict core other := by
  rw [State.makeRoom_full hfull hout, Option.map_eq_some_iff] at h
  obtain ⟨e, he, rfl⟩ := h
  obtain ⟨hmem, hback⟩ := List.mem_filter.mp (List.mem_of_getElem? he)
  exact ⟨e.1, e.2, FMap.get?_of_mem hr hmem, hback, rfl⟩

/-- A copy with one dirty byte. -/
def dirtyLine : CLine := { cells := [(0, (1, true))] }

/-- Core 0 holds 512 lines. The list that keeps them begins with line 1, whose dirty byte lies in a sealed granule, and names line 0, again and again,
behind it: not in rising order, so that nothing is read under that key. -/
def disorderedCache : State :=
  { cores := [(0, { lines := (1, dirtyLine) :: List.replicate 511 (0, {}) })], units := { gran := [(4, { sealed := some 0 })] } }

theorem disorderedCache_leaving : (disorderedCache.core 0).lines.filter (fun l => disorderedCache.canWriteBack l.1 l.2) = List.replicate 511 (0, {}) := by
  show List.filter _ ((1, dirtyLine) :: List.replicate 511 (0, {})) = _
  rw [List.filter_cons_of_neg (by decide +kernel), List.filter_replicate_of_pos (by decide +kernel)]

/-- Room is made by an eviction of line 0, which takes nothing away. -/
theorem disorderedCache_makeRoom : disorderedCache.makeRoom 0 2 = some disorderedCache := by
  have hpick : Config.freePick disorderedCache.freeCtr 0 0 % max 1 511 < 511 := Nat.mod_lt _ (by decide)
  rw [State.makeRoom_full (by decide +kernel) (by decide +kernel), disorderedCache_leaving, List.length_replicate, List.getElem?_replicate_of_lt hpick]
  rfl

/-- Line 1 is all that the core holds. -/
theorem disorderedCache_get? {other : Nat} {l : CLine} (h : FMap.get? (disorderedCache.core 0).lines other = some l) : other = 1 ∧ l = dirtyLine := by
  have hbehind : ∀ n, other ≠ 0 → FMap.get? (List.replicate n ((0, {}) : Nat × CLine)) other = none := by
    intro n h0
    induction n with
    | zero => rfl
    | succ n ih => simp [List.replicate_succ, FMap.get?, h0, ih]
  have h : FMap.get? ((1, dirtyLine) :: List.replicate 511 ((0, {}) : Nat × CLine)) other = some l := h
  simp only [FMap.get?] at h
  split at h
  · cases h
  · next hlt =>
    split at h
    · next he => exact ⟨he, (Option.some.inj h).symm⟩
    · rw [hbehind 511 (by omega)] at h
      cases h

/-- Refutes O46: its clause on the line that leaves a full cache does not ask that the list of lines rises, as its clause on an eviction does. In
`disorderedCache`, whose list does not, the line picked is not one that the core holds. `State.makeRoom_evicts` is the clause with that premise. -/
theorem not_lineEvents : ¬ Obligations.LineEvents := by
  intro h
  obtain ⟨-, -, hleaves, -⟩ := h disorderedCache 0 2
  obtain ⟨other, l, hl, hback, -⟩ := hleaves (by decide +kernel) (by decide +kernel) disorderedCache disorderedCache_makeRoom
  obtain ⟨rfl, rfl⟩ := disorderedCache_get? hl
  exact absurd hback (by decide +kernel)

-- A release that writes a register of the package.

/-- Thread 0 stands at STS v8, [v4], in a run that goes on. -/
def armedGroup : Group := { tids := [0], hdr := 0x1000, next := 0x1008, body := [0x00104057, 0x8000], trl := none, chk := false }

/-- An acquire of thread 0 has not taken effect, and a fence's release waits for its next store. A pre-emption discards the team. -/
def armedTeam : Team :=
  { ctx := 0, core := 0, slot := 0, tr := { regs := 16, scratch := 4, rst := true, discard := 1 }, threads := [{ armed := true }],
    groups := [(0, armedGroup)], pinned := [(0, 0)], wbs := [{ id := 1, tid := some 0, owner := 0, reg := .v 9, val := none, acq := true }] }

/-- Core 0 holds a dirty copy of the line of die 0's register prq.go, whose byte asks for the pre-emption of core 0 (R382). -/
def armedState : State :=
  { teams := [(0, armedTeam)], cur := some (0, 0), dies := [(0, { prqMask := 1 })],
    cores := [(0, { lines := [((mmioBase + 0x300000) / 128, { cells := [(0x28, (1, true))] })] })] }

theorem SameMachine.dies {s s' : State} (h : SameMachine s s') : s'.dies = s.dies := by
  rw [← (show _ = s from h)]

/-- Die 0 is busy with a pre-emption after an outcome. -/
def preempting (o : Host.Outcome State Fault Refusal) : Bool :=
  match o with
  | .next s => (s.die 0).busy
  | _ => false

theorem armedState_preempting : preempting (exec (.sts 0 0 8 4 0) armedState) = true := by decide +kernel

theorem armedState_apart : Apart armedState ⟨0, armedTeam, 0, armedGroup⟩ (useSts 0 8 4) :=
  ⟨⟨rfl, by decide, by decide, by decide, by decide⟩, by decide⟩

/-- Refutes O16: its clause on a held access does not ask that what the release sends home is memory, though `ustore` caches nothing else. In
`armedState` the trial of the store at issue (R393) releases a dirty copy of the line of prq.go, the pre-emption ends the group in the trial, and the
store executes at once, with its release, instead of being held. -/
theorem not_scratchStore : ¬ Obligations.ScratchStore := by
  rintro ⟨-, hheld⟩
  obtain ⟨s', -, -, hexec, hsame, -⟩ := hheld 0 0 8 4 0 0x00104057 armedState ⟨0, armedTeam, 0, armedGroup⟩ 0 (by decide) armedState_apart (by decide) rfl
    (.inl (by decide)) rfl (by decide) (by unfold scratchReady; decide +kernel) (by unfold mayRelease; decide +kernel)
  have hdies : s'.dies = armedState.dies := SameMachine.dies hsame
  have hbusy := armedState_preempting
  rw [hexec] at hbusy
  have hidle : (s'.die 0).busy = (armedState.die 0).busy := by rw [State.die, hdies]; rfl
  exact absurd (hidle.symm.trans hbusy) (by decide)

end Sys2Proof.Machine

namespace Sys2Proof.Machine

open Sys2Proof Sys2Proof.Said

-- The token of a fence (R127, R249).

theorem SameThread.fenceFields {a b : Thread} (h : SameThread a b) : b.fseq = a.fseq ∧ b.fences = a.fences ∧ b.ncs = a.ncs := by
  have hseq := congrArg Thread.fseq h
  have hfences := congrArg Thread.fences h
  have hncs := congrArg Thread.ncs h
  exact ⟨hseq, hfences, hncs⟩

/-- A thread whose fences and their number are put back. -/
def Thread.withFences (n : Nat) (l : List Fence) (th : Thread) : Thread := { th with fseq := n, fences := l }

theorem SameThread.withFences {a b : Thread} (h : SameThread a b) (n : Nat) (l : List Fence) : SameThread (a.withFences n l) (b.withFences n l) := by
  have := congrArg (Thread.withFences n l) h
  exact this

/-- The same change of one thread on both sides. -/
theorem SameTeam.updThread_both {a b : Team} (h : SameTeam a b) (tid : Nat) {f : Thread → Thread} (hf : ∀ x y, SameThread x y → SameThread (f x) (f y)) :
    SameTeam (a.updThread tid f) (b.updThread tid f) := by
  obtain ⟨hrest, hlen, hthreads⟩ := h
  refine ⟨congrArg (fun tm : Team => tm.updThread tid f) hrest, by simpa using hlen, fun u => ?_⟩
  rw [Team.thread_updThread, Team.thread_updThread, hlen]
  split
  · exact hf _ _ (hthreads tid)
  · exact hthreads u

theorem Team.thread_updThread_self {tm : Team} {tid : Nat} (h : tid < tm.threads.length) (f : Thread → Thread) :
    (tm.updThread tid f).thread tid = f (tm.thread tid) := by
  rw [Team.thread_updThread, if_pos ⟨rfl, h⟩]

/-- The group writes registers, one of its threads changes, and the group moves on: nothing but the team changes, whose registers were written before
(`tm0`) and which its group leaves as `SameRegs` allows. -/
theorem State.writeRegs_updThread_advance {s : State} {c : Iss} (lat gap tid : Nat) (ws : List (Nat × Reg × DWord)) (f : Thread → Thread)
    (hi : s.iss = some c) (he : c.endsWell) :
    let s' := ((s.writeRegs c.t c.gid lat ws).updTeam c.t (fun tm => tm.updThread tid f)).advance c.t c.gid gap
    ∃ tm0 tm, SameMachine s s' ∧ SameOthers s s' c.t ∧ s'.team? c.t = some tm ∧ SameTeam c.tm tm0 ∧ tm0.kexc = c.tm.kexc ∧
      (∀ u r, tm0.reg u r = (c.tm.writes ws).reg u r) ∧ SameRegs (tm0.updThread tid f) tm c.goesOn := by
  intro s'
  obtain ⟨-, hteam, hgroup⟩ := State.iss_eq hi
  obtain ⟨es, hwrite⟩ := State.writeRegs_eq lat ws hteam hgroup
  let wrote (tm : Team) : Team := ((tm.writes ws).others c.gid ws c.tm).updGroup c.gid (fun g => { g with log := g.log ++ es })
  let s1 : State := s.updTeam c.t (fun tm => (wrote tm).updThread tid f)
  have hs' : s' = s1.advance c.t c.gid gap := by
    simp only [s', hwrite, State.updTeam_updTeam]
    rfl
  have hteam1 : s1.team? c.t = some ((wrote c.tm).updThread tid f) := by
    show (State.updTeam _ _ _).team? _ = _
    rw [State.team?_updTeam_self, hteam]; rfl
  have hgroup1 : FMap.get? ((wrote c.tm).updThread tid f).groups c.gid = some { c.g with log := c.g.log ++ es } := by
    show FMap.get? (FMap.upd ((c.tm.writes ws).others c.gid ws c.tm).groups c.gid _) c.gid = _
    rw [FMap.get?_upd_self, Team.get?_groups_others, Team.groups_writes, hgroup]; rfl
  obtain ⟨onward, hadvance, hsame, -, -⟩ := State.advance_eq (s := s1) gap hteam1 hgroup1 he
  rw [hs', hadvance]
  refine ⟨wrote c.tm, _, rfl, fun u hu => ?_, ?_, (SameTeam.writes ws c.tm).trans ⟨rfl, rfl, fun _ => rfl⟩, Team.kexc_writes ws c.tm,
    fun u r => Team.reg_congr rfl rfl rfl u r, hsame⟩
  · show (State.updTeam _ _ _).team? u = _
    rw [State.team?_updTeam, if_neg hu]
    show (State.updTeam _ _ _).team? u = _
    rw [State.team?_updTeam, if_neg hu]
  · show (State.updTeam _ _ _).team? _ = _
    rw [State.team?_updTeam_self, hteam1]; rfl

/-- What a FENCE of a thread covers as it issues, but for the lines of non-coherent ranges. -/
def Iss.fenceOf (c : Iss) (s : State) (cl e : BitVec 2) (tid : Nat) : Fence :=
  ⟨((c.tm.thread tid).fseq + 1) % 2 ^ 31, cl.toNat, e.toNat,
    if cl.getLsbD 1 then (s.ops.filter (fun o => o.2.team == some c.t && !o.2.done)).map Prod.fst else [],
    if cl.getLsbD 0 then (c.tm.wbs.filter (fun w => w.tid == some tid && w.val.isNone)).map (fun w => w.id) ++
      (c.tm.laters.filter (fun l => l.isOf [tid])).map (fun l => l.id) else [], false, []⟩

/-- The thread issues a fence, which covers the lines of its stores where `nc` asks for them (R103). -/
def Thread.issueFence (f : Fence) (nc : Bool) (th : Thread) : Thread :=
  { th with fseq := f.seq, fences := th.fences ++ [{ f with ncs := if nc then th.ncs else [] }] }

theorem Thread.reg_issueFence (f : Fence) (nc : Bool) (th : Thread) (tid : Nat) (r : Reg) : (th.issueFence f nc).reg tid r = th.reg tid r := by
  cases r <;> rfl

/-- The write of the token of fence number q (R249). -/
def fenceWrites (tid d q : Nat) : List (Nat × Reg × DWord) :=
  if d < 120 then (codeReg d).toList.map (fun r => (tid, r, (BitVec.ofNat 32 (2 ^ 31 + q)).setWidth 64)) else []

theorem dropLast_dstWrites (tid d : Nat) (x : Word) :
    (dstWrites tid d x).dropLast = if d < 120 then (codeReg d).toList.map (fun r => (tid, r, x.setWidth 64)) else [] := by
  rw [dstWrites, List.dropLast_concat]

theorem exec_fence {s : State} {c : Iss} {tid : Nat} (st cl : BitVec 2) (d : BitVec 7) (e : BitVec 2) (h : Apart s c (Use.dst d.toNat 1))
    (ht : c.g.tids = [tid]) :
    exec (.fence st cl d e) s = .next (((s.writeRegs c.t c.gid 2 (fenceWrites tid d.toNat (c.fenceOf s cl e tid).seq)).updTeam c.t
      (fun tm => tm.updThread tid (Thread.issueFence (c.fenceOf s cl e tid) (cl.getLsbD 0)))).advance c.t c.gid (gapOf st)) := by
  show execFence st cl d e s = _
  unfold execFence
  rw [h.gateFree]
  simp only [ht, List.flatMap_cons, List.flatMap_nil, List.append_nil, List.foldl_cons, List.foldl_nil, dropLast_dstWrites]
  rfl

theorem fenceWrites_of_code {d : Nat} {r : Reg} (hr : codeReg d = some r) (hd : d < 120) (tid q : Nat) :
    fenceWrites tid d q = [(tid, r, (BitVec.ofNat 32 (2 ^ 31 + q)).setWidth 64)] := by
  rw [fenceWrites, if_pos hd, hr]; rfl

theorem mem_fenceWrites {tid d q : Nat} {w : Nat × Reg × DWord} (h : w ∈ fenceWrites tid d q) : w.1 = tid ∧ codeReg d = some w.2.1 := by
  unfold fenceWrites at h
  split at h
  · simp only [List.mem_map, Option.mem_toList] at h
    obtain ⟨r, hr, rfl⟩ := h
    exact ⟨rfl, hr⟩
  · cases h

/-- The token has bit 31 set, and the fence's number below it (R249). -/
theorem setWidth_fenceToken {q : Nat} (h : q < 2 ^ 31) : (BitVec.ofNat 32 (2 ^ 31 + q)).setWidth 64 = BitVec.ofNat 64 (2 ^ 31 + q) := by
  apply BitVec.eq_of_toNat_eq
  simp only [BitVec.toNat_setWidth, BitVec.toNat_ofNat]
  omega

/-- The registers after a token's write: d holds it, and every other register what it held. -/
theorem Team.reg_fenceWrites (tm : Team) {tid d q : Nat} (hlen : tid < tm.threads.length) (hq : q < 2 ^ 31) :
    (∀ r, codeReg d = some r → d < 120 → (tm.writes (fenceWrites tid d q)).reg tid r = BitVec.ofNat 64 (2 ^ 31 + q)) ∧
    (∀ u r, (u ≠ tid ∨ r.isTeam = true ∨ codeReg d ≠ some r) → (tm.writes (fenceWrites tid d q)).reg u r = tm.reg u r) := by
  refine ⟨fun r hr hd => ?_, fun u r hother => Team.reg_writes_out _ tm u r fun w hw hwr => ?_⟩
  · obtain ⟨hok, -, hclip⟩ := codeReg_ok hr
    rw [fenceWrites_of_code hr hd, ← setWidth_fenceToken hq]
    exact (Team.reg_setReg tm tid tid r _ hok fun _ => ⟨rfl, hlen⟩).trans (hclip _)
  · obtain ⟨htid, hcode⟩ := mem_fenceWrites hw
    rw [hwr] at hcode
    have hthr : r.isTeam = false := (codeReg_ok hcode).2.1
    rcases hother with hu | hr | hr
    · exact ⟨hthr, fun e => hu (e.symm.trans htid)⟩
    · exact absurd (hthr.symm.trans hr) Bool.false_ne_true
    · exact absurd hcode hr

/-- A fence issued and put back again leaves the team as the token's write left it. -/
theorem SameTeam.fencePutBack {a b : Team} (h : SameTeam a b) (tid : Nat) (f : Fence) (nc : Bool) :
    SameTeam a ((b.updThread tid (Thread.issueFence f nc)).updThread tid (Thread.withFences (a.thread tid).fseq (a.thread tid).fences)) := by
  obtain ⟨hrest, hlen, hthreads⟩ := h
  refine ⟨hrest, by simpa using hlen, fun u => ?_⟩
  rw [Team.thread_updThread]
  split
  · next hu =>
    obtain ⟨rfl, hin⟩ := hu
    rw [Team.thread_updThread_self (by simpa using hin)]
    exact (hthreads u).withFences _ _
  · next hu =>
    rw [Team.thread_updThread, if_neg (by simpa using hu)]
    exact hthreads u

/-- Settles O23: the token's write and the fence change the team apart from each other, and the group's moving on keeps both. -/
theorem fenceToken : Obligations.FenceToken := by
  intro st cl d e s c tid _ h hends htids hlen q
  obtain ⟨tm0, tm, hmachine, hothers, hteam, hsame0, hkexc0, hreg0, hsame⟩ := State.writeRegs_updThread_advance 2 (gapOf st) tid
    (fenceWrites tid d.toNat q) (Thread.issueFence (c.fenceOf s cl e tid) (cl.getLsbD 0)) h.iss hends
  have hreg : ∀ u r, (r.isT = true → c.goesOn) → tm.reg u r = (c.tm.writes (fenceWrites tid d.toNat q)).reg u r := fun u r hr =>
    ((hsame.reg u r hr).trans (Team.foldUpd_reg [tid] (fun _ => Thread.issueFence _ _) tm0 u r fun _ th => Thread.reg_issueFence _ _ th u r)).trans (hreg0 u r)
  obtain ⟨htoken, hkept⟩ := Team.reg_fenceWrites (d := d.toNat) c.tm hlen (q := q) (Nat.mod_lt _ (by decide))
  have hthread := Team.thread_updThread_self (lt_of_lt_of_eq hlen hsame0.2.1.symm) (Thread.issueFence (c.fenceOf s cl e tid) (cl.getLsbD 0))
  obtain ⟨-, hfences0, hncs0⟩ := (hsame0.2.2 tid).fenceFields
  obtain ⟨hseq, hfences, -⟩ := (hsame.team.2.2 tid).fenceFields
  rw [hthread] at hseq hfences
  refine ⟨_, tm, exec_fence st cl d e h htids, hmachine, hothers, hteam, fun r hr hd hon => (hreg tid r hon).trans (htoken r hr hd),
    fun u r hon hother => (hreg u r hon).trans (hkept u r hother), hseq, ?_, hsame.kexc.trans hkexc0, ?_⟩
  · rw [hfences, Thread.issueFence, hfences0, hncs0]
    simp only [Iss.fenceOf, Later.isOf, List.contains_cons, List.contains_nil, Bool.or_false]
    rfl
  · exact (hsame0.fencePutBack tid _ _).trans (hsame.team.updThread_both tid fun _ _ hxy => hxy.withFences _ _)

end Sys2Proof.Machine

namespace Sys2Proof.Machine

open Sys2Proof Sys2Proof.Said

-- A team goes on standing, with its threads.

theorem stands_updTeam {s : State} {c : Iss} (h : stands s c) (t : Nat) (f : Team → Team) (hf : ∀ tm, (f tm).threads.length = tm.threads.length) :
    stands (s.updTeam t f) c := by
  obtain ⟨tm, htm, hlen⟩ := h
  rw [stands, State.team?_updTeam]
  split
  · next e => exact ⟨f tm, by rw [← e, htm]; rfl, (hf tm).trans hlen⟩
  · exact ⟨tm, htm, hlen⟩

theorem stands_owe {s : State} {c : Iss} (h : stands s c) (t id owner : Nat) (uniform acq : Bool) (rs : List (Reg × Option DWord)) (fl : BitVec 5) (obs : Bool)
    (also : List Nat) : stands (s.owe t id owner uniform acq rs fl obs also) c := by
  refine stands_updTeam h t _ fun tm => ?_
  refine (Team.firm_fold rs _ owner).2.1.trans ?_
  split
  · exact Team.length_updThread _ _ _
  · rfl

theorem stands_addOp {s : State} {c : Iss} (h : stands s c) (o : Op) : stands (s.addOp o).2 c := by
  unfold State.addOp
  cases o.team with
  | none => exact h
  | some t =>
    by_cases hcls : o.cls < 4
    · simp only [hcls, if_true]
      exact stands_updTeam (s := { s with nextId := s.nextId + 1, ops := _ }) h _ _ fun _ => rfl
    · simp only [hcls, if_false]
      exact h

-- The moves of accumulator rows (R119, R300).

/-- The address that ALD and AST name with k and k + 1: in memory with bit 32 of the second, else in scratch. -/
def Iss.moveAddr (c : Iss) (s : State) (k : Nat) : Nat :=
  if bit (c.k s (k + 1)).toNat 32 then (c.k s k).toNat else (c.k s k).toNat % 2 ^ 32

/-- The rows m from f on of the team, each to or from its 256 bytes. -/
def Iss.rowMoves (c : Iss) (store : Bool) (f m : Nat) (at_ : Loc) : List Chunk :=
  (List.range m).map (fun r =>
    let near := at_.add (256 * r)
    let row := Loc.acc (c.tm.accBase * 64 + f + r) 0
    ⟨if store then row else near, if store then near else row, 256, 0, .move⟩)

/-- Where the memory or the scratch of such a move begins, if it is in range. -/
def Iss.movePlace (c : Iss) (s s0 : State) (k : Nat) : Option Loc :=
  if bit (c.k s (k + 1)).toNat 32 then some (.glob (c.k s k))
  else (s0.scrAt c.t (c.moveAddr s k) (256 * bits (c.k s (k + 1)).toNat 31 16)).map (fun p => .scr p.1 p.2)

/-- Its status at the issue (R300). -/
def Iss.moveStatus (c : Iss) (s s0 : State) (k : Nat) : Nat :=
  if bits (c.k s (k + 1)).toNat 31 16 = 0 then 1 else if (c.k s (k + 1)).toNat / 2 ^ 33 ≠ 0 then 5
  else if (c.movePlace s s0 k).isNone then 4 else 0

/-- The operation that ALD or AST issues in the state s0, its registers read in s. -/
def Iss.moveOp (c : Iss) (s s0 : State) (k : Nat) (store : Bool) (tid : Nat) (after : List Nat) : Op :=
  let y := (c.k s (k + 1)).toNat
  let f := bits y 15 0
  let m := bits y 31 16
  let status := c.moveStatus s s0 k
  let chunks := if status = 0 then c.rowMoves store f m ((c.movePlace s s0 k).getD .skip) else []
  { c.newOp tid 2 (if store then .ast f m (if bit y 32 then some (c.k s k) else none) else .ald) [s0.nextId] with
    chunks, status, whole := if store && bit y 32 && status == 0 then (wholeTiles 1 chunks).map (fun t => (t, 0)) else [], bytes := 256 * m, after }

/-- Refused, it moves nothing. -/
theorem Iss.moveOp_refused {c : Iss} {s s0 : State} {k n : Nat} (store : Bool) (tid : Nat) (after : List Nat) (h : c.moveStatus s s0 k = n) (hn : n ≠ 0) :
    (c.moveOp s s0 k store tid after).status = n ∧ (c.moveOp s s0 k store tid after).chunks = [] :=
  ⟨h, if_neg (h.trans_ne hn)⟩

/-- In range, it moves every row. -/
theorem Iss.moveOp_moves {c : Iss} {s s0 : State} {k : Nat} {at_ : Loc} (store : Bool) (tid : Nat) (after : List Nat)
    (hm : bits (c.k s (k + 1)).toNat 31 16 ≠ 0) (hy : (c.k s (k + 1)).toNat / 2 ^ 33 = 0) (hat : c.movePlace s s0 k = some at_) :
    (c.moveOp s s0 k store tid after).status = 0 ∧
      (c.moveOp s s0 k store tid after).chunks =
        c.rowMoves store (bits (c.k s (k + 1)).toNat 15 0) (bits (c.k s (k + 1)).toNat 31 16) at_ := by
  have hstatus : c.moveStatus s s0 k = 0 := by
    rw [Iss.moveStatus, if_neg hm, if_neg (not_not.mpr hy), hat]; rfl
  exact ⟨hstatus, (if_pos hstatus).trans (by rw [hat]; rfl)⟩

theorem State.accMove_alone {s : State} {c : Iss} {tid : Nat} (st : BitVec 2) (k : BitVec 6) (d : BitVec 7) (store : Bool)
    (h : Apart s c ((Use.ksrc k.toNat 2).add (Use.dst d.toNat 1))) (ha : c.alone tid)
    (hrows : bits (c.k s (k.toNat + 1)).toNat 15 0 + bits (c.k s (k.toNat + 1)).toNat 31 16 ≤ c.tm.tr.acc)
    (haligned : c.moveAddr s k.toNat % 256 = 0) (hstands : stands (starts s c true) c) (hroom : (starts s c true).cntRoom c.t 2 = true) :
    let s0 := starts s c true
    s.accMove st k d store = Said.issued ((({ s0 with nextId := s0.nextId + 1 } : State).owe c.t s0.nextId tid false false
      (resultRegs d.toNat 1 false none) 0 true).addOp (c.moveOp s s0 k.toNat store tid (startsAfter s c true tid))).2 c tid (gap st) := by
  intro s0
  let one (s' : State) (tid : Nat) : State := ((({ s' with nextId := s'.nextId + 1 } : State).owe c.t s'.nextId tid false false
      (resultRegs d.toNat 1 false none) 0 true).addOp (c.moveOp s s' k.toNat store tid (startsAfter s c true tid))).2
  obtain ⟨tm, htm, hlen⟩ : stands (one s0 tid) c := stands_addOp (stands_owe (s := { s0 with nextId := s0.nextId + 1 }) hstands _ _ _ _ _ _ _ _ _) _
  unfold State.accMove
  rw [h.gateFree]
  refine (if_neg (Nat.not_lt.mpr hrows)).trans ((if_neg (not_not.mpr haligned)).trans ?_)
  rw [State.engineIssue_starts]
  exact State.issueEach_alone (gapOf st) (one := one) ha hroom ⟨tm, htm, hlen.symm ▸ ha.2.1⟩

/-- Settles O35: both instructions issue `moveOp`, whose status the operands give in the order of R300. -/
theorem accumulatorMoves : Obligations.AccumulatorMoves := by
  intro st k d store s c tid i _ h ha s0 a y f m addr moves hstands hroom hrows haligned
  have haddr : c.moveAddr s k.toNat = addr := by simp only [Iss.moveAddr, bit_eq_testBit]; rfl
  have hexec : exec i s = .next (s.accMove st k d store) := by cases store <;> rfl
  refine ⟨c.moveOp s s0 k.toNat store tid (startsAfter s c true tid),
    hexec.trans (congrArg _ (State.accMove_alone st k d store h ha hrows (haddr ▸ haligned) hstands hroom)), rfl, rfl, rfl, rfl, rfl, rfl, rfl, ?_⟩
  have hglob : bit y 32 = y.testBit 32 := bit_eq_testBit y 32
  refine ⟨fun hm => ?_, fun hm hy => ?_, fun hm hy hg => ?_, fun hm hy hg hnone => ?_, fun hm hy hg u off hat => ?_⟩
  · exact Iss.moveOp_refused store tid _ (if_pos hm) (by decide)
  · exact Iss.moveOp_refused store tid _ ((if_neg hm).trans (if_pos hy)) (by decide)
  · exact Iss.moveOp_moves store tid _ hm hy (if_pos (hglob.trans hg))
  · have hplace : c.movePlace s s0 k.toNat = none := by
      rw [Iss.movePlace, if_neg (ne_true_of_eq_false (hglob.trans hg)), haddr, hnone]; rfl
    exact Iss.moveOp_refused store tid _ ((if_neg hm).trans ((if_neg (not_not.mpr hy)).trans (if_pos (by rw [hplace]; rfl)))) (by decide)
  · have hplace : c.movePlace s s0 k.toNat = some (.scr u off) := by
      rw [Iss.movePlace, if_neg (ne_true_of_eq_false (hglob.trans hg)), haddr, hat]; rfl
    exact Iss.moveOp_moves store tid _ hm hy hplace

end Sys2Proof.Machine

namespace Sys2Proof.Machine

open Sys2Proof Sys2Proof.Said

-- Futures of one thread (R228, R229).

/-- No lane of such a group traps at its address. -/
theorem laneTrap_none {s : State} {c : Iss} {va : Nat → DWord} {n : Nat} {k : Access} {fut store : Bool} (h : laneOk s c va n k fut store) :
    ∀ tid ∈ c.g.tids, exceptTrap (c.laneAddr s (va tid) n k fut store) = none := fun tid htid => by
  obtain ⟨e, he⟩ := h tid htid
  rw [he]; rfl

@[simp] theorem sortNat_singleton (n : Nat) : sortNat [n] = [n] := rfl
@[simp] theorem dedup_singleton (n : Nat) : dedup [n] = [n] := rfl

section

variable {s : State} {c : Iss} {tid : Nat} (st : BitVec 2) (d a : BitVec 7) (p : BitVec 3) (ht : c.g.tids = [tid])

include ht

/-- FGET at a home slice comes to the word, once the core's own words of the line are home (R104). -/
theorem exec_fget_alone (h : Calm s c ((Use.src a.toNat 2).add ((Use.dst d.toNat 2).add (Use.pdst p.toNat))))
    (hok : laneOk s c (fun tid => c.src64 s tid a.toNat) 8 .read true false)
    (hwait : s.homeWaits c.tm.core false [c.lanePa s (c.src64 s tid a.toNat)] = false) :
    exec (.fget st d a p) s = .next (((s.prepAll c [(c.src64 s tid a.toNat, c.lanePa s (c.src64 s tid a.toNat))]).fgetAt c
      (c.lanePa s (c.src64 s tid a.toNat)).1 d.toNat p.toNat [tid]).advance c.t c.gid (gapOf st)) := by
  show Host.Outcome.next (s.forbidden ((Use.src a.toNat 2).add ((Use.dst d.toNat 2).add (Use.pdst p.toNat))) _) = _
  rw [h.forbidden, State.splitTraps_none (laneTrap_none hok)]
  simp only [ht, sortNat_singleton, List.map_cons, List.map_nil, hwait, Bool.false_eq_true, if_false, dedup_singleton, List.foldl_cons,
    List.foldl_nil, List.filter_cons, List.filter_nil, beq_self_eq_true, if_true]

/-- FPUT at a home slice releases, then writes the word and answers what was deferred there. -/
theorem exec_fput_alone (h : Calm s c ((Use.src a.toNat 2).add ((Use.src d.toNat 2).add (Use.pdst p.toNat))))
    (hok : laneOk s c (fun tid => c.src64 s tid a.toNat) 8 .write true true)
    (hwait : s.homeWaits c.tm.core true [c.lanePa s (c.src64 s tid a.toNat)] = false) (hrel : s.canRelease c.tm.core = true) :
    let at_ := c.lanePa s (c.src64 s tid a.toNat)
    let r := released s c true
    let s0 := r.prepAll c [(c.src64 r tid a.toNat, at_)]
    let v := (c.src64 s0 tid d.toNat).toNat ||| 2 ^ 63
    let s1 := (s0.homeWrite { core := some c.tm.core, pte := some at_.2, ctx := c.tm.ctx } at_.1 (natLe 8 v)).answerDeferred at_.1 v
    exec (.fput st d a p) s = .next ((owes s1 c tid false
      [(.p p.toNat, some (BitVec.ofNat 64 (b2n (bit (leNat (s0.homeBytes at_.1 8)) 63))))]).advance c.t c.gid (gapOf st)) := by
  show Host.Outcome.next (s.forbidden ((Use.src a.toNat 2).add ((Use.src d.toNat 2).add (Use.pdst p.toNat))) _) = _
  rw [h.forbidden, State.splitTraps_none (laneTrap_none hok)]
  simp only [ht, sortNat_singleton, List.map_cons, List.map_nil, hwait, Bool.false_eq_true, if_false]
  rw [State.withRelease_yes rfl hrel]
  rfl

end

/-- A full word is answered at once (R228). -/
theorem State.fgetAt_full {s : State} {pa : Nat} (c : Iss) (d p tid : Nat) (h : (leNat (s.homeBytes pa 8)).testBit 63 = true) :
    s.fgetAt c pa d p [tid] = owes (s.acquire c.tm.core) c tid false ((.p p, some 0) :: resultRegs d 2 false (some (leNat (s.homeBytes pa 8)))) := by
  unfold State.fgetAt
  exact if_pos ((bit_eq_testBit _ _).trans h)

/-- Of an empty one, where the slice's entries are in use, the predicate alone is answered (R229). -/
theorem State.fgetAt_noRoom {s : State} {pa : Nat} (c : Iss) (d p tid : Nat) (h : (leNat (s.homeBytes pa 8)).testBit 63 = false)
    (hfull : 256 ≤ s.deferUsed pa) : s.fgetAt c pa d p [tid] = owes s c tid false [(.p p, some 1)] := by
  unfold State.fgetAt
  exact (if_neg (ne_true_of_eq_false ((bit_eq_testBit _ _).trans h))).trans (if_pos hfull)

/-- Else the thread is deferred, and its results are owed (R229). -/
theorem State.fgetAt_defers {s : State} {pa : Nat} (c : Iss) (d p tid : Nat) (h : (leNat (s.homeBytes pa 8)).testBit 63 = false)
    (hroom : s.deferUsed pa < 256) :
    let s1 := owes s c tid true ((.p p, none) :: resultRegs d 2 false none)
    s.fgetAt c pa d p [tid] = { s1 with units := { s1.units with defer := s1.units.defer ++ [(pa, [(c.t, s.nextId)])] } } := by
  unfold State.fgetAt
  exact (if_neg (ne_true_of_eq_false ((bit_eq_testBit _ _).trans h))).trans (if_neg (Nat.not_le.mpr hroom))

/-- Settles O21: FGET by the three cases of `fgetAt`, FPUT by its one. -/
theorem futures : Obligations.Futures := by
  refine ⟨fun st d a p s c tid _ h ht hok => ?_, fun st d a p s c tid _ h ht hok => ?_⟩
  · intro at_ hwait s0 v
    rw [exec_fget_alone st d a p ht h hok hwait]
    refine ⟨fun hfull => ?_, fun hempty hused => ?_, fun hempty hroom => ?_⟩
    · rw [State.fgetAt_full c d.toNat p.toNat tid hfull]; rfl
    · rw [State.fgetAt_noRoom c d.toNat p.toNat tid hempty hused]; rfl
    · rw [State.fgetAt_defers c d.toNat p.toNat tid hempty hroom]; rfl
  · intro at_ hwait hrel r s0 v
    have hwas : BitVec.ofNat 64 (b2n (bit (leNat (s0.homeBytes at_.1 8)) 63)) = if (leNat (s0.homeBytes at_.1 8)).testBit 63 then 1 else 0 := by
      rw [bit_eq_testBit]
      cases (leNat (s0.homeBytes at_.1 8)).testBit 63 <;> rfl
    rw [exec_fput_alone st d a p ht h hok hwait hrel, hwas]
    rfl

end Sys2Proof.Machine

namespace Sys2Proof.Machine

open Sys2Proof Sys2Proof.Said

-- Phase objects by an instruction of one thread (R105, R247, R248).

/-- An instruction that comes in the turn of its threads' accesses does not wait where those on their way are held by an acquire (R42, R393). -/
theorem State.inTurn_inOrder {s : State} {c : Iss} (h : inOrder c) (u : Use) (gap : Nat) (k : State → State) : s.inTurn c u gap k = k s := by
  refine if_neg fun hwait => ?_
  obtain ⟨hnone, hacq⟩ := Bool.and_eq_true_iff.mp hwait
  exact h hacq (List.isEmpty_iff.mp hnone)

/-- BINIT and BEXPECT come to their object behind an acquire that holds accesses, too. -/
theorem Apart.phaseGate {s : State} {c : Iss} {u : Use} (h : Apart s c u) (ho : inOrder c) (gap : Nat) (k : Iss → State → State) :
    s.forbiddenAs false u (fun s c => s.inTurn c u gap (k c)) = k c s :=
  (h.forbiddenFree _).trans (State.inTurn_inOrder ho u gap (k c))

/-- BARRIVE comes to it where no acquire holds it (R393). -/
theorem Calm.phaseGate {s : State} {c : Iss} {u : Use} (h : Calm s c u) (gap : Nat) (k : Iss → State → State) :
    s.forbiddenAs true u (fun s c => s.inTurn c u gap (k c)) = k c s :=
  (h.forbidden _ false).trans (State.inTurn_calm h.acquired u gap (k c))

/-- A release that is possible, where one is wanted, is made before the effect. -/
theorem State.withRelease_may {s : State} {c : Iss} {want : Bool} (h : mayRelease s c want) (u : Use) (gap : Nat) (k : State → State) :
    s.withRelease c u gap want k = k (released s c want) := by
  cases want
  · exact State.withRelease_no rfl u gap k
  · exact State.withRelease_yes rfl (h rfl) u gap k

/-- What the token of a refused operation tells (R248). -/
def refusal (status : Nat) : Nat := status * 2 ^ 32

/-- The state in which an operation sees its object: the core's own words of it are at home (R104), and its translation is kept. -/
def State.phaseNear (s : State) (c : Iss) (x : DWord) (p : PhAt) : State :=
  match p with
  | .mem pa e => ((s.fillTlb c.tm.xlat x e).homePrep c.tm.core pa 16).noRoute c.tm.dieOf c.tm.ctx pa
  | .scr _ _ => s

/-- A phase object as it stands, and the arrivals held at it. -/
def State.phaseSeen (s : State) (p : PhAt) : Phase × Nat := (Phase.ofNat (s.phGet p), FMap.getD s.units.heldArr p.key 0)

section

variable {s : State} {c : Iss} {tid : Nat} (st : BitVec 2) (u : Use) (d a : BitVec 6) {g : BitVec 1} {reads : Bool} {pre : Iss → Nat}
  {rel : Option (State → PhAt → Bool)} (f : Iss → Phase × Nat → (Phase × Nat) × Nat × Nat) (ht : c.g.tids = [tid])
  (hgate : ∀ k : Iss → State → State, s.forbiddenAs rel.isSome (u.add ((Use.ksrc a.toNat 1).add (Use.kdst d.toNat 1)))
    (fun s c => s.inTurn c (u.add ((Use.ksrc a.toNat 1).add (Use.kdst d.toNat 1))) (gapOf st) (k c)) = k c s)

include ht hgate

theorem State.phaseOp_outOfRange (hfind : s.findPhase c g (c.k s a.toNat) reads = .none) :
    s.phaseOp st u d a g reads pre rel f = told s c tid d (gap st) (refusal (if pre c = 0 then 4 else pre c)) := by
  refine (hgate _).trans ?_
  simp only [hfind, ht, sortNat_singleton]
  rfl

theorem State.phaseOp_refused {p : PhAt} (hfind : s.findPhase c g (c.k s a.toNat) reads = .at p) (hpre : pre c ≠ 0) :
    s.phaseOp st u d a g reads pre rel f = told s c tid d (gap st) (refusal (pre c)) := by
  refine (hgate _).trans ?_
  simp only [hfind, ht, sortNat_singleton]
  exact if_pos hpre

/-- An operation that its operands do not refuse updates its object after the release that it makes, if any, unless the object refuses it. -/
theorem State.phaseOp_at {p : PhAt} {near : State} {want : Bool} (hfind : s.findPhase c g (c.k s a.toNat) reads = .at p) (hpre : pre c = 0)
    (hnear : s.phaseNear c (c.k s a.toNat) p = near) (hwant : rel.any (fun r => r near p) = want) (hrel : mayRelease near c want) :
    let s0 := released near c want
    let r := f c (s0.phaseSeen p)
    s.phaseOp st u d a g reads pre rel f = told (if r.2.2 = 0 then s0.phUpdate p (fun y => (f c y).1) c.tm.ctx else s0) c tid d (gap st)
      (r.2.1 + refusal r.2.2) := by
  subst hnear hwant
  refine (hgate _).trans ?_
  simp only [hfind, hpre, ht, sortNat_singleton]
  exact (if_neg (not_not.mpr rfl)).trans (State.withRelease_may hrel _ (gapOf st) _)

end

theorem told_zero (s : State) (c : Iss) (tid : Nat) (d : BitVec 6) (g v : Nat) : told s c tid d g (v + refusal 0) = told s c tid d g v := by
  rw [refusal, Nat.zero_mul, Nat.add_zero]

/-- One arrival at an object, with the phase and the status that its token tells: none where its expected arrivals are 0 (R247, R248). -/
def Phase.arrival (x : Phase × Nat) : (Phase × Nat) × Nat × Nat := if x.1.expa = 0 then (x, 0, 5) else (Phase.arrive x, Phase.toward x, 0)

theorem Phase.arrival_refused {x : Phase × Nat} (h : x.1.expa = 0) : Phase.arrival x = (x, 0, 5) := if_pos h

theorem Phase.arrival_counts {x : Phase × Nat} (h : x.1.expa ≠ 0) : Phase.arrival x = (Phase.arrive x, Phase.toward x, 0) := if_neg h

/-- Settles O28: BINIT and BEXPECT pass `phaseOp` without a release, BARRIVE with one, and each finds its object, or none. -/
theorem phaseOps : Obligations.PhaseOps := by
  intro st d a b g s c tid p ht near see told' w
  have hnear : s.phaseNear c (c.k s a.toNat) p = near s := by cases p <;> rfl
  refine ⟨fun h ho => ?_, fun h => ?_⟩
  · have hgate := h.phaseGate ho (gapOf st)
    have hquiet : mayRelease (near s) c false := fun hno => absurd hno Bool.false_ne_true
    let pre (c : Iss) : Nat := if (c.k s b.toNat).toNat % 2 ^ 12 = 0 then 5 else 0
    refine ⟨fun hfind => ?_, fun hfind => ?_, fun hfind => ?_, fun hfind => ?_⟩
    · show Host.Outcome.next (s.phaseOp st (Use.ksrc b.toNat 1) d a g false pre none _) = _
      by_cases hw : w % 2 ^ 12 = 0
      · have hpre : pre c = 5 := if_pos hw
        rw [State.phaseOp_refused st _ d a _ ht hgate hfind (hpre.trans_ne (by decide)), hpre, if_pos hw]
        rfl
      · have hpre : pre c = 0 := if_neg hw
        rw [State.phaseOp_at (want := false) st _ d a _ ht hgate hfind hpre hnear rfl hquiet, if_neg hw, if_pos rfl, told_zero]
        rfl
    · show Host.Outcome.next (s.phaseOp st (Use.ksrc b.toNat 1) d a g false pre none _) = _
      have hstatus : refusal (if pre c = 0 then 4 else pre c) = if w % 2 ^ 12 = 0 then 5 * 2 ^ 32 else 4 * 2 ^ 32 := by
        show refusal (if (if w % 2 ^ 12 = 0 then 5 else 0) = 0 then 4 else if w % 2 ^ 12 = 0 then 5 else 0) = _
        split <;> rfl
      rw [State.phaseOp_outOfRange st _ d a _ ht hgate hfind, hstatus]
      rfl
    · exact congrArg Host.Outcome.next (State.phaseOp_outOfRange st _ d a _ ht hgate hfind)
    · show Host.Outcome.next (s.phaseOp st (Use.ksrc b.toNat 1) d a g true _ none _) = _
      rw [State.phaseOp_at (pre := fun _ => 0) (want := false) st _ d a _ ht hgate hfind rfl hnear rfl hquiet, if_pos rfl, told_zero]
      rfl
  · have hgate := h.phaseGate (gapOf st)
    refine ⟨fun hfind => congrArg Host.Outcome.next (State.phaseOp_outOfRange st _ d a _ ht hgate hfind), fun hfind hrel => ?_⟩
    intro s0
    show Host.Outcome.next (s.phaseOp st {} d a g true _ (some _) (fun _ => Phase.arrival)) = _
    rw [State.phaseOp_at (pre := fun _ => 0) (want := (see (near s)).1.expa != 0) st _ d a _ ht hgate hfind rfl hnear rfl hrel]
    show Host.Outcome.next (told (if (Phase.arrival (see s0)).2.2 = 0 then _ else s0) c tid d (gap st)
      ((Phase.arrival (see s0)).2.1 + refusal (Phase.arrival (see s0)).2.2)) = _
    by_cases hexpa : (see s0).1.expa = 0
    · rw [Phase.arrival_refused hexpa, if_pos hexpa, if_neg (show (5 : Nat) ≠ 0 by decide), Nat.zero_add]
      rfl
    · rw [Phase.arrival_counts hexpa, if_neg hexpa, if_pos rfl, told_zero]
      rfl

end Sys2Proof.Machine

namespace Sys2Proof.Machine

open Sys2Proof Sys2Proof.Said

-- A matrix instruction at the end of its run, in a disordered table of groups (R288).

/-- Thread 0 stands at an MMA of slot 0 by itself, the one instruction of its run. -/
def lastGroup : Group := { tids := [0], hdr := 0x1000, next := 0x1008, body := [0x6F], trl := none, chk := false }

/-- Threads 1 and 2 stand at such an MMA in another run; thread 1 has issued its part of it. -/
def halfGroup : Group := { tids := [1, 2], hdr := 0x2000, next := 0x2008, body := [0x6F], trl := none, chk := false }

/-- A team whose list of groups, not in rising order, names both groups 0: the first is what the name reads, and once its run has ended the second. -/
def doubledTeam : Team :=
  { ctx := 0, core := 0, slot := 0, tr := { threads := 3, regs := 16, cv := 1, acc := 64 }, threads := [{}, { part := true }, {}],
    groups := [(0, lastGroup), (0, halfGroup)], nextGroup := 1 }

/-- The team holds slot 0 of its core, with an i8 tile. -/
def doubledState : State :=
  { teams := [(0, doubledTeam)], cur := some (0, 0), cores := [(0, { slots := [(0, { state := 3, team := 0, fmt := 6 })] })] }

/-- The group of thread 0, and what its MMA names: signature register, unit and slot 0. -/
def doubledIss : Iss := ⟨0, doubledTeam, 0, lastGroup⟩
def doubledMat : Mat := ⟨0, 0, 0, [0], none, false, false, false⟩

theorem doubledState_apart : Apart doubledState doubledIss {} :=
  ⟨⟨rfl, by decide, by decide, by decide, by decide⟩, by decide⟩

theorem doubledState_signed : signed doubledState doubledIss doubledMat := ⟨doubledTeam, rfl, rfl, by decide, by decide +kernel⟩

theorem doubledState_starts_signed : signed (starts doubledState doubledIss true) doubledIss doubledMat :=
  ⟨(((starts doubledState doubledIss true).team? 0).getD doubledTeam), by decide +kernel, by decide +kernel, by decide +kernel, by decide +kernel⟩

/-- The next free name after an outcome. -/
def nameAfter (o : Host.Outcome State Fault Refusal) : Option Nat :=
  match o with
  | .next s => some s.nextId
  | _ => none

/-- The MMA takes a name for its operation, and the group that its name then reads takes one more, as one that waits at the instruction. -/
theorem nameAfter_mma : nameAfter (exec (.mma 0 0 0 0 0 0 0 0) doubledState) = some 3 := by decide +kernel

/-- Refutes O30, which does not ask that the team's table of groups is in order. After the issue the model reads the group once more, so that it waits
at the instruction where some of its threads have issued and others have not. In `doubledState` the group's run ends with the MMA, its name then reads the
other group, and that one is made to wait. -/
theorem not_matrixIssues : ¬ Obligations.MatrixIssues := by
  intro h
  obtain ⟨st, hexec⟩ := h (.mma 0 0 0 0 0 0 0 0) _ _ doubledState doubledIss 0 rfl (by decide) doubledState_apart ⟨rfl, by decide, rfl⟩
    (by decide) (by decide) (by decide +kernel) doubledState_signed doubledState_starts_signed (by decide +kernel)
  have hname := congrArg nameAfter hexec
  rw [nameAfter_mma] at hname
  clear hexec
  revert st
  decide +kernel

end Sys2Proof.Machine

namespace Sys2Proof.Laws

open Sys2Proof Sys2Proof.Machine

-- Fields of words that are written as pieces one after another. `no_index` lets simp find them where the width is written as a numeral.

/-- A field that lies in the high piece. -/
theorem extract_append_high {n m : Nat} (x : BitVec n) (y : BitVec m) {lo k : Nat} (h : m ≤ lo) :
    @BitVec.extractLsb' (no_index (n + m)) lo k (no_index (x ++ y)) = x.extractLsb' (lo - m) k := BitVec.extractLsb'_append_eq_of_le h

/-- A field that lies in the low piece. -/
theorem extract_append_low {n m : Nat} (x : BitVec n) (y : BitVec m) {lo k : Nat} (h : lo + k ≤ m) :
    @BitVec.extractLsb' (no_index (n + m)) lo k (no_index (x ++ y)) = y.extractLsb' lo k := BitVec.extractLsb'_append_eq_of_add_le h

/-- A field that reaches from the low piece into the high one has a value when each piece has its part of it. -/
theorem extract_append_across {n m : Nat} (x : BitVec n) (y : BitVec m) {lo k : Nat} (z : BitVec k) (h : lo < m) (h' : m < lo + k) :
    @BitVec.extractLsb' (no_index (n + m)) lo k (no_index (x ++ y)) = z ↔
      x.extractLsb' 0 (lo + k - m) = z.extractLsb' (m - lo) (lo + k - m) ∧ y.extractLsb' lo (m - lo) = z.extractLsb' 0 (m - lo) := by
  show (x ++ y).extractLsb' lo k = z ↔ _
  simp only [BitVec.eq_of_getLsbD_eq_iff, BitVec.getLsbD_extractLsb', BitVec.getLsbD_append]
  constructor
  · intro hz
    refine ⟨fun i hi => ?_, fun i hi => ?_⟩
    · have := hz (m - lo + i) (by omega)
      simpa [hi, show ¬ lo + (m - lo + i) < m by omega, show lo + (m - lo + i) - m = i by omega, show m - lo + i < k by omega] using this
    · have := hz i (by omega)
      simpa [hi, show lo + i < m by omega, show i < k by omega] using this
  · rintro ⟨hx, hy⟩ i hi
    by_cases hm : lo + i < m
    · have := hy i (by omega)
      simpa [hi, hm, show i < m - lo by omega] using this
    · have := hx (lo + i - m) (by omega)
      simpa [hi, hm, show lo + i - m < lo + k - m by omega, show m - lo + (lo + i - m) = i by omega] using this

/-- The whole word has a value when each piece has its part of it. -/
theorem append_eq_iff {n m : Nat} (x : BitVec n) (y : BitVec m) (z : BitVec (n + m)) :
    @Eq (BitVec (no_index (n + m))) (no_index (x ++ y)) z ↔ x = z.extractLsb' m n ∧ y = z.extractLsb' 0 m := by
  show x ++ y = z ↔ _
  constructor
  · rintro rfl
    exact ⟨BitVec.extractLsb'_append_eq_left.symm, BitVec.extractLsb'_append_eq_right.symm⟩
  · rintro ⟨rfl, rfl⟩
    rw [BitVec.extractLsb'_append_extractLsb'_eq_extractLsb' (by omega), BitVec.extractLsb'_eq_self]

/-- The major of a word whose lowest piece is its 7 bits of length and major. -/
theorem major_of_low7 {w : BitVec 32} {x : BitVec 25} {y : BitVec 7} (h : w = x ++ y) : (fld w 1 6).toNat = (y.extractLsb' 1 6).toNat := by
  rw [h, fld, extract_append_low x y (by decide)]

/-- The major of a word of BR, whose lowest piece has the two bits of func besides. -/
theorem major_of_low9 {w : BitVec 32} {x : BitVec 23} {y : BitVec 9} (h : w = x ++ y) : (fld w 1 6).toNat = (y.extractLsb' 1 6).toNat := by
  rw [h, fld, extract_append_low x y (by decide)]

-- The encoder's words.

/-- A 32-bit word has bit 0 set (R144). -/
theorem low_of_encode32 {i : Instr} {w : BitVec 32} (h : encode i = some (.w32 w)) : w.getLsbD 0 = true := by
  cases i <;> cases h
  case exit => rfl
  all_goals exact low_append _ _

/-- A 16-bit word has bit 0 clear (R144). -/
theorem low_of_encode16 {i : Instr} {w : BitVec 16} (h : encode i = some (.w16 w)) : w.getLsbD 0 = false := by
  cases i <;> cases h
  case nop => rfl
  all_goals exact low_append _ _

/-- The row that a 32-bit word is of: majors without a selector have one row each, the others test the selectors of their rows in turn. -/
theorem raw32_encode {i : Instr} {w : BitVec 32} (h : encode i = some (.w32 w)) : raw32 w = .ok i := by
  obtain ⟨v, hw⟩ : ∃ v, w = v := ⟨w, rfl⟩
  rw [hw] at h
  cases i <;> cases h
  case exit => subst hw; rfl
  case call | ret | jmpk =>
    rw [raw32, major_of_low9 hw]
    show ite _ _ _ = _
    subst hw
    simp [fld, extract_append_high, extract_append_low]
  all_goals rw [raw32, major_of_low7 hw]
  case runt | bra | kaddi | kldi | iadd | isub | imul | imin | imax | addmin | addmax | icmp | fcmp | sel | fadd | fmul | ffma | cvt | iaddi | movi |
      shfl | lds | sts | atoms | atomg =>
    show Except.ok _ = _
    subst hw
    simp only [fld, extract_append_high, extract_append_low, BitVec.extractLsb'_eq_self, Nat.reduceLeDiff, Nat.reduceAdd, Nat.reduceSub]
  all_goals
    show ite _ _ _ = _
    subst hw
    simp only [fld, extract_append_high, extract_append_low, append_eq_iff, extract_append_across, BitVec.extractLsb'_eq_self, BitVec.reduceExtractLsb',
      BitVec.reduceEq, Nat.reduceLeDiff, Nat.reduceLT, Nat.reduceAdd, Nat.reduceSub, and_true, true_and, false_and, and_false, ↓reduceIte]

/-- The row that a 16-bit word is of. -/
theorem raw16_encode {i : Instr} {w : BitVec 16} (h : encode i = some (.w16 w)) : raw16 w = .ok i := by
  cases i <;> cases h
  case nop => rfl
  all_goals
    simp only [raw16, fld16, extract_append_high, extract_append_low, extract_append_across, BitVec.extractLsb'_eq_self, BitVec.reduceExtractLsb',
      BitVec.reduceEq, Nat.reduceLeDiff, Nat.reduceLT, Nat.reduceAdd, Nat.reduceSub, and_true, and_false, ↓reduceIte]

-- Words that are legal as words (R168).

theorem legalWord_iff (i : Instr) : legalWord i = true ↔
    i.wf = true ∨ (∃ len trl pred sense chk, i = .runh len trl pred sense chk) ∨ ∃ c0 c1 c2 cnt, i = .runt c0 c1 c2 cnt := by
  cases i <;> simp [legalWord]

/-- A check of a result that lets it pass as it is. -/
theorem checked_ok_iff {α ε : Type} {p : α → Bool} {x i : α} {e : ε} :
    (if p x = true then Except.ok x else .error e) = .ok i ↔ Except.ok (ε := ε) x = .ok i ∧ p i = true := by
  split
  · next hx => exact ⟨fun h => ⟨h, Except.ok.inj h ▸ hx⟩, And.left⟩
  · next hx => exact ⟨nofun, fun h => absurd (Except.ok.inj h.1 ▸ h.2) hx⟩

theorem decode32_ok_iff {w : BitVec 32} {i : Instr} : decode32 w = .ok i ↔ raw32 w = .ok i ∧ legalWord i = true := by
  unfold decode32
  cases raw32 w with
  | error e => simp
  | ok x => exact checked_ok_iff

theorem decode16_ok_iff {w : BitVec 16} {i : Instr} : decode16 w = .ok i ↔ raw16 w = .ok i ∧ i.wf = true := by
  unfold decode16
  cases raw16 w with
  | error e => simp
  | ok x => exact checked_ok_iff

theorem decode32_encode {i : Instr} {w : BitVec 32} (hi : i.wf = true) (h : encode i = some (.w32 w)) : decode32 w = .ok i :=
  decode32_ok_iff.mpr ⟨raw32_encode h, (legalWord_iff i).mpr (.inl hi)⟩

theorem decode16_encode {i : Instr} {w : BitVec 16} (hi : i.wf = true) (h : encode i = some (.w16 w)) : decode16 w = .ok i :=
  decode16_ok_iff.mpr ⟨raw16_encode h, hi⟩

-- Words as bytes, low byte first (R3).

/-- Bit 0 of a word is bit 0 of its first byte. -/
theorem getLsbD_zero_ofNat8 {n : Nat} (w : BitVec n) : (BitVec.ofNat 8 w.toNat).getLsbD 0 = w.getLsbD 0 := by
  simp

theorem toNat_half (b0 b1 : Byte) : (half b0 b1).toNat = b1.toNat * 2 ^ 8 + b0.toNat := by
  rw [half, BitVec.toNat_append, ← Nat.shiftLeft_add_eq_or_of_lt b0.isLt, Nat.shiftLeft_eq]

theorem half_bytes (w : BitVec 16) : half (BitVec.ofNat 8 w.toNat) (BitVec.ofNat 8 (w.toNat >>> 8)) = w := by
  have := w.isLt
  apply BitVec.eq_of_toNat_eq
  simp only [toNat_half, BitVec.toNat_ofNat, Nat.shiftRight_eq_div_pow]
  omega

theorem halves_bytes (w : BitVec 32) : half (BitVec.ofNat 8 (w.toNat >>> 8 >>> 8)) (BitVec.ofNat 8 (w.toNat >>> 8 >>> 8 >>> 8)) ++
    half (BitVec.ofNat 8 w.toNat) (BitVec.ofNat 8 (w.toNat >>> 8)) = w := by
  have := w.isLt
  apply BitVec.eq_of_toNat_eq
  rw [BitVec.toNat_append, ← Nat.shiftLeft_add_eq_or_of_lt (BitVec.isLt _), Nat.shiftLeft_eq]
  simp only [toNat_half, BitVec.toNat_ofNat, Nat.shiftRight_eq_div_pow]
  omega

/-- The decoder finds where a 32-bit word ends by its bit 0 (R143, R144). -/
theorem decode_bytes32 {w : BitVec 32} {i : Instr} (hlow : w.getLsbD 0 = true) (h : decode32 w = .ok i) (rest : List Byte) :
    decode ((InstrWord.w32 w).bytes ++ rest) = .ok (i, rest) := by
  simp only [InstrWord.bytes, leBytes, List.cons_append, List.nil_append, decode, getLsbD_zero_ofNat8, hlow, halves_bytes, h, if_true]

theorem decode_bytes16 {w : BitVec 16} {i : Instr} (hlow : w.getLsbD 0 = false) (h : decode16 w = .ok i) (rest : List Byte) :
    decode ((InstrWord.w16 w).bytes ++ rest) = .ok (i, rest) := by
  simp only [InstrWord.bytes, leBytes, List.cons_append, List.nil_append, decode, getLsbD_zero_ofNat8, hlow, half_bytes, h, Bool.false_eq_true, if_false]

/-- What the decoder gives, one of the two word decoders gives. -/
theorem word_of_decode {bs rest : List Byte} {i : Instr} (h : decode bs = .ok (i, rest)) : (∃ w, decode32 w = .ok i) ∨ ∃ w, decode16 w = .ok i := by
  unfold decode at h
  split at h
  · split at h
    · split at h
      · split at h
        · next hw => cases h; exact .inl ⟨_, hw⟩
        · cases h
      · cases h
    · split at h
      · next hw => cases h; exact .inr ⟨_, hw⟩
      · cases h
  · cases h

/-- Settles O54: an encoded word keeps the length bit and the selectors of its row, so that the decoder takes the same row and reads the same fields. -/
theorem decodeEncode : Obligations.DecodeEncode := by
  intro i bs rest hi hbs
  obtain ⟨word, henc, rfl⟩ := Option.map_eq_some_iff.mp hbs
  cases word with
  | w32 w => exact decode_bytes32 (low_of_encode32 henc) (decode32_encode hi henc) rest
  | w16 w => exact decode_bytes16 (low_of_encode16 henc) (decode16_encode hi henc) rest

/-- Settles O55: each word decoder lets only legal words pass. -/
theorem decodeWellFormed : Obligations.DecodeWellFormed := by
  intro bs rest i h
  rcases word_of_decode h with ⟨w, hw⟩ | ⟨w, hw⟩
  · exact (legalWord_iff i).mp (decode32_ok_iff.mp hw).2
  · exact .inl (decode16_ok_iff.mp hw).2

-- The words of a run's body.

theorem wordInstr_encode32 {i : Instr} {w : BitVec 32} (hi : i.wf = true) (h : encode i = some (.w32 w)) : wordInstr w = some i := by
  simp only [wordInstr, low_of_encode32 h, decode32_encode hi h, if_true]

/-- A 16-bit word stands in the low half of a body word. -/
theorem wordInstr_encode16 {i : Instr} {w : BitVec 16} (hi : i.wf = true) (h : encode i = some (.w16 w)) : wordInstr (w.setWidth 32) = some i := by
  have hlow : (w.setWidth 32).getLsbD 0 = false := by simpa using low_of_encode16 h
  have hword : (w.setWidth 32).setWidth 16 = w := by simp
  simp only [wordInstr, hlow, hword, decode16_encode hi h, Bool.false_eq_true, if_false]

/-- Settles O56: each of the words is the encoder's word of its instruction, which is well-formed. -/
theorem decodeWords : Obligations.DecodeWords :=
  ⟨wordInstr_encode32 (by decide) rfl, wordInstr_encode32 (by decide) rfl, wordInstr_encode16 (w := 0b0000100000100010#16) (by decide) rfl⟩

end Sys2Proof.Laws

namespace Sys2Proof.Machine

open Sys2Proof Sys2Proof.Said

/-- An instruction executes in each thread, behind the gate with these registers. -/
def Gated (i : Instr) (u : Use) : Prop := ∃ k, ∀ s, exec i s = .next (s.gate u k)

/-- An instruction executes once for its group, behind the gate with these registers (R192). -/
def GatedWhole (i : Instr) (u : Use) : Prop := ∀ s, ∃ k, exec i s = .next (s.gateAs u true k)

theorem integer_gated {i : Instr} {p : Plain} (h : integer i = some p) : Gated i p.use := by
  cases i <;> cases h <;> exact ⟨_, fun _ => rfl⟩

theorem float_gated {i : Instr} {p : Plain} (h : float i = some p) : Gated i p.use := by
  cases i <;> cases h <;> exact ⟨_, fun _ => rfl⟩

/-- No v register is read, so that no read is a thread's own. -/
def Use.shared (u : Use) : Prop := ∀ r ∈ u.rd, ∀ n, r ≠ .v n

theorem Use.shared_add {u v : Use} (hu : u.shared) (hv : v.shared) : (u.add v).shared := fun r hr => (List.mem_append.mp hr).elim (hu r) (hv r)

theorem Use.shared_ksrc (k n : Nat) : (Use.ksrc k n).shared := by
  intro r hr m
  obtain ⟨j, -, rfl⟩ := List.mem_map.mp hr
  exact Reg.noConfusion

theorem Use.shared_kdst (k n : Nat) : (Use.kdst k n).shared := nofun

theorem kres_shared {u : Use} (hu : u.shared) (d : BitVec 6) (x : State → Iss → DWord) : (kres u d x).use.shared :=
  Use.shared_add hu (Use.shared_kdst _ _)

theorem kbin_shared (d a b : BitVec 6) (f : DWord → DWord → DWord) : (kbin d a b f).use.shared :=
  kres_shared (Use.shared_add (Use.shared_ksrc _ _) (Use.shared_ksrc _ _)) d _

theorem gatedWhole_uniform {i : Instr} {u : Use} {d : BitVec 6} {gap : Nat} {f : State → Iss → DWord}
    (h : ∀ s, exec i s = .next (s.uniform gap u d.toNat (f s))) (x : State → Iss → DWord) : GatedWhole i (kres u d x).use := fun s => ⟨_, h s⟩

theorem gatedWhole_k2 {i : Instr} {st : BitVec 2} {d a b : BitVec 6} {f : DWord → DWord → DWord} (h : ∀ s, exec i s = .next (s.k2 st d a b f))
    (g : DWord → DWord → DWord) : GatedWhole i (kbin d a b g).use := gatedWhole_uniform h _

/-- Of the uniform instructions only KMOVV reads a v register, and only of the lowest thread; the branches read in each thread, or no v register. -/
theorem uniform_gated {i : Instr} {p : Plain} (h : uniform i = some p) :
    (∃ st k v, i = .kmovv st k v) ∨ Gated i p.use ∨ GatedWhole i p.use ∧ p.use.shared := by
  cases i <;> cases h
  case kmovv st k v => exact .inl ⟨st, k, v, rfl⟩
  case kcmp | stall | bra | ret | jmpk | call => exact .inr (.inl ⟨_, fun _ => rfl⟩)
  case kldi d h k i =>
    refine .inr (.inr ⟨fun _ => ⟨_, rfl⟩, kres_shared ?_ _ _⟩)
    split
    · exact Use.shared_ksrc _ _
    · nofun
  case krd st k e =>
    refine .inr (.inr ⟨fun _ => ⟨_, rfl⟩, kres_shared ?_ _ _⟩)
    split
    · simp [Use.shared]
    · nofun
  case kaddi => exact .inr (.inr ⟨fun _ => ⟨_, rfl⟩, kres_shared (Use.shared_ksrc _ _) _ _⟩)
  all_goals exact .inr (.inr ⟨gatedWhole_k2 (fun _ => rfl) _, kbin_shared _ _ _ _⟩)

-- The gate's outcomes, in its order (log 14).

section
variable {s : State} {c : Iss} {u : Use} {whole : Bool} {k : State → Iss → State} (hiss : s.iss = some c)
include hiss

theorem gateAs_illegal (hill : c.illegal u = true) : s.gateAs u whole k = s.trapAll c.t c.gid c.g .illegal := by
  simp [State.gateAs, hiss, hill]

theorem gateAs_shortRead (hill : c.illegal u = false) (hshort : c.shortRead u = true) :
    s.gateAs u whole k = s.trapAll c.t c.gid c.g { cause := 7 } := by
  simp [State.gateAs, hiss, hill, hshort]

theorem gateAs_waits (hill : c.illegal u = false) (hshort : c.shortRead u = false) (hwait : c.waits u = true) :
    s.gateAs u whole k = s.hold c.t c.gid := by
  simp [State.gateAs, hiss, hill, hshort, hwait]

theorem gateAs_unsound (hill : c.illegal u = false) (hshort : c.shortRead u = false) (hwait : c.waits u = false) {tr : Trap}
    (hbad : c.unsound u c.low = some tr) : s.gateAs u true k = s.trapAll c.t c.gid c.g tr := by
  simp [State.gateAs, hiss, hill, hshort, hwait, hbad]

theorem gateAs_split (hill : c.illegal u = false) (hshort : c.shortRead u = false) (hwait : c.waits u = false) :
    s.gateAs u false k = s.splitTraps c (c.unsound u) k := by
  simp [State.gateAs, hiss, hill, hshort, hwait]

end

/-- Where no thread reads a v register, none reads one with a data error. -/
theorem unsound_of_shared {c : Iss} {u : Use} (hu : u.shared) (tid : Nat) : c.unsound u tid = none := by
  unfold Iss.unsound
  split
  · rfl
  · split
    · next hany =>
      obtain ⟨r, hr, hbad⟩ := List.any_eq_true.mp hany
      cases r with
      | v n => exact absurd rfl (hu _ hr n)
      | _ => exact absurd hbad Bool.false_ne_true
    · rfl

/-- The threads that trap at the gate leave, and the others pass it in the same issue. -/
theorem trapsSome_gated {i : Instr} {u : Use} {s : State} {c : Iss} (hg : Gated i u) (hiss : s.iss = some c) (hill : c.illegal u = false)
    (hshort : c.shortRead u = false) (hwait : c.waits u = false) {bad : List (Nat × Trap)}
    (hbad : bad = c.g.tids.filterMap (fun tid => (c.unsound u tid).map (fun tr => (tid, tr)))) (hne : bad ≠ []) :
    trapsSome i s c bad (fun s' c' => Ready s' c' u) := by
  obtain ⟨k, hk⟩ := hg
  have hexec : exec i s = .next (s.splitTraps c (c.unsound u) k) := by rw [hk, State.gate, gateAs_split hiss hill hshort hwait]
  have hsome : bad.isEmpty = false := by simpa using hne
  refine ⟨fun w hw => ?_, fun hw => ⟨fun hnone => ?_, fun c' hc' hready => ?_⟩⟩
  · simp [hexec, State.splitTraps, ← hbad, hsome, hw]
  · simp [hexec, State.splitTraps, ← hbad, hsome, hw, hnone]
  · rw [hk (s.trapEach c.t c.gid 0 bad), State.gate_ready hready]
    simp [hexec, State.splitTraps, ← hbad, hsome, hw, hc']

/-- The clauses that every gated instruction shares. -/
theorem gated_order {i : Instr} {u : Use} {whole : Bool} {s : State} {c : Iss} {k : State → Iss → State}
    (hk : exec i s = .next (s.gateAs u whole k)) (hiss : s.iss = some c) :
    (c.illegal u = true → exec i s = .next (s.trapAll c.t c.gid c.g .illegal)) ∧
    (c.illegal u = false → c.shortRead u = true → exec i s = .next (s.trapAll c.t c.gid c.g { cause := 7 })) ∧
    (c.illegal u = false → c.shortRead u = false → c.waits u = true → exec i s = .next (s.hold c.t c.gid)) := by
  exact ⟨fun hill => by rw [hk, gateAs_illegal hiss hill], fun hill hshort => by rw [hk, gateAs_shortRead hiss hill hshort],
    fun hill hshort hwait => by rw [hk, gateAs_waits hiss hill hshort hwait]⟩

/-- The ways an instruction of these families stands behind the gate. -/
theorem plain_gated {i : Instr} {p : Plain} (h : integer i = some p ∨ float i = some p ∨ uniform i = some p) :
    (∃ st k v, i = .kmovv st k v) ∨ Gated i p.use ∨ GatedWhole i p.use ∧ p.use.shared := by
  rcases h with h | h | h
  · exact .inr (.inl (integer_gated h))
  · exact .inr (.inl (float_gated h))
  · exact uniform_gated h

theorem kmovv_gated {st : BitVec 2} {k : BitVec 6} {v : BitVec 7} {p : Plain}
    (h : integer (.kmovv st k v) = some p ∨ float (.kmovv st k v) = some p ∨ uniform (.kmovv st k v) = some p) :
    GatedWhole (.kmovv st k v) p.use := by
  rcases h with h | h | h <;> cases h
  exact fun _ => ⟨_, rfl⟩

/-- Settles O14: each family executes behind the one gate, whose checks stand in this order. -/
theorem gateOrder : Obligations.GateOrder := by
  intro i p s c hi hiss
  by_cases hmov : ∃ st k v, i = .kmovv st k v
  · obtain ⟨st, k, v, rfl⟩ := hmov
    obtain ⟨_, hk⟩ := kmovv_gated hi s
    obtain ⟨hill, hshort, hwait⟩ := gated_order hk hiss
    refine ⟨hill, hshort, hwait, fun h1 h2 h3 => ⟨fun _ _ _ tr _ htr => ?_, fun hne => absurd rfl (hne st k v)⟩⟩
    rw [hk, gateAs_unsound hiss h1 h2 h3 htr]
  · have hmov' : ∀ st k v, i ≠ .kmovv st k v := fun st k v heq => hmov ⟨st, k, v, heq⟩
    obtain hg | ⟨hg, hshared⟩ := (plain_gated hi).resolve_left hmov
    · obtain ⟨_, hk⟩ := id hg
      obtain ⟨hill, hshort, hwait⟩ := gated_order (hk s) hiss
      exact ⟨hill, hshort, hwait, fun h1 h2 h3 => ⟨fun st k v _ heq _ => absurd heq (hmov' st k v), fun _ => trapsSome_gated hg hiss h1 h2 h3 rfl⟩⟩
    · obtain ⟨_, hk⟩ := hg s
      obtain ⟨hill, hshort, hwait⟩ := gated_order hk hiss
      refine ⟨hill, hshort, hwait, fun _ _ _ => ⟨fun st k v _ heq _ => absurd heq (hmov' st k v), fun _ hbad => absurd ?_ hbad⟩⟩
      simp [unsound_of_shared hshared]

end Sys2Proof.Machine

namespace Sys2Proof.Machine

open Sys2Proof Sys2Proof.Said

-- The integer operations as the rules say them, and as the model computes them.

theorem clampS_eq_sat (n : Nat) (x : Int) : clampS n x = sat n x := by
  have hpos : (0 : Int) < 2 ^ (n - 1) := by positivity
  unfold clampS sat
  congr 1
  generalize (2 : Int) ^ (n - 1) = m at hpos
  omega

theorem each16_eq_halves (f : BitVec 16 → BitVec 16 → BitVec 16) (a b : Word) : each16 f a b = halves f a b := rfl

theorem rolW_eq_shifts (x y : Word) : rolW x y = x <<< (y.toNat % 32) ||| x >>> (32 - y.toNat % 32) := by
  rw [rolW, BitVec.rotateLeft_def, Nat.mod_mod]

theorem addMode_eq (m : BitVec 2) (x y : Word) : addMode m x y = if m = 0 then x + y else if m = 1 then sat 32 (x.toInt + y.toInt)
    else if m = 2 then halves (· + ·) x y else halves (fun p q => sat 16 (p.toInt + q.toInt)) x y := by
  simp only [addMode, clampS_eq_sat, each16_eq_halves]

theorem subMode_eq (m : BitVec 2) (x y : Word) : subMode m x y = if m = 0 then x - y else if m = 1 then sat 32 (x.toInt - y.toInt)
    else if m = 2 then halves (· - ·) x y else halves (fun p q => sat 16 (p.toInt - q.toInt)) x y := by
  simp only [subMode, clampS_eq_sat, each16_eq_halves]

theorem mulMode_eq (m : BitVec 2) (x y : Word) : mulMode m x y = if m = 0 then x * y else if m = 1 then BitVec.ofInt 32 (x.toInt * y.toInt / 2 ^ 32)
    else if m = 2 then BitVec.ofNat 32 (x.toNat * y.toNat / 2 ^ 32) else halves (· * ·) x y := rfl

theorem elHi_append (p q : BitVec 16) : elHi (p ++ q) = p := by
  show ((p ++ q) >>> 16).setWidth 16 = p
  rw [BitVec.setWidth_ushiftRight_eq_extractLsb, BitVec.extractLsb'_append_eq_left]

theorem elLo_append (p q : BitVec 16) : elLo (p ++ q) = q := BitVec.setWidth_append_eq_right

theorem madMode_eq (m : BitVec 1) (z x y : Word) : madMode m z x y = if m = 0 then x * y + z else halves (· + ·) (halves (· * ·) x y) z := by
  have hpack : pack16 (elHi x * elHi y + elHi z) (elLo x * elLo y + elLo z) = each16 (· + ·) (each16 (· * ·) x y) z := by
    simp only [each16, pack16, elHi_append, elLo_append]
  rw [madMode, hpack]
  rfl

theorem neg_of_msb (x : Word) : (if x.getLsbD 31 then 0 - x else x) = if x.toInt < 0 then -x else x := by
  have hmsb : x.getLsbD 31 = decide (x.toInt < 0) := (BitVec.msb_eq_getLsbD_last x).symm.trans BitVec.msb_eq_toInt
  have hneg : 0 - x = -x := BitVec.zero_sub x
  simp only [hmsb, decide_eq_true_eq, hneg]

/-- An immediate count is below 32. -/
theorem toNat_count (n : BitVec 5) : (n.setWidth 32).toNat % 32 = n.toNat := by
  have := n.isLt
  simp [BitVec.toNat_setWidth]
  omega

-- The forms of integer lane instructions: when the operation is the one said, the instruction completes as said.

/-- An instruction completes, its writes and flags are the result, and nothing else changes. -/
def Completes (i : Instr) (s : State) (c : Iss) (p : Plain) (fl : BitVec 5) : Prop := ∃ s', exec i s = .next s' ∧ WroteOnly s s' c (p.writes s c) fl

section
variable {i : Instr} {s : State} {c : Iss} {lat gap : Nat} (he : c.endsWell)
include he

theorem completes_un {d a : BitVec 7} {f g : Word → Word} (hi : exec i s = .next (s.lane1 lat gap d.toNat a.toNat (pure1 f))) (hfg : ∀ x, f x = g x)
    (h : Ready s c (un d a g).use) : Completes i s c (un d a g) 0 := ⟨_, hi, lane1_wrote h he lat gap f g hfg⟩

theorem completes_bin {d a b : BitVec 7} {f g : Word → Word → Word} (hi : exec i s = .next (s.lane2 lat gap d.toNat a.toNat b.toNat (pure2 f)))
    (hfg : ∀ x y, f x y = g x y) (h : Ready s c (bin d a b g).use) : Completes i s c (bin d a b g) 0 := ⟨_, hi, lane2_wrote h he lat gap f g hfg⟩

theorem completes_tri {d a b : BitVec 7} {f g : Word → Word → Word → Word} (hi : exec i s = .next (s.lane3 lat gap d.toNat a.toNat b.toNat (pure3 f)))
    (hfg : ∀ z x y, f z x y = g z x y) (h : Ready s c (tri d a b g).use) : Completes i s c (tri d a b g) 0 := ⟨_, hi, lane3_wrote h he lat gap f g hfg⟩

theorem completes_short {d q : BitVec 5} {f g : Word → Word → Word} (hi : exec i s = .next (s.lane2 lat gap (short7 d) (short7 d) (short7 q) (pure2 f)))
    (hfg : ∀ x y, f x y = g x y) (h : Ready s c (short d q g).use) : Completes i s c (short d q g) 0 := ⟨_, hi, lane2_wrote h he lat gap f g hfg⟩

theorem completes_lanes {u : Use} {d : Nat} {x : State → Iss → Nat → Word}
    (hi : exec i s = .next (s.gate u (fun s c => s.laneRun c lat gap (fun tid => (dstWrites tid d (x s c tid), 0)))))
    (h : Ready s c (lanes u d x).use) : Completes i s c (lanes u d x) 0 := ⟨_, hi, gate_wrote h (laneRun_pure h he lat gap d (x s c))⟩

theorem completes_test {m : BitVec 2} {p : BitVec 3} {a b : BitVec 7} {f : Word → Word → Bool}
    (hi : exec i s = .next (s.laneCmp gap m p.toNat a.toNat b.toNat (fun x y => (f x y, 0)))) (hp : p.toNat < 7) {fl : State → Iss → BitVec 5}
    (h : Ready s c (test m p a b f fl).use) : Completes i s c (test m p a b f fl) 0 := by
  refine ⟨_, hi, gate_wrote h (preds_wrote hp h he gap _ _ fun tid => ?_)⟩
  by_cases hm : m = 0
  · simp only [hm, if_true]
  · simp only [hm, if_false]

end

theorem plog_index (x y : Bool) : 2 * b2n x + b2n y = (if x then 2 else 0) + (if y then 1 else 0) := by
  cases x <;> cases y <;> rfl

/-- p7 is not written (R151). -/
theorem toNat_of_wpred {p : BitVec 3} (h : wpred p = true) : p.toNat < 7 := by
  revert h
  revert p
  decide

/-- Settles O1: each form's operation is the one said, and its execution writes the result alone. -/
theorem integerLaneResult : Obligations.IntegerLaneResult := by
  intro i p s c hi hwf h he
  change Completes i s c p 0
  cases i <;> cases hi
  case iadd => exact completes_bin he rfl (addMode_eq _) h
  case isub => exact completes_bin he rfl (subMode_eq _) h
  case imul => exact completes_bin he rfl (mulMode_eq _) h
  case imad => exact completes_tri he rfl (madMode_eq _) h
  case rol => exact completes_bin he rfl rolW_eq_shifts h
  case bfi => exact completes_tri he rfl (fun _ _ _ => rfl) h
  case abs => exact completes_un he rfl neg_of_msb h
  case neg => exact completes_un he rfl BitVec.zero_sub h
  case shli st d a n => exact completes_un he rfl (fun x => congrArg (x <<< ·) (toNat_count n)) h
  case shri st d a n => exact completes_un he rfl (fun x => congrArg (x >>> ·) (toNat_count n)) h
  case sari st d a n => exact completes_un he rfl (fun x => congrArg x.sshiftRight (toNat_count n)) h
  case roli st d a n => exact completes_un he rfl (fun x => (rolW_eq_shifts x _).trans (by rw [toNat_count])) h
  case popc | clz | ctz | brev | not | iaddi | andi | ori | xori => exact completes_un he rfl (fun _ => rfl) h
  case imin | imax | and | or | xor | andn | shl | shr | sar | bfx | bfxS => exact completes_bin he rfl (fun _ _ => rfl) h
  case movi | movk | sel => exact completes_lanes he rfl h
  case icmp =>
    simp only [Instr.wf, Bool.and_eq_true] at hwf
    obtain ⟨⟨⟨⟨hp, -⟩, -⟩, -⟩, -⟩ := hwf
    exact completes_test he rfl (toNat_of_wpred hp) h
  case plog st d t a b =>
    refine ⟨_, rfl, gate_wrote h (preds_wrote (toNat_of_wpred hwf) h he _ _ _ fun tid => ?_)⟩
    rw [plog_index]
  all_goals exact completes_short he rfl (fun _ _ => rfl) h

end Sys2Proof.Machine

namespace Sys2Proof.Machine

open Sys2Proof Sys2Proof.Said

-- The uniform operations as the rules say them, and as the model computes them.

theorem flags_append (p q r t : Bool) :
    BitVec.ofNat 4 (b2n t + 2 * b2n r + 4 * b2n q + 8 * b2n p) = BitVec.ofBool p ++ BitVec.ofBool q ++ BitVec.ofBool r ++ BitVec.ofBool t := by
  revert p q r t
  decide

theorem kcmpFlags_eq (x y : DWord) :
    kcmpFlags x y = BitVec.ofBool (x == 0) ++ BitVec.ofBool (x.ult y) ++ BitVec.ofBool (x.slt y) ++ BitVec.ofBool (x == y) := flags_append _ _ _ _

/-- The replaced bits come from the value, the others from the number. -/
theorem testBit_setBits (x l n v j : Nat) : (setBits x l n v).testBit j = if l ≤ j ∧ j < l + n then v.testBit (j - l) else x.testBit j := by
  have hsplit : setBits x l n v = 2 ^ l * (2 ^ n * (x / 2 ^ l / 2 ^ n) + v % 2 ^ n) + x % 2 ^ l := by
    have hlow := Nat.div_add_mod x (2 ^ l)
    have hmid := Nat.div_add_mod (x / 2 ^ l) (2 ^ n)
    have hx : x = 2 ^ l * (2 ^ n * (x / 2 ^ l / 2 ^ n)) + x / 2 ^ l % 2 ^ n * 2 ^ l + x % 2 ^ l := by
      rw [Nat.mul_comm _ (2 ^ l), ← Nat.mul_add, hmid, hlow]
    rw [setBits, Nat.shiftRight_eq_div_pow, Nat.mul_add, Nat.mul_comm (2 ^ l) (v % 2 ^ n)]
    omega
  rw [hsplit, Nat.testBit_two_pow_mul_add _ (Nat.mod_lt _ (by positivity)), Nat.testBit_two_pow_mul_add _ (Nat.mod_lt _ (by positivity))]
  by_cases hl : j < l
  · simp [hl, Nat.testBit_mod_two_pow, show ¬ l ≤ j by omega]
  · by_cases hn : j - l < n
    · simp [hl, hn, Nat.testBit_mod_two_pow, show l ≤ j ∧ j < l + n by omega]
    · simp only [hl, hn, if_false, show ¬ (l ≤ j ∧ j < l + n) by omega, Nat.testBit_div_two_pow]
      congr 1
      omega

/-- KLDI keeps the other three halves of its register (R201). -/
theorem setBits_half (x : DWord) (v : BitVec 16) (l : Nat) :
    BitVec.ofNat 64 (setBits x.toNat l 16 v.toNat) = (x &&& ~~~ ((0xFFFF : DWord) <<< l)) ||| v.setWidth 64 <<< l := by
  have hmask : (0xFFFF : DWord) = (BitVec.allOnes 16).setWidth 64 := rfl
  rw [hmask]
  refine BitVec.eq_of_getLsbD_eq fun j hj => ?_
  rw [BitVec.getLsbD_ofNat, testBit_setBits, BitVec.testBit_toNat, BitVec.testBit_toNat]
  simp only [BitVec.getLsbD_or, BitVec.getLsbD_and, BitVec.getLsbD_not, BitVec.getLsbD_shiftLeft, BitVec.getLsbD_setWidth, BitVec.getLsbD_allOnes, hj,
    decide_true, Bool.true_and]
  by_cases hl : l ≤ j
  · have hv : 16 ≤ j - l → v.getLsbD (j - l) = false := BitVec.getLsbD_of_ge v _
    by_cases hn : j < l + 16
    · simp [hl, hn, show j - l < 16 by omega, show j - l < 64 by omega, show ¬ j < l by omega]
    · simp [hl, hn, hv (by omega), show ¬ j - l < 16 by omega]
  · simp [hl, show j < l by omega]

theorem bit_cases (k : BitVec 1) : k = 0 ∨ k = 1 := by
  revert k
  decide

theorem branch_sense (x : Bool) (sense : BitVec 1) : (x != (sense == 1)) = decide (x = (sense == 0)) := by
  revert x sense
  decide

-- A group that moves on with nothing else done, with a write of the team, or with its threads' next addresses changed.

theorem State.updTeam_id (s : State) (t : Nat) : s.updTeam t (fun tm => tm) = s := State.updTeam_same s t _ fun _ _ => rfl

theorem advance_silent {s : State} {c : Iss} (hi : s.iss = some c) (he : c.endsWell) (gap : Nat) : WroteOnly s (s.advance c.t c.gid gap) c [] 0 := by
  have key := (State.advance_wrote gap (fun tm => tm) hi he c.g (State.iss_eq hi).2.2 ⟨rfl, rfl, rfl, rfl, rfl⟩ (SameTeam.refl _) 0 (by simp) [] nofun
    (fun _ _ _ => rfl)).1
  rwa [State.updTeam_id] at key

/-- One write of a register of the team. -/
theorem writeTeam_wrote {s : State} {c : Iss} (hi : s.iss = some c) (he : c.endsWell) (lat gap : Nat) {r : Reg} {x : DWord} (hr : r.ok = true)
    (hx : r.clip x = x) : WroteOnly s ((s.writeRegs c.t c.gid lat [(0, r, x)]).advance c.t c.gid gap) c [(0, r, x)] 0 := by
  have key := (State.writeRegs_advance lat gap [(0, r, x)] hi he (by simp [hr, hx]) (by simp) 0 (fun tm => tm) SameTeam.refl (by simp) (fun _ _ _ => rfl)
    (fun _ => rfl)).1
  rwa [State.updTeam_id] at key

/-- The threads take their next addresses. -/
def Team.sendTo (tm : Team) (l : List Nat) (dest : Nat → DWord) : Team := l.foldl (fun tm tid => tm.updThread tid (fun th => { th with npc := dest tid })) tm

theorem SameTeam.sendTo (tm : Team) (l : List Nat) (dest : Nat → DWord) : SameTeam tm (tm.sendTo l dest) :=
  SameTeam.foldUpd l (fun tid th => { th with npc := dest tid }) (fun _ _ => rfl) tm

theorem Team.reg_sendTo (tm : Team) (l : List Nat) (dest : Nat → DWord) (tid : Nat) (r : Reg) : (tm.sendTo l dest).reg tid r = tm.reg tid r :=
  Team.foldUpd_reg l (fun tid th => { th with npc := dest tid }) tm tid r fun _ _ => by cases r <;> rfl

theorem Team.npc_sendTo (tm : Team) (l : List Nat) (dest : Nat → DWord) {tid : Nat} (hl : tid < tm.threads.length)
    (h : tid ∈ l ∨ (tm.thread tid).npc = dest tid) : ((tm.sendTo l dest).thread tid).npc = dest tid := by
  unfold Team.sendTo
  induction l generalizing tm with
  | nil => simpa using h
  | cons x l ih =>
    refine ih (tm.updThread x _) (by simpa using hl) ?_
    rw [Team.thread_updThread]
    by_cases hx : tid = x
    · exact .inr (by rw [if_pos ⟨hx, hx ▸ hl⟩, hx])
    · rw [if_neg fun e => hx e.1]
      exact h.imp_left fun hm => (List.mem_cons.mp hm).resolve_left hx

theorem SameThread.exited {a b : Thread} (h : SameThread a b) : b.exited = a.exited := by
  unfold SameThread at h
  injection h

/-- The live threads of the group go on at these addresses, at once where the run ends. -/
def GoesTo (s' : State) (c : Iss) (dest : Nat → DWord) : Prop :=
  ∃ tm, s'.team? c.t = some tm ∧ ∀ tid ∈ c.g.tids, tid < c.tm.threads.length → (c.tm.thread tid).exited = false →
    (tm.thread tid).npc = dest tid ∧ (¬ c.goesOn → (tm.thread tid).pc = dest tid)

theorem GoesTo.of_sendTo {s' : State} {c : Iss} {dest : Nat → DWord} {tm0 tm : Team} (htm : s'.team? c.t = some tm) (hsame : SameTeam c.tm tm0)
    (hway : ∀ tid, SameWay ((tm0.sendTo c.g.tids dest).thread tid) (tm.thread tid))
    (hend : ¬ c.goesOn → ∀ tid ∈ c.g.tids, tid < c.tm.threads.length → (tm.thread tid).exited = true ∨ (tm.thread tid).pc = (tm.thread tid).npc) :
    GoesTo s' c dest := by
  refine ⟨tm, htm, fun tid hm hl hlive => ?_⟩
  obtain ⟨hnpc, hexited⟩ := hway tid
  have hto : (tm.thread tid).npc = dest tid := hnpc.trans (Team.npc_sendTo tm0 _ dest (hsame.2.1.symm ▸ hl) (.inl hm))
  have hsame' := hsame.trans (SameTeam.sendTo tm0 c.g.tids dest)
  have hstays : (tm.thread tid).exited = false := (hexited.trans (hsame'.2.2 tid).exited).trans hlive
  exact ⟨hto, fun hn => ((hend hn tid hm hl).resolve_left (by simp [hstays])).trans hto⟩

theorem branch_wrote {s : State} {c : Iss} (hi : s.iss = some c) (he : c.endsWell) (dest : Nat → DWord) :
    WroteOnly s (s.branch c dest) c [] 0 ∧ GoesTo (s.branch c dest) c dest := by
  have hgroups : FMap.get? (c.tm.sendTo c.g.tids dest).groups c.gid = some c.g := by
    rw [Team.sendTo, (Team.foldUpd_fields _ _ _).2.1, (State.iss_eq hi).2.2]
  have hkexc : (c.tm.sendTo c.g.tids dest).kexc = c.tm.kexc ||| 0 := by simp [Team.sendTo, Team.foldUpd_fields]
  obtain ⟨hw, tm, htm, hway, hend⟩ := State.advance_wrote 1 (fun tm => tm.sendTo c.g.tids dest) hi he c.g hgroups ⟨rfl, rfl, rfl, rfl, rfl⟩
    (SameTeam.sendTo _ _ _) 0 hkexc [] nofun (fun _ _ _ => Team.reg_sendTo _ _ _ _ _)
  exact ⟨hw, .of_sendTo htm (SameTeam.refl _) hway hend⟩

theorem write_branch_wrote {s : State} {c : Iss} (hi : s.iss = some c) (he : c.endsWell) (lat : Nat) {ws : List (Nat × Reg × DWord)} (dest : Nat → DWord)
    (hok : ∀ w ∈ ws, w.2.1.ok = true ∧ w.2.1.clip w.2.2 = w.2.2)
    (hone : ∀ w ∈ ws, ∀ w' ∈ ws, w'.2.1 = w.2.1 → (w.2.1.isTeam = true ∨ w'.1 = w.1) → w'.2.2 = w.2.2) :
    WroteOnly s ((s.writeRegs c.t c.gid lat ws).branch c dest) c ws 0 ∧ GoesTo ((s.writeRegs c.t c.gid lat ws).branch c dest) c dest := by
  obtain ⟨hw, tm, htm, ⟨tm0, hsame, hway⟩, hend⟩ := State.writeRegs_advance lat 1 ws hi he hok hone 0 (fun tm => tm.sendTo c.g.tids dest)
    (fun _ => SameTeam.sendTo _ _ _) (fun _ => by simp [Team.sendTo, Team.foldUpd_fields]) (fun _ _ _ => Team.reg_sendTo _ _ _ _ _)
    (fun _ => (Team.foldUpd_fields _ _ _).2.1)
  exact ⟨hw, .of_sendTo htm hsame hway hend⟩

-- Both claims of one instruction.

theorem exec_of_gate {i : Instr} {s : State} {c : Iss} {u : Use} {k : State → Iss → State} (hi : exec i s = .next (s.gate u k)) (h : Ready s c u) :
    exec i s = .next (k s c) := hi.trans (congrArg _ (State.gate_ready h k))

/-- The instruction completes as said, and a branch sends the live threads to its target. -/
def CompletesTo (i : Instr) (s : State) (c : Iss) (p : Plain) : Prop :=
  ∃ s', exec i s = .next s' ∧ WroteOnly s s' c (p.writes s c) 0 ∧
    ((∀ tid, target s c tid i = none) ∨ ∃ dest, (∀ tid, target s c tid i = some (dest tid)) ∧ GoesTo s' c dest)

section
variable {i : Instr} {s : State} {c : Iss} {gap : Nat} (he : c.endsWell)
include he

theorem completesTo_kres {u : Use} {d : BitVec 6} {f : Iss → DWord} {x : State → Iss → DWord} (hi : exec i s = .next (s.uniform gap u d.toNat f))
    (hf : f c = x s c) (ht : ∀ tid, target s c tid i = none) (h : Ready s c (kres u d x).use) : CompletesTo i s c (kres u d x) := by
  refine ⟨_, hi.trans (congrArg _ (State.gateAs_ready h true _)), ?_, .inl ht⟩
  rw [hf]
  exact writeTeam_wrote h.iss he 2 gap rfl rfl

theorem completesTo_kbin {st : BitVec 2} {d a b : BitVec 6} {f g : DWord → DWord → DWord} (hi : exec i s = .next (s.k2 st d a b f)) (hf : f = g)
    (ht : ∀ tid, target s c tid i = none) (h : Ready s c (kbin d a b g).use) : CompletesTo i s c (kbin d a b g) :=
  completesTo_kres he hi (by rw [hf]) ht h

theorem completesTo_branch {u : Use} {dest : State → Iss → Nat → DWord} (hi : exec i s = .next (s.gate u (fun s c => s.branch c (dest s c))))
    (ht : ∀ tid, target s c tid i = some (dest s c tid)) (h : Ready s c (silent u).use) : CompletesTo i s c (silent u) := by
  obtain ⟨hw, hgo⟩ := branch_wrote h.iss he (dest s c)
  exact ⟨_, exec_of_gate hi h, hw, .inr ⟨_, ht, hgo⟩⟩

end

/-- The pair that CALL writes (R195). -/
theorem dropLast_dstWrites64 (tid : Nat) {v : BitVec 7} (hv : vPair v = true) (x : DWord) :
    (dstWrites64 tid v.toNat x).dropLast = [(tid, .v v.toNat, x &&& 0xFFFFFFFF), (tid, .v (v.toNat + 1), x >>> 32)] := by
  simp only [vPair, Bool.and_eq_true, decide_eq_true_eq, beq_iff_eq] at hv
  obtain ⟨hle, heven⟩ := hv
  have hlow : codeReg v.toNat = some (.v v.toNat) := by simp [codeReg, show v.toNat ≤ 111 by omega]
  have hhigh : codeReg (v.toNat + 1) = some (.v (v.toNat + 1)) := by simp [codeReg, show v.toNat + 1 ≤ 111 by omega]
  rw [dstWrites64, List.dropLast_concat, hlow, hhigh, if_pos (by omega)]
  rfl

theorem clip_low (n : Nat) (x : DWord) : (Reg.v n).clip (x &&& 0xFFFFFFFF) = x &&& 0xFFFFFFFF := by
  have hmask : (0xFFFFFFFF : DWord) = (BitVec.allOnes 32).setWidth 64 := rfl
  rw [hmask]
  refine BitVec.eq_of_getLsbD_eq fun j hj => ?_
  by_cases hlow : j < 32 <;> simp only [Reg.clip, BitVec.getLsbD_setWidth, BitVec.getLsbD_and, BitVec.getLsbD_allOnes, hj, hlow, decide_true,
    decide_false, Bool.true_and, Bool.and_false]

theorem clip_high (n : Nat) (x : DWord) : (Reg.v n).clip (x >>> 32) = x >>> 32 := by
  refine BitVec.eq_of_getLsbD_eq fun j hj => ?_
  have hx : 64 ≤ 32 + j → x.getLsbD (32 + j) = false := BitVec.getLsbD_of_ge x _
  by_cases hlow : j < 32
  · simp [Reg.clip, hj, hlow]
  · simp [Reg.clip, hlow, hx (by omega)]

/-- The writes of CALL, as the statement has them. -/
def callWrites (c : Iss) (v : BitVec 7) : List (Nat × Reg × DWord) :=
  c.g.tids.flatMap (fun tid => [(tid, .v v.toNat, c.g.next &&& 0xFFFFFFFF), (tid, .v (v.toNat + 1), c.g.next >>> 32)])

theorem callWrites_cases (c : Iss) (v : BitVec 7) : ∀ w ∈ callWrites c v,
    w.2 = (.v v.toNat, c.g.next &&& 0xFFFFFFFF) ∨ w.2 = (.v (v.toNat + 1), c.g.next >>> 32) := by
  intro w hw
  obtain ⟨tid, -, hw⟩ := List.mem_flatMap.mp hw
  simp only [List.mem_cons, List.not_mem_nil, or_false] at hw
  exact hw.imp (congrArg Prod.snd) (congrArg Prod.snd)

theorem callWrites_ok (c : Iss) (v : BitVec 7) : ∀ w ∈ callWrites c v, w.2.1.ok = true ∧ w.2.1.clip w.2.2 = w.2.2 := by
  intro w hw
  rcases callWrites_cases c v w hw with e | e
  · rw [e]
    exact ⟨rfl, clip_low _ _⟩
  · rw [e]
    exact ⟨rfl, clip_high _ _⟩

/-- Two writes of one register write one value. -/
theorem callWrites_one (c : Iss) (v : BitVec 7) : ∀ w ∈ callWrites c v, ∀ w' ∈ callWrites c v, w'.2.1 = w.2.1 → w'.2.2 = w.2.2 := by
  have hval : ∀ w ∈ callWrites c v, w.2.2 = if w.2.1 = .v v.toNat then c.g.next &&& 0xFFFFFFFF else c.g.next >>> 32 := by
    intro w hw
    rcases callWrites_cases c v w hw with e | e <;> simp [e]
  intro w hw w' hw' hreg
  rw [hval w hw, hval w' hw', hreg]

theorem completesTo_call {s : State} {c : Iss} {v : BitVec 7} {imm : BitVec 16} {p : Plain} (hp : uniform (.call v imm) = some p) (hv : vPair v = true)
    (he : c.endsWell) (h : Ready s c p.use) : CompletesTo (.call v imm) s c p := by
  cases hp
  have hpairs := funext fun tid => dropLast_dstWrites64 tid hv c.g.next
  obtain ⟨hw, hgo⟩ := write_branch_wrote h.iss he 0 (fun _ => c.g.addr + imm.signExtend 64 * 2) (callWrites_ok c v)
    (fun w hw w' hw' hreg _ => callWrites_one c v w hw w' hw' hreg)
  refine ⟨_, exec_of_gate rfl h, ?_⟩
  simp only [hpairs]
  exact ⟨hw, .inr ⟨_, fun _ => rfl, hgo⟩⟩

theorem uniform_completesTo {i : Instr} {p : Plain} {s : State} {c : Iss} (hi : uniform i = some p) (hwf : i.wf = true) (h : Ready s c p.use)
    (he : c.endsWell) : CompletesTo i s c p := by
  cases i <;> cases hi
  case call v imm => exact completesTo_call rfl hwf he h
  case bra cond sense off =>
    refine completesTo_branch he rfl (fun tid => ?_) h
    simp only [target, branch_sense, bit_eq_testBit, decide_eq_true_eq]
  case ret | jmpk => exact completesTo_branch he rfl (fun _ => rfl) h
  case stall n => exact ⟨_, exec_of_gate rfl h, advance_silent h.iss he _, .inl fun _ => rfl⟩
  case kcmp st a b =>
    refine ⟨_, exec_of_gate rfl h, ?_, .inl fun _ => rfl⟩
    rw [kcmpFlags_eq]
    exact writeTeam_wrote h.iss he 2 _ rfl (by simp [Reg.clip])
  case kldi d hh k v =>
    refine completesTo_kres he rfl ?_ (fun _ => rfl) h
    rcases bit_cases k with rfl | rfl
    · exact (BitVec.zero_or).symm
    · exact setBits_half _ _ _
  case kaddi | krd | kmovv => exact completesTo_kres he rfl rfl (fun _ => rfl) h
  all_goals exact completesTo_kbin he rfl rfl (fun _ => rfl) h

theorem nop_completes {s : State} {c : Iss} (h : Ready s c {}) (he : c.endsWell) : ∃ s', exec .nop s = .next s' ∧ WroteOnly s s' c [] 0 :=
  ⟨_, exec_of_gate rfl h, advance_silent h.iss he 1⟩

/-- Settles O3: a uniform result is one write, and a branch the threads' next addresses, after which the group moves on. -/
theorem uniformResult : Obligations.UniformResult := by
  refine ⟨⟨fun i p s c hi hwf h he => ?_, fun s c => nop_completes⟩, fun i p s c hi hwf h he => ?_⟩
  all_goals obtain ⟨s', hexec, hw, hto⟩ := uniform_completesTo hi hwf h he
  · exact ⟨s', hexec, hw⟩
  · rcases hto with hnone | ⟨dest, htarget, tm, htm, hgo⟩
    · obtain ⟨tm, htm, -⟩ := hw.team
      exact ⟨s', tm, hexec, htm, fun tid a _ _ _ ha => by simp [hnone] at ha⟩
    · refine ⟨s', tm, hexec, htm, fun tid a hm hl hlive ha => ?_⟩
      obtain rfl : dest tid = a := by simpa [htarget] using ha
      exact hgo tid hm hl hlive

end Sys2Proof.Machine

namespace Sys2Proof.Machine

open Sys2Proof Sys2Proof.Said

/-- A thread at a run header at 0xFFC, in the last word of page 0. -/
def lastWordGroup : Group := { tids := [0], hdr := 0xFFC, next := 0xFFC, body := [], trl := none, chk := false }

/-- A context with its trap handler at 0x2000. -/
def handlerCtx : Ctx := { v := true, root := 0x200000, sr := { tvec := 0x2001 } }

def lastWordTeam : Team :=
  { ctx := 0, core := 0, slot := 0, tr := { regs := 16 }, threads := [{ pc := 0xFFC, npc := 0xFFC }], groups := [(0, lastWordGroup)], eff := handlerCtx }

/-- The entry of a page of programs: valid, readable, writable, executable. -/
def programPte (page : Nat) : Nat := 0x11F + page * 2 ^ 20

/-- The run of that header is one instruction and a trailer in page 1, which is page 0 of package 1, to which this package has no route: it
reads as zeros (R387), and a word of zeros is no trailer. -/
def unroutedRun : State :=
  { teams := [(0, lastWordTeam)], cur := some (0, 0), ctxs := [(0, handlerCtx)]
    mem := [(0xFFC, 0x81), (0xFFD, 0xF0), (0x2000, 0x81), (0x2001, 0xE0), (0x2005, 0x80)]
    dies := [(0, { tlb := [⟨0, 0, programPte 0, true, 1, 0⟩, ⟨0, 1, programPte (2 ^ 32), true, 1, 0⟩, ⟨0, 2, programPte 2, true, 1, 0⟩] })] }

theorem unroutedRun_atHeader : AtHeader unroutedRun ⟨0, lastWordTeam, 0, lastWordGroup⟩ 7 :=
  ⟨rfl, by decide, by decide, by decide, .inl rfl⟩

/-- The machine checks reported after an outcome. -/
def reports (o : Host.Outcome State Fault Refusal) : List (Nat × Nat × Nat) :=
  match o with
  | .next s => s.mmio.mcr
  | _ => []

/-- The fetch of the run raises the machine check of the page without a route. -/
theorem reports_unroutedRun : reports (exec (.runh 1 1 7 0 0) unroutedRun) = [(0, 0, 2 ^ 44)] := by decide +kernel

/-- The trap alone raises none. -/
theorem reports_trapHeader : reports (.next ((unroutedRun.refresh 0).trapHeader 0 0xFFC [0] .illegal)) = [] := by decide +kernel

/-- Refutes O7: its clause on a header whose run traps does not ask, as the one on a legal run does, that the pages of the run are reached. In
`unroutedRun` the run's page has no route and its words are not as R168 asks; the fetch raises the machine check of R387 besides the trap. -/
theorem not_runHeader : ¬ Obligations.RunHeader := by
  unfold Obligations.RunHeader
  rintro ⟨-, hfails⟩
  have htrap := hfails 1 1 7 0 0 unroutedRun _ (.trap .illegal) unroutedRun_atHeader ⟨0xF081, by decide +kernel, by decide +kernel⟩
  have hsame := (congrArg reports htrap).symm.trans reports_unroutedRun
  exact absurd (reports_trapHeader.symm.trans hsame) (by decide)

end Sys2Proof.Machine

namespace Sys2Proof.Machine

open Sys2Proof Sys2Proof.Said

/-- A calm group passes the gate of an access. -/
theorem exec_of_gateMem {i : Instr} {s : State} {c : Iss} {u : Use} {k : State → Iss → State} {whole : Bool}
    (hi : exec i s = .next (s.gateMem u k whole)) (h : Calm s c u) : exec i s = .next (k s c) := hi.trans (congrArg _ (h.gateMem k whole))

theorem exec_of_forbidden {i : Instr} {s : State} {c : Iss} {u : Use} {k : State → Iss → State} {whole : Bool}
    (hi : exec i s = .next (s.forbidden u k whole)) (h : Calm s c u) : exec i s = .next (k s c) := hi.trans (congrArg _ (h.forbidden k whole))

theorem kld_owes {st : BitVec 2} {d a o : BitVec 6} {w h : BitVec 2} {s s1 : State} {c : Iss} {e : Nat} {bs : List Byte}
    (hc : Calm s c ((Use.ksrc a.toNat 1).add (Use.kdst d.toNat 1))) :
    let va := kAddr (c.k s a.toNat) o w
    let n := 2 ^ w.toNat
    va.toNat % n = 0 → s.xlate c.tm.xlat true va .read = .ok e → s.poisoned (paOf e va) n = none →
    (s.fillTlb c.tm.xlat va e).uload c.tm.core c.tm.ctx e (isNc c.tm.eff.sr va) va.toNat (paOf e va) n h.toNat = (some bs, s1) →
    exec (.kld st d a o w h) s = .next ((({ s1 with nextId := s1.nextId + 1 }.noRoute c.tm.dieOf c.tm.ctx (paOf e va)).owe c.t s1.nextId c.low true false
      [(.k d.toNat, some (BitVec.ofNat 64 (leNat bs)))] 0 false c.g.tids).advance c.t c.gid (gapOf st)) := by
  intro va n ha hx hp hl
  refine (exec_of_gateMem rfl hc).trans ?_
  simp only [va, n] at ha hx hp hl
  simp only [ha, hx, hp, hl, ne_eq, not_true_eq_false, if_false]
  rfl

theorem kst_stores {st : BitVec 2} {d a o : BitVec 6} {w h : BitVec 2} {s s1 : State} {c : Iss} {e : Nat}
    (hc : Calm s c ((Use.ksrc a.toNat 1).add (Use.ksrc d.toNat 1))) :
    let va := kAddr (c.k s a.toNat) o w
    let n := 2 ^ w.toNat
    va.toNat % n = 0 → s.xlate c.tm.xlat true va .write = .ok e → mayRelease s c c.armed →
    ((released s c c.armed).fillTlb c.tm.xlat va e).ustore c.tm.core c.tm.ctx e (isNc c.tm.eff.sr va) va.toNat (paOf e va)
        (natLe n (c.k (released s c c.armed) d.toNat).toNat) h.toNat = (false, s1) →
    exec (.kst st d a o w h) s = .next ((if isNc c.tm.eff.sr va && isMem (paOf e va) && h != 2 then s1.ncStored c (paOf e va / 128) else s1).advance
      c.t c.gid (gapOf st)) := by
  intro va n ha hx hr hst
  have hgo : (c.armed && !s.canRelease c.tm.core) = false := by
    cases harm : c.armed
    · rfl
    · simp [hr harm]
  refine (exec_of_forbidden rfl hc).trans ?_
  simp only [va, n, released] at ha hx hst
  simp only [ha, hx, hgo, hst, ne_eq, not_true_eq_false, if_false, Bool.false_eq_true]
  rfl

theorem kld_misaligned {st : BitVec 2} {d a o : BitVec 6} {w h : BitVec 2} {s : State} {c : Iss}
    (hc : Calm s c ((Use.ksrc a.toNat 1).add (Use.kdst d.toNat 1))) (ha : (kAddr (c.k s a.toNat) o w).toNat % 2 ^ w.toNat ≠ 0) :
    exec (.kld st d a o w h) s = .next (s.trapAll c.t c.gid c.g (.align false (kAddr (c.k s a.toNat) o w))) := by
  refine (exec_of_gateMem rfl hc).trans ?_
  simp only [ha, ne_eq, not_false_eq_true, if_true]

theorem kst_misaligned {st : BitVec 2} {d a o : BitVec 6} {w h : BitVec 2} {s : State} {c : Iss}
    (hc : Calm s c ((Use.ksrc a.toNat 1).add (Use.ksrc d.toNat 1))) (ha : (kAddr (c.k s a.toNat) o w).toNat % 2 ^ w.toNat ≠ 0) :
    exec (.kst st d a o w h) s = .next (s.trapAll c.t c.gid c.g (.align true (kAddr (c.k s a.toNat) o w))) := by
  refine (exec_of_forbidden rfl hc).trans ?_
  simp only [ha, ne_eq, not_false_eq_true, if_true]

/-- Settles O19: behind its gate each instruction takes the branch that its address asks for. -/
theorem uniformMemory : Obligations.UniformMemory := by
  intro st d a o w h s c va n
  exact ⟨fun e bs s1 hc => kld_owes hc, fun e s1 hc => kst_stores hc, kld_misaligned, kst_misaligned⟩

end Sys2Proof.Machine

namespace Sys2Proof.Machine

open Sys2Proof Sys2Proof.Said

-- Results of one and of two registers, with flags.

theorem codeReg_succ_ne {d : Nat} {r : Reg} (h : codeReg d = some r) : codeReg (d + 1) ≠ some r := by
  unfold codeReg at h ⊢
  split at h
  · cases h
    split <;> simp
  · split at h
    · cases h
      split
      · omega
      · split <;> simp
        omega
    · simp at h

theorem codeReg_below_L {d : Nat} (h : codeReg d = some (.t 8)) : d = 120 := by
  unfold codeReg at h
  split at h
  · simp at h
  · split at h
    · simp only [Option.some.injEq, Reg.t.injEq] at h
      omega
    · simp at h

/-- A half of a 64-bit value is what a 32-bit register holds of it. -/
theorem codeReg_clip {d : Nat} {r : Reg} (h : codeReg d = some r) (x : DWord) : r.clip (x &&& 0xFFFFFFFF) = x &&& 0xFFFFFFFF ∧ r.clip (x >>> 32) = x >>> 32 := by
  unfold codeReg at h
  split at h
  · cases h
    exact ⟨clip_low d x, clip_high d x⟩
  · split at h
    · cases h
      exact ⟨clip_low d x, clip_high d x⟩
    · simp at h

/-- Where a pair ends below L, the value of a write tells by its register. -/
theorem mem_dstWrites64 {tid d : Nat} (hd : d ≠ 119) {x : DWord} {w : Nat × Reg × DWord} (hw : w ∈ dstWrites64 tid d x) :
    w = (tid, .t 8, x &&& 0xFFFFFFFF) ∧ codeReg (d + 1) ≠ some w.2.1 ∨
      (∃ r, codeReg d = some r ∧ w = (tid, r, x &&& 0xFFFFFFFF)) ∧ codeReg (d + 1) ≠ some w.2.1 ∨ ∃ r, codeReg (d + 1) = some r ∧ w = (tid, r, x >>> 32) := by
  simp only [dstWrites64, List.mem_append, List.mem_singleton] at hw
  rcases hw with hw | rfl
  · split at hw
    · simp only [List.mem_append, List.mem_map, Option.mem_toList] at hw
      rcases hw with ⟨r, hr, rfl⟩ | ⟨r, hr, rfl⟩
      · exact .inr (.inl ⟨⟨r, hr, rfl⟩, codeReg_succ_ne hr⟩)
      · exact .inr (.inr ⟨r, hr, rfl⟩)
    · simp at hw
  · exact .inl ⟨rfl, fun hL => hd (by have := codeReg_below_L hL; omega)⟩

theorem goodWrites_dst64 (tid : Nat) {d : Nat} (hd : d ≠ 119) (x : DWord) : goodWrites tid (dstWrites64 tid d x) := by
  have hval : ∀ w ∈ dstWrites64 tid d x, w.2.2 = if codeReg (d + 1) = some w.2.1 then x >>> 32 else x &&& 0xFFFFFFFF := by
    intro w hw
    rcases mem_dstWrites64 hd hw with ⟨rfl, hne⟩ | ⟨⟨r, -, rfl⟩, hne⟩ | ⟨r, hr, rfl⟩
    · rw [if_neg hne]
    · rw [if_neg hne]
    · rw [if_pos hr]
  refine ⟨fun w hw => ?_, fun w hw w' hw' hreg => by rw [hval w hw, hval w' hw', hreg]⟩
  rcases mem_dstWrites64 hd hw with ⟨rfl, -⟩ | ⟨⟨r, hr, rfl⟩, -⟩ | ⟨r, hr, rfl⟩
  · exact ⟨rfl, rfl, rfl, clip_low 8 x⟩
  · exact ⟨rfl, (codeReg_ok hr).1, (codeReg_ok hr).2.1, (codeReg_clip hr x).1⟩
  · exact ⟨rfl, (codeReg_ok hr).1, (codeReg_ok hr).2.1, (codeReg_clip hr x).2⟩

theorem dst64_ne {d : BitVec 7} (h : dst64 d = true) : d.toNat ≠ 119 := by
  revert h
  revert d
  decide

theorem dstWritesN_low (tid d : Nat) (r : Word × BitVec 5) : dstWritesN tid d 1 (low r).1 = dstWrites tid d r.1 := by
  simp [dstWritesN, low]

theorem goodWrites_dstN (tid : Nat) {d n : Nat} (hd : n = 2 → d ≠ 119) (x : DWord) : goodWrites tid (dstWritesN tid d n x) := by
  unfold dstWritesN
  split
  · next hn => exact goodWrites_dst64 tid (hd hn) x
  · exact goodWrites_dst tid d _

theorem b2n_word (b : Bool) : BitVec.ofNat 64 (b2n b) = if b then 1 else 0 := by cases b <;> rfl

theorem goodWrites_pred (tid : Nat) {p : Nat} (hp : p < 7) (b : Bool) : goodWrites tid [(tid, .p p, BitVec.ofNat 64 (b2n b))] := by
  constructor
  · intro w hw
    obtain rfl := List.mem_singleton.mp hw
    exact ⟨rfl, decide_eq_true hp, rfl, by cases b <;> rfl⟩
  · intro w hw w' hw' _
    rw [List.mem_singleton.mp hw, List.mem_singleton.mp hw']

-- The forms of floating lane instructions: when no flag starts a record, the instruction completes as said (R71-R73).

/-- The flags that an instruction raises start no record. -/
def Quiet (c : Iss) (fl : BitVec 5) : Prop := enabled c.tm.eff.sr fl = 0 ∨ c.tm.eff.sr.crumb.getLsbD 0 = false

section
variable {i : Instr} {s : State} {c : Iss} {lat gap : Nat} (he : c.endsWell)
include he

theorem completes_lanesF {u : Use} {d n : Nat} {x : State → Iss → Nat → DWord × BitVec 5}
    (hi : exec i s = .next (s.gate u (fun s c => s.laneRun c lat gap (fun tid => (dstWritesN tid d n (x s c tid).1, (x s c tid).2)))))
    (hd : n = 2 → d ≠ 119) (h : Ready s c (lanesF u d n x).use) (hq : Quiet c ((lanesF u d n x).flags s c)) :
    Completes i s c (lanesF u d n x) ((lanesF u d n x).flags s c) :=
  ⟨_, hi, gate_wrote h (State.laneRun_wrote lat gap (fun tid => (dstWritesN tid d n (x s c tid).1, (x s c tid).2)) h.iss he
    (fun tid => goodWrites_dstN tid hd _) _ List.foldl_map hq)⟩

/-- A 32-bit form. -/
theorem completes_low {u : Use} {d : Nat} {x : State → Iss → Nat → Word × BitVec 5}
    (hi : exec i s = .next (s.gate u (fun s c => s.laneRun c lat gap (fun tid => (dstWrites tid d (x s c tid).1, (x s c tid).2)))))
    (h : Ready s c (lanesF u d 1 (fun s c tid => low (x s c tid))).use) (hq : Quiet c ((lanesF u d 1 (fun s c tid => low (x s c tid))).flags s c)) :
    Completes i s c (lanesF u d 1 (fun s c tid => low (x s c tid))) ((lanesF u d 1 (fun s c tid => low (x s c tid))).flags s c) :=
  completes_lanesF he (by simp only [dstWritesN_low]; exact hi) (by simp) h hq

theorem predsF_wrote {p : Nat} (hp : p < 7) (hi : s.iss = some c) {fl : BitVec 5} {x : Nat → DWord} {f : Nat → BitVec 5} {g : Nat → Bool}
    (hx : ∀ tid, x tid = BitVec.ofNat 64 (b2n (g tid))) (hfl : c.g.tids.foldl (fun fl tid => fl ||| f tid) 0 = fl) (hq : Quiet c fl) :
    WroteOnly s (s.laneRun c lat gap (fun tid => ([(tid, .p p, x tid)], f tid))) c (c.g.tids.map (fun tid => (tid, .p p, if g tid then 1 else 0))) fl := by
  have key := State.laneRun_wrote lat gap (fun tid => ([(tid, Reg.p p, x tid)], f tid)) hi he
    (fun tid => by rw [hx]; exact goodWrites_pred tid hp _) fl (List.foldl_map.trans hfl) hq
  simpa only [hx, b2n_word, ← List.map_eq_flatMap] using key

/-- A comparison whose flags are those of each thread. -/
theorem completes_testF {m : BitVec 2} {p : BitVec 3} {a b : BitVec 7} {f : Word → Word → Bool × BitVec 5}
    (hi : exec i s = .next (s.laneCmp gap m p.toNat a.toNat b.toNat f)) (hp : p.toNat < 7) {fl : State → Iss → BitVec 5}
    (hfl : fl s c = c.g.tids.foldl (fun fl tid => fl ||| (f (c.src s tid a.toNat) (c.src s tid b.toNat)).2) 0)
    (h : Ready s c (test m p a b (fun x y => (f x y).1) fl).use) (hq : Quiet c (fl s c)) : Completes i s c (test m p a b (fun x y => (f x y).1) fl) (fl s c) := by
  refine ⟨_, hi, gate_wrote h (predsF_wrote he hp h.iss (fun tid => ?_) hfl.symm hq)⟩
  by_cases hm : m = 0
  · simp only [hm, if_true]
  · simp only [hm, if_false]

end

/-- Settles O2: every form executes in each thread, and its flags start no record. -/
theorem floatLaneResult : Obligations.FloatLaneResult := by
  intro i p s c hi hwf h he hq
  change Completes i s c p (p.flags s c)
  change Quiet c (p.flags s c) at hq
  cases i <;> cases hi
  case fcmp =>
    simp only [Instr.wf, Bool.and_eq_true] at hwf
    obtain ⟨⟨⟨⟨hp, -⟩, -⟩, -⟩, -⟩ := hwf
    exact completes_testF he rfl (toNat_of_wpred hp) rfl h hq
  case dadd | dmul | dfma =>
    simp only [Instr.wf, Bool.and_eq_true] at hwf
    obtain ⟨⟨hd, -⟩, -⟩ := hwf
    exact completes_lanesF he rfl (fun _ => dst64_ne hd) h hq
  case dneg | dabs | drcp | dsqrt =>
    simp only [Instr.wf, Bool.and_eq_true] at hwf
    obtain ⟨hd, -⟩ := hwf
    exact completes_lanesF he rfl (fun _ => dst64_ne hd) h hq
  case cvt st m d a t r =>
    simp only [Instr.wf, Bool.and_eq_true] at hwf
    refine completes_lanesF he rfl (fun hn => ?_) h hq
    obtain ⟨⟨-, hd⟩, -⟩ := hwf
    have hwide : cvtDst64 t = true := by
      by_contra hnot
      simp [hnot] at hn
    rw [if_pos hwide] at hd
    exact dst64_ne hd
  all_goals exact completes_low he rfl h hq

end Sys2Proof.Machine

namespace Sys2Proof.Machine

open Sys2Proof Sys2Proof.Said

-- Threads changed one after another, and a group that moves on: what else of the team stands.

theorem Team.foldUpd_rest (l : List Nat) (f : Nat → Thread → Thread) (a : Team) :
    { l.foldl (fun tm tid => tm.updThread tid (f tid)) a with threads := a.threads } = a := by
  induction l generalizing a with
  | nil => rfl
  | cons x l ih => exact congrArg (fun tm : Team => { tm with threads := a.threads }) (ih (a.updThread x (f x)))

@[simp] theorem Team.length_foldUpd (l : List Nat) (f : Nat → Thread → Thread) (a : Team) :
    (l.foldl (fun tm tid => tm.updThread tid (f tid)) a).threads.length = a.threads.length := by
  induction l generalizing a with
  | nil => rfl
  | cons x l ih => exact (ih _).trans (Team.length_updThread a x (f x))

/-- Each named thread changed, where a second change changes nothing more. -/
theorem Team.thread_foldUpd (l : List Nat) (f : Nat → Thread → Thread) (hf : ∀ tid th, f tid (f tid th) = f tid th) (a : Team) {tid : Nat}
    (hl : tid < a.threads.length) :
    (l.foldl (fun tm tid => tm.updThread tid (f tid)) a).thread tid = if tid ∈ l then f tid (a.thread tid) else a.thread tid := by
  induction l generalizing a with
  | nil => rfl
  | cons x l ih =>
    rw [List.foldl_cons, ih (a.updThread x (f x)) (by simpa using hl), Team.thread_updThread]
    by_cases hx : tid = x
    · subst hx
      simp [hl, hf]
    · simp [hx]

/-- Of a team whose group moves on just the group's threads, the groups, run-end shortfalls and the count of instructions change. -/
structure MovedOn (tids : List Nat) (a b : Team) : Prop where
  rest : { b with threads := a.threads, groups := a.groups, soft := a.soft, ret := a.ret } = a
  others : ∀ tid, tid ∉ tids → b.thread tid = a.thread tid

theorem MovedOn.refl (tids : List Nat) (a : Team) : MovedOn tids a a := ⟨rfl, fun _ _ => rfl⟩

theorem MovedOn.trans {tids : List Nat} {a b c : Team} (h : MovedOn tids a b) (k : MovedOn tids b c) : MovedOn tids a c :=
  ⟨(congrArg (fun tm : Team => { tm with threads := a.threads, groups := a.groups, soft := a.soft, ret := a.ret }) k.rest).trans h.rest,
    fun tid ht => (k.others tid ht).trans (h.others tid ht)⟩

theorem MovedOn.foldUpd (l : List Nat) (f : Nat → Thread → Thread) (a : Team) : MovedOn l a (l.foldl (fun tm tid => tm.updThread tid (f tid)) a) :=
  ⟨congrArg (fun tm : Team => { tm with groups := a.groups, soft := a.soft, ret := a.ret }) (Team.foldUpd_rest l f a), Team.foldUpd_other l f a⟩

theorem MovedOn.with (tids : List Nat) (a : Team) (groups : FMap Group) (soft : List (Reg × List DWord)) (ret : Nat) :
    MovedOn tids a { a with groups, soft, ret } := ⟨rfl, fun _ _ => rfl⟩

theorem State.advance_movedOn {s : State} {t gid : Nat} {tm : Team} {g : Group} (gap : Nat) (ht : s.team? t = some tm)
    (hg : FMap.get? tm.groups gid = some g) (hok : (g.idx + 1 ≠ g.body.length ∨ g.trl.isSome = true) ∨ g.chk = false) :
    ∃ tm', (s.advance t gid gap).team? t = some tm' ∧ MovedOn g.tids tm tm' := by
  let g' : Group := { g with idx := g.idx + 1, dist := g.dist + gap, due := s.clock + gap }
  let f : Team → Team := fun tm =>
    { (g.tids.foldl (fun tm tid => tm.updThread tid Thread.worked) tm) with groups := FMap.set tm.groups gid g', ret := min (tm.ret + 1) (2 ^ 32 - 1) }
  let s1 : State := ({ s with cursor := s.cursor + 1, freeCtr := s.freeCtr + 1 } : State).updTeam t f
  have ht1 : s1.team? t = some (f tm) := (State.team?_updTeam_self _ _ _).trans (congrArg (Option.map f) ht)
  have hworked : MovedOn g.tids tm (f tm) := (MovedOn.foldUpd g.tids (fun _ => Thread.worked) tm).trans (.with _ _ _ _ _)
  have hadv : s.advance t gid gap = if g.idx + 1 = g.body.length && g.trl.isNone then s1.endRun t gid [] else s1 := by
    have ht0 : ({ s with cursor := s.cursor + 1, freeCtr := s.freeCtr + 1 } : State).team? t = some tm := ht
    unfold State.advance
    simp only [ht0, hg]
    rfl
  by_cases hend : (g.idx + 1 = g.body.length && g.trl.isNone) = true
  · have hchk : g.chk = false := by
      simp only [Bool.and_eq_true, decide_eq_true_eq] at hend
      simpa [hend.1, Option.isNone_iff_eq_none.mp hend.2] using hok
    have hg1 : FMap.get? (f tm).groups gid = some g' := FMap.get?_set_self _ _ _
    obtain ⟨soft, more, hrun⟩ := State.endRun_noCheck [] ht1 hg1 (.inl hchk)
    rw [hadv, if_pos hend, hrun, State.team?_updTeam_self, ht1]
    exact ⟨_, rfl, hworked.trans ((MovedOn.foldUpd g.tids (fun tid th => th.goOn g'.due (soft tid)) (f tm)).trans (.with _ _ _ _ _))⟩
  · rw [hadv, if_neg hend]
    exact ⟨_, ht1, hworked⟩

/-- A group moves on after its team has changed, its groups apart. -/
theorem State.advance_after {s : State} {c : Iss} (gap : Nat) (f : Team → Team) (ht : s.team? c.t = some c.tm)
    (hg : FMap.get? c.tm.groups c.gid = some c.g) (he : c.endsWell) (hgroups : (f c.tm).groups = c.tm.groups) :
    SameMachine s ((s.updTeam c.t f).advance c.t c.gid gap) ∧ SameOthers s ((s.updTeam c.t f).advance c.t c.gid gap) c.t ∧
    ∃ tm, ((s.updTeam c.t f).advance c.t c.gid gap).team? c.t = some tm ∧ SameRegs (f c.tm) tm c.goesOn ∧ MovedOn c.g.tids (f c.tm) tm ∧
      ∀ tid, SameWay ((f c.tm).thread tid) (tm.thread tid) := by
  have ht1 : (s.updTeam c.t f).team? c.t = some (f c.tm) := by rw [State.team?_updTeam_self, ht]; rfl
  have hg1 : FMap.get? (f c.tm).groups c.gid = some c.g := by rw [hgroups, hg]
  obtain ⟨h, hadv, hregs, hway, -⟩ := State.advance_eq gap ht1 hg1 he
  obtain ⟨tm, htm, hmoved⟩ := State.advance_movedOn gap ht1 hg1 he
  have htm' : ((s.updTeam c.t f).advance c.t c.gid gap).team? c.t = some (h (f c.tm)) := by
    rw [hadv]
    exact (State.team?_updTeam_self _ _ _).trans (congrArg (Option.map h) ht1)
  obtain rfl : h (f c.tm) = tm := Option.some.inj (htm'.symm.trans htm)
  refine ⟨by rw [hadv]; rfl, fun u hu => ?_, _, htm, hregs, hmoved, hway⟩
  rw [hadv]
  exact (State.team?_updTeam _ _ _ _).trans ((if_neg hu).trans ((State.team?_updTeam _ _ _ _).trans (if_neg hu)))

-- KWR (R72, R203).

theorem kwr_kexc {st : BitVec 2} {k : BitVec 6} {s : State} {c : Iss} (h : Ready s c ((Use.ksrc k.toNat 1).add {})) (he : c.endsWell) :
    ∃ s' tm, exec (.kwr st k 0) s = .next s' ∧ SameMachine s s' ∧ SameOthers s s' c.t ∧ s'.team? c.t = some tm ∧ SameTeam c.tm tm ∧
      tm.kexc = (c.k s k.toNat).setWidth 5 ||| c.tm.freshFlags s.clock ∧ ∀ tid r, (r.isT = true → c.goesOn) → tm.reg tid r = c.tm.reg tid r := by
  obtain ⟨-, ht, hg⟩ := State.iss_eq h.iss
  obtain ⟨hm, ho, tm, htm, hregs, -, -⟩ := State.advance_after (gapOf st)
    (fun tm => { tm with kexc := (c.k s k.toNat).setWidth 5 ||| tm.freshFlags s.clock }) ht hg he rfl
  refine ⟨_, tm, exec_of_gate rfl h, hm, ho, htm, ?_, hregs.kexc, fun tid r hr => ?_⟩
  · exact SameTeam.trans (b := { c.tm with kexc := (c.k s k.toNat).setWidth 5 ||| c.tm.freshFlags s.clock }) ⟨rfl, rfl, fun _ => rfl⟩ hregs.team
  · exact (hregs.reg tid r hr).trans (Team.reg_congr rfl rfl rfl tid r)

theorem clip_flags (x : DWord) : (x &&& 0xF) = (x.setWidth 4).setWidth 64 := by
  apply BitVec.eq_of_toNat_eq
  have hmask : (0xF : DWord).toNat = 2 ^ 4 - 1 := rfl
  rw [BitVec.toNat_and, hmask, Nat.and_two_pow_sub_one_eq_mod, BitVec.toNat_setWidth, BitVec.toNat_setWidth]
  omega

theorem kwr_kf {st : BitVec 2} {k : BitVec 6} {s : State} {c : Iss} (h : Ready s c ((Use.ksrc k.toNat 1).add ⟨[], [.kf], 0, false⟩)) (he : c.endsWell) :
    ∃ s' tm, exec (.kwr st k 1) s = .next s' ∧ SameMachine s s' ∧ SameOthers s s' c.t ∧ s'.team? c.t = some tm ∧ SameTeam c.tm tm ∧
      tm.kexc = c.tm.kexc ∧ tm.kf = (c.k s k.toNat).setWidth 4 ∧ ∀ tid r, r ≠ .kf → (r.isT = true → c.goesOn) → tm.reg tid r = c.tm.reg tid r := by
  have hw := writeTeam_wrote (r := .kf) h.iss he 0 (gapOf st) rfl (x := c.k s k.toNat &&& 0xF) (by rw [clip_flags]; simp [Reg.clip])
  obtain ⟨tm, htm, hsame, hkexc, hin, hout⟩ := hw.team
  refine ⟨_, tm, exec_of_gate rfl h, hw.machine, hw.others, htm, hsame, by simpa using hkexc, ?_, fun tid r hr hT => hout tid r hT ?_⟩
  · have hkf : tm.kf.setWidth 64 = ((c.k s k.toNat).setWidth 4).setWidth 64 := (hin _ (List.mem_singleton_self _) nofun nofun).trans (clip_flags _)
    have := congrArg (BitVec.setWidth 4) hkf
    simpa using this
  · intro w hw' hreg
    obtain rfl := List.mem_singleton.mp hw'
    exact absurd hreg.symm hr

/-- Settles O13: kexc is the team's own field; kf is one register write. -/
theorem kwrResult : Obligations.KwrResult := by
  intro st k e s c hwf h he
  have hsel : e = 0 ∨ e = 1 := by
    have hle : e.toNat ≤ 1 := of_decide_eq_true hwf
    bv_omega
  rcases hsel with rfl | rfl
  · obtain ⟨s', tm, hexec, hm, ho, htm, hsame, hkexc, hregs⟩ := kwr_kexc (st := st) h he
    exact ⟨s', tm, hexec, hm, ho, htm, hsame, fun _ => ⟨hkexc, hregs⟩, nofun⟩
  · obtain ⟨s', tm, hexec, hm, ho, htm, hsame, hkf⟩ := kwr_kf (st := st) h he
    exact ⟨s', tm, hexec, hm, ho, htm, hsame, nofun, fun _ => hkf⟩

-- SIGN and CVSET (R197, R287).

/-- The group still issues when its team changes, its groups apart. -/
theorem State.iss_updTeam {s : State} {c : Iss} (hi : s.iss = some c) (f : Team → Team) (hgroups : (f c.tm).groups = c.tm.groups) :
    (s.updTeam c.t f).iss = some { c with tm := f c.tm } := by
  obtain ⟨hcur, ht, hg⟩ := State.iss_eq hi
  unfold State.iss
  simp only [State.updTeam_cur, hcur, State.team?_updTeam_self, ht, Option.map_some, hgroups, hg]

theorem insertSorted_eq (x : Nat) (l : List Nat) : insertSorted x l = l.orderedInsert (· ≤ ·) x := by
  induction l with
  | nil => rfl
  | cons y l ih => simp only [insertSorted, List.orderedInsert, ih]

theorem sortNat_perm (l : List Nat) : (sortNat l).Perm l := by
  have hsort : sortNat l = l.insertionSort (· ≤ ·) := by
    induction l with
    | nil => rfl
    | cons x l ih => exact (insertSorted_eq x _).trans (congrArg _ ih)
  rw [hsort]
  exact List.perm_insertionSort _ l

/-- A thread that has done, or has yet to do, its part of an instruction. -/
def Thread.setPart (b : Bool) (th : Thread) : Thread := { th with part := b }

/-- The same of several threads. -/
def Team.setPart (tm : Team) (l : List Nat) (b : Bool) : Team := l.foldl (fun tm tid => tm.updThread tid (Thread.setPart b)) tm

theorem Team.setPart_cv (l : List Nat) (b : Bool) (a : Team) (m : FMap (Nat × Nat)) : { a with cv := m }.setPart l b = { a.setPart l b with cv := m } := by
  unfold Team.setPart
  induction l generalizing a with
  | nil => rfl
  | cons x l ih => exact ih (a.updThread x _)

@[simp] theorem Team.cv_setPart (l : List Nat) (b : Bool) (a : Team) : (a.setPart l b).cv = a.cv :=
  (congrArg Team.cv (Team.foldUpd_rest l (fun _ => Thread.setPart b) a) :)

@[simp] theorem Team.groups_setPart (l : List Nat) (b : Bool) (a : Team) : (a.setPart l b).groups = a.groups :=
  (congrArg Team.groups (Team.foldUpd_rest l (fun _ => Thread.setPart b) a) :)

@[simp] theorem Team.kexc_setPart (l : List Nat) (b : Bool) (a : Team) : (a.setPart l b).kexc = a.kexc :=
  (congrArg Team.kexc (Team.foldUpd_rest l (fun _ => Thread.setPart b) a) :)

theorem SameTeam.setPart (l : List Nat) (b : Bool) (a : Team) : SameTeam a (a.setPart l b) :=
  SameTeam.foldUpd l (fun _ => Thread.setPart b) (fun _ _ => rfl) a

@[simp] theorem Team.reg_setPart (l : List Nat) (b : Bool) (a : Team) (tid : Nat) (r : Reg) : (a.setPart l b).reg tid r = a.reg tid r :=
  Team.foldUpd_reg l (fun _ => Thread.setPart b) a tid r fun _ _ => by cases r <;> rfl

theorem Team.part_setPart (l : List Nat) (b : Bool) (a : Team) {tid : Nat} (hl : tid < a.threads.length) (h : tid ∈ l) : ((a.setPart l b).thread tid).part = b := by
  rw [Team.setPart, Team.thread_foldUpd l (fun _ => Thread.setPart b) (fun _ _ => rfl) a hl, if_pos h]
  rfl

/-- Changes of the signature registers apart, a team is as it was. -/
theorem SameTeam.off_cv {a b : Team} {m : FMap (Nat × Nat)} (h : SameTeam { a with cv := m } b) : SameTeam a { b with cv := a.cv } ∧ b.cv = m := by
  obtain ⟨hrest, hlen, hth⟩ := h
  exact ⟨⟨congrArg (fun tm : Team => { tm with cv := a.cv }) hrest, hlen, hth⟩, congrArg Team.cv hrest⟩

theorem Team.sign_counts {a : Team} {tid n e k : Nat} (hcv : FMap.getD a.cv n (0, 0) = (e, k)) (hroom : e = 0 ∨ k < e) (hpart : (a.thread tid).part = false) :
    a.sign tid n = { a.updThread tid (Thread.setPart true) with cv := if e = 0 then a.cv else FMap.set a.cv n (e, k + 1) } := by
  unfold Team.sign
  simp only [hcv, hpart, Bool.false_eq_true, if_false]
  by_cases he : e = 0
  · simp only [he, if_true]
    rfl
  · simp only [he, if_false, hroom.resolve_left he, if_true]
    rfl

/-- Threads that have yet to sign, and for which there is room, sign one after another. -/
theorem Team.signs (l : List Nat) (a : Team) {n e : Nat} (k : Nat) (hcv : FMap.getD a.cv n (0, 0) = (e, k)) (hroom : e = 0 ∨ k + l.length ≤ e) (hl : l.Nodup)
    (hpart : ∀ tid ∈ l, (a.thread tid).part = false) :
    ∃ m, l.foldl (fun tm tid => tm.sign tid n) a = { a.setPart l true with cv := m } ∧
      FMap.getD m n (0, 0) = (e, if e = 0 then k else k + l.length) ∧ ∀ j, j ≠ n → FMap.getD m j (0, 0) = FMap.getD a.cv j (0, 0) := by
  induction l generalizing a k with
  | nil => exact ⟨a.cv, rfl, by simpa using hcv, fun _ _ => rfl⟩
  | cons x l ih =>
    obtain ⟨hx, hl⟩ := List.nodup_cons.mp hl
    rw [List.length_cons] at hroom ⊢
    have hsign := Team.sign_counts hcv (hroom.imp_right fun h => by omega) (hpart x List.mem_cons_self)
    generalize hm : (if e = 0 then a.cv else FMap.set a.cv n (e, k + 1)) = m1 at hsign
    have hcv1 : FMap.getD m1 n (0, 0) = (e, if e = 0 then k else k + 1) := by
      rw [← hm]
      split
      · exact hcv
      · exact FMap.getD_set_self _ _ _ _
    have hne1 : ∀ j, j ≠ n → FMap.getD m1 j (0, 0) = FMap.getD a.cv j (0, 0) := by
      intro j hj
      rw [← hm]
      split
      · rfl
      · exact FMap.getD_set_ne _ _ _ hj
    have hpart1 : ∀ tid ∈ l, ((a.updThread x (Thread.setPart true)).thread tid).part = false := by
      intro tid ht
      have hne : tid ≠ x := fun heq => hx (heq ▸ ht)
      rw [Team.thread_updThread, if_neg fun hand => hne hand.1]
      exact hpart tid (List.mem_cons_of_mem _ ht)
    obtain ⟨m, hfold, hn, hne⟩ := ih { a.updThread x (Thread.setPart true) with cv := m1 } _ hcv1
      (hroom.imp_right fun h => by split <;> omega) hl hpart1
    refine ⟨m, ?_, ?_, fun j hj => (hne j hj).trans (hne1 j hj)⟩
    · rw [List.foldl_cons, hsign, hfold, Team.setPart_cv]
      rfl
    · rw [hn]
      by_cases he : e = 0
      · simp only [he, if_true]
      · simp only [he, if_false, Nat.add_assoc, Nat.add_comm 1]

section
variable {s : State} {c : Iss} {st : BitVec 2} {n : BitVec 3} {m : BitVec 11} (h : Ready s c {})
include h

theorem sign_illegal (hn : c.tm.tr.cv ≤ n.toNat) : exec (.sign st n) s = .next (s.trapAll c.t c.gid c.g .illegal) :=
  (exec_of_gate rfl h).trans (congrArg _ (if_pos hn))

theorem cvset_illegal (hn : c.tm.tr.cv ≤ n.toNat) : exec (.cvset st n m) s = .next (s.trapAll c.t c.gid c.g .illegal) :=
  (exec_of_gate rfl h).trans (congrArg _ (if_pos hn))

theorem cvset_sets (he : c.endsWell) (hn : n.toNat < c.tm.tr.cv) :
    ∃ s' tm, exec (.cvset st n m) s = .next s' ∧ SameMachine s s' ∧ SameOthers s s' c.t ∧ s'.team? c.t = some tm ∧
      SameTeam c.tm { tm with cv := c.tm.cv } ∧ tm.cv = FMap.set c.tm.cv n.toNat (m.toNat, 0) ∧ tm.kexc = c.tm.kexc ∧
      ∀ tid r, (r.isT = true → c.goesOn) → tm.reg tid r = c.tm.reg tid r := by
  obtain ⟨-, ht, hg⟩ := State.iss_eq h.iss
  obtain ⟨hm, ho, tm, htm, hregs, -, -⟩ := State.advance_after (gapOf st) (fun tm => { tm with cv := FMap.set tm.cv n.toNat (m.toNat, 0) }) ht hg he rfl
  obtain ⟨hsame, hcv⟩ := hregs.team.off_cv
  exact ⟨_, tm, (exec_of_gate rfl h).trans (congrArg _ (if_neg (by omega))), hm, ho, htm, hsame, hcv, hregs.kexc,
    fun tid r hr => (hregs.reg tid r hr).trans (Team.reg_congr rfl rfl rfl tid r)⟩

/-- Threads that all sign at once go on. -/
theorem sign_signs (he : c.endsWell) (hn : n.toNat < c.tm.tr.cv) {e k : Nat} (hcv : FMap.getD c.tm.cv n.toNat (0, 0) = (e, k))
    (hroom : e = 0 ∨ k + c.g.tids.length ≤ e) (hnodup : c.g.tids.Nodup) (hpart : ∀ tid ∈ c.g.tids, tid < c.tm.threads.length ∧ (c.tm.thread tid).part = false) :
    ∃ s' tm, exec (.sign st n) s = .next s' ∧ SameMachine s s' ∧ SameOthers s s' c.t ∧ s'.team? c.t = some tm ∧
      SameTeam c.tm { tm with cv := c.tm.cv } ∧ tm.kexc = c.tm.kexc ∧ FMap.getD tm.cv n.toNat (0, 0) = (e, if e = 0 then k else k + c.g.tids.length) ∧
      (∀ j, j ≠ n.toNat → FMap.getD tm.cv j (0, 0) = FMap.getD c.tm.cv j (0, 0)) ∧
      ∀ tid r, (r.isT = true → c.goesOn) → tm.reg tid r = c.tm.reg tid r := by
  obtain ⟨hcur, ht, hg⟩ := State.iss_eq h.iss
  have hperm := sortNat_perm c.g.tids
  obtain ⟨cv, hfold, hcvn, hcvne⟩ := Team.signs (sortNat c.g.tids) c.tm k hcv (by rwa [hperm.length_eq]) (hperm.nodup_iff.mpr hnodup)
    (fun tid htid => (hpart tid (hperm.mem_iff.mp htid)).2)
  rw [hperm.length_eq] at hcvn
  let f : Team → Team := fun tm => (sortNat c.g.tids).foldl (fun tm tid => tm.sign tid n.toNat) tm
  let signed : Team := { c.tm.setPart (sortNat c.g.tids) true with cv }
  have hiss : (s.updTeam c.t f).iss = some { c with tm := signed } := by
    rw [State.iss_updTeam h.iss f (by simp only [f, hfold, Team.groups_setPart])]
    exact congrArg (fun tm => some { c with tm }) hfold
  have hall : c.g.tids.all (fun tid => (signed.thread tid).part) = true :=
    List.all_eq_true.mpr fun tid htid => Team.part_setPart _ _ _ (hpart tid htid).1 (hperm.mem_iff.mpr htid)
  have hexec : exec (.sign st n) s = .next (((s.updTeam c.t f).updTeam c.t (fun tm => tm.setPart c.g.tids false)).advance c.t c.gid (gapOf st)) := by
    refine (exec_of_gate rfl h).trans (congrArg _ ((if_neg (by omega)).trans ?_))
    simp only [f, hiss] at hall ⊢
    rw [if_pos hall]
    rfl
  rw [State.updTeam_updTeam] at hexec
  have hf : (f c.tm).setPart c.g.tids false = { (c.tm.setPart (sortNat c.g.tids) true).setPart c.g.tids false with cv } :=
    (congrArg (fun tm : Team => tm.setPart c.g.tids false) hfold).trans (Team.setPart_cv _ _ _ _)
  obtain ⟨hm, ho, tm, htm, hregs, -, -⟩ := State.advance_after (gapOf st) (fun tm => (f tm).setPart c.g.tids false) ht hg he (by simp [hf])
  rw [hf] at hregs
  obtain ⟨hsame, hcv'⟩ := hregs.team.off_cv
  refine ⟨_, tm, hexec, hm, ho, htm, ((SameTeam.setPart _ _ _).trans (SameTeam.setPart _ _ _)).trans (by simpa using hsame), by simpa using hregs.kexc,
    hcv' ▸ hcvn, hcv' ▸ hcvne, fun tid r hr => (hregs.reg tid r hr).trans ?_⟩
  exact (Team.reg_congr (a := (c.tm.setPart (sortNat c.g.tids) true).setPart c.g.tids false) rfl rfl rfl tid r).trans (by simp)

end

/-- Settles O12: the threads of a group sign one after another, which counts as one sum, and CVSET writes the two counts at once. -/
theorem signaturesCount : Obligations.SignaturesCount := by
  intro st n m s c h he
  refine ⟨fun hn => ⟨sign_illegal h hn, cvset_illegal h hn⟩, fun hn => ⟨cvset_sets h he hn, fun e k hcv hroom hnodup hpart => ?_⟩⟩
  exact sign_signs h he hn hcv hroom hnodup hpart

-- EXIT (R195, R364, R371).

/-- A thread that exits, as the model has it. -/
def Thread.exits (th : Thread) : Thread := if th.hm then th.ended else { th with exited := true, held := false }

/-- A thread whose machine checks have gone to its context. -/
def Thread.unchecked (th : Thread) : Thread := { th with mcheck := [] }

theorem Thread.exits_exits (th : Thread) : th.exits.exits = th.exits := by
  unfold Thread.exits
  cases h : th.hm <;> simp [Thread.ended]

theorem Thread.reg_exits (th : Thread) (tid : Nat) (r : Reg) : th.exits.reg tid r = th.reg tid r := by
  unfold Thread.exits
  cases h : th.hm <;> cases r <;> rfl

theorem Thread.exited_exits (th : Thread) : th.exits.exited = true := by
  unfold Thread.exits
  cases h : th.hm <;> rfl

/-- A thread that exits is as the statement says, its machine checks gone before. -/
theorem Thread.gone_exits (th : Thread) : SameThread (gone th) th.unchecked.exits := by
  unfold Thread.exits gone
  cases h : th.hm <;> simp only [Thread.unchecked, h, if_true, Bool.false_eq_true, if_false] <;> rfl

/-- Of the machine checks of threads the context takes each, and the threads are rid of them (R364). -/
theorem State.orphanChecks_eq {s : State} {t : Nat} {tm : Team} (tids : List Nat) (ht : s.team? t = some tm) :
    ∃ s1 : State, s.orphanChecks t tids = s1.updTeam t (fun tm => tids.foldl (fun tm tid => tm.updThread tid Thread.unchecked) tm) ∧ s1.teams = s.teams := by
  unfold State.orphanChecks
  simp only [ht]
  exact ⟨_, rfl, (State.foldl_keeps Reported.refl (fun _ _ _ => Reported.trans) _ (fun s _ => .contextMc s _ _ _ _) _ s).teams⟩

section
variable {s : State} {c : Iss} (h : Ready s c {}) (he : c.endsWell)
include h he

theorem exit_ends : ∃ s' tm, exec .exit s = .next s' ∧ SameMachine (s.orphanChecks c.t c.g.tids) s' ∧ SameOthers s s' c.t ∧ s'.team? c.t = some tm ∧
    (∀ tid ∈ c.g.tids, tid < c.tm.threads.length → (tm.thread tid).exited = true ∧ SameThread (gone (c.tm.thread tid)) (tm.thread tid)) ∧
    (∀ tid r, (r.isT = true → c.goesOn) → tm.reg tid r = c.tm.reg tid r) ∧ tm.threads.length = c.tm.threads.length ∧ MovedOn c.g.tids c.tm tm := by
  obtain ⟨-, ht, hg⟩ := State.iss_eq h.iss
  obtain ⟨s1, horphan, hteams⟩ := State.orphanChecks_eq c.g.tids ht
  let unchecked : Team → Team := fun tm => c.g.tids.foldl (fun tm tid => tm.updThread tid Thread.unchecked) tm
  let exits : Team → Team := fun tm => c.g.tids.foldl (fun tm tid => tm.updThread tid Thread.exits) tm
  have hother : ∀ u, s1.team? u = s.team? u := fun u => congrArg (fun m => FMap.get? m u) hteams
  have ht1 : s1.team? c.t = some c.tm := (hother c.t).trans ht
  have hexec : exec .exit s = .next (((s.orphanChecks c.t c.g.tids).updTeam c.t exits).advance c.t c.gid 1) :=
    (exec_of_gate (i := .exit) rfl h).trans rfl
  have hu : MovedOn c.g.tids c.tm (unchecked c.tm) := MovedOn.foldUpd _ (fun _ => Thread.unchecked) _
  have he2 : MovedOn c.g.tids (unchecked c.tm) (exits (unchecked c.tm)) := MovedOn.foldUpd _ (fun _ => Thread.exits) _
  let c1 : Iss := { c with tm := unchecked c.tm }
  have ht2 : (s.orphanChecks c.t c.g.tids).team? c.t = some (unchecked c.tm) := by
    rw [horphan, State.team?_updTeam_self, ht1]
    rfl
  have hg2 : FMap.get? (unchecked c.tm).groups c.gid = some c.g := (congrArg (FMap.get? · c.gid) (Team.foldUpd_fields _ (fun _ => Thread.unchecked) c.tm).2.1).trans hg
  have hl : ∀ tid, tid < c.tm.threads.length → tid < (unchecked c.tm).threads.length := fun tid h => by simpa [unchecked] using h
  obtain ⟨hm, ho, tm, htm, hregs, hmoved, hway⟩ := State.advance_after (c := c1) 1 exits ht2 hg2 he (Team.foldUpd_fields _ (fun _ => Thread.exits) _).2.1
  have hgone : ∀ tid ∈ c.g.tids, tid < c.tm.threads.length → (exits (unchecked c.tm)).thread tid = (c.tm.thread tid).unchecked.exits := by
    intro tid htid hlen
    have h1 := Team.thread_foldUpd c.g.tids (fun _ => Thread.unchecked) (fun _ _ => rfl) c.tm hlen
    have h2 := Team.thread_foldUpd c.g.tids (fun _ => Thread.exits) (fun _ => Thread.exits_exits) (unchecked c.tm) (hl tid hlen)
    rw [if_pos htid] at h1 h2
    exact h2.trans (congrArg Thread.exits h1)
  refine ⟨_, tm, hexec, hm, fun u hne => ?_, htm, fun tid htid hlen => ?_, fun tid r hr => ?_, ?_, (hu.trans he2).trans hmoved⟩
  · rw [ho u hne, horphan, State.team?_updTeam, if_neg hne, hother]
  · exact ⟨(hway tid).2.trans (hgone tid htid hlen ▸ Thread.exited_exits _), ((hgone tid htid hlen) ▸ Thread.gone_exits _ : SameThread _ _).trans (hregs.team.2.2 tid)⟩
  · rw [hregs.reg tid r hr, Team.foldUpd_reg _ (fun _ => Thread.exits) _ tid r (fun _ th => th.reg_exits tid r)]
    exact Team.foldUpd_reg _ (fun _ => Thread.unchecked) _ tid r (fun _ _ => by cases r <;> rfl)
  · exact hregs.team.2.1.trans ((Team.length_foldUpd _ _ _).trans (Team.length_foldUpd _ _ _))

end

/-- Settles O5: the threads change one after another, and the run's end leaves a thread that has exited as it is. -/
theorem exitEnds : Obligations.ExitEnds := by
  intro s c h he
  obtain ⟨s', tm, hexec, hm, ho, htm, hgone, hregs, hlen, hmoved⟩ := exit_ends h he
  exact ⟨s', tm, hexec, hm, ho, htm, hgone, hmoved.others, hmoved.rest, hlen, hregs⟩

end Sys2Proof.Machine

namespace Sys2Proof.Machine

open Sys2Proof Sys2Proof.Said

-- The functions of the cross-thread instructions (R219-R222): what the model gives each arrival, and what the statement says.

/-- The threads of a crew that come to an execution, in ascending index. -/
def Rising {α : Type} (l : List (Nat × α)) : Prop := l.Pairwise (fun p q => p.1 < q.1)

theorem Rising.nodup {α : Type} {l : List (Nat × α)} (h : Rising l) : l.Nodup := h.imp fun hlt heq => hlt.ne (congrArg Prod.fst heq)

theorem Rising.find {α : Type} {l : List (Nat × α)} (h : Rising l) {r : Nat × α} (hr : r ∈ l) : l.find? (fun q => q.1 == r.1) = some r := by
  induction l with
  | nil => simp at hr
  | cons x l ih =>
    obtain ⟨hx, hl⟩ := List.pairwise_cons.mp h
    rcases List.mem_cons.mp hr with rfl | hr
    · simp
    · have hne : (x.1 == r.1) = false := by simpa using (hx r hr).ne
      rw [List.find?_cons, hne]
      exact ih hl hr

/-- An entry stands behind as many as have a smaller index. -/
theorem Rising.getElem_countP {α : Type} {l : List (Nat × α)} (h : Rising l) {r : Nat × α} (hr : r ∈ l) :
    l[l.countP (fun q => decide (q.1 < r.1))]? = some r := by
  induction l with
  | nil => simp at hr
  | cons x l ih =>
    obtain ⟨hx, hl⟩ := List.pairwise_cons.mp h
    rcases List.mem_cons.mp hr with rfl | hr
    · have hzero : l.countP (fun q => decide (q.1 < r.1)) = 0 := by
        rw [List.countP_eq_zero]
        intro q hq
        have := hx q hq
        simp only [decide_eq_true_eq]
        omega
      rw [List.countP_cons, hzero]
      simp
    · rw [List.countP_cons_of_pos (by simpa using hx r hr), List.getElem?_cons_succ]
      exact ih hl hr

theorem Rising.index {α : Type} {l : List (Nat × α)} (h : Rising l) {k t : Nat} (hk : (l[k]?).map Prod.fst = some t) :
    k = l.countP (fun q => decide (q.1 < t)) := by
  obtain ⟨r, hr, rfl⟩ := Option.map_eq_some_iff.mp hk
  obtain ⟨hlt, -⟩ := List.getElem?_eq_some_iff.mp hr
  exact (List.getElem?_inj hlt h.nodup).mp (hr.trans (h.getElem_countP (List.mem_of_getElem? hr)).symm)

theorem findSome?_range {β : Type} {f : Nat → Option β} {i : Nat} (h : ∀ k, k ≠ i → f k = none) (n : Nat) :
    (List.range n).findSome? f = if i < n then f i else none := by
  induction n with
  | zero => rfl
  | succ n ih =>
    rw [List.range_succ, List.findSome?_append, ih, List.findSome?_singleton]
    rcases Nat.lt_trichotomy i n with hlt | rfl | hgt
    · simp [hlt, h n (by omega), Nat.lt_succ_of_lt hlt]
    · simp
    · simp [h n (by omega), show ¬ i < n by omega, show ¬ i < n + 1 by omega]

/-- What stands in one list at the place that a thread has in another. -/
theorem Rising.findSome?_place {α β γ : Type} {l : List (Nat × α)} (h : Rising l) (src : List β) (g : β → γ) (n t : Nat) :
    (List.range n).findSome? (fun k => if (l[k]?).map Prod.fst = some t then (src[k]?).map g else none) =
      if ∃ r ∈ l, r.1 = t ∧ l.countP (fun q => decide (q.1 < t)) < n then (src[l.countP (fun q => decide (q.1 < t))]?).map g else none := by
  rw [findSome?_range (i := l.countP (fun q => decide (q.1 < t))) (fun k hk => if_neg fun hmem => hk (h.index hmem))]
  by_cases hmem : ∃ r ∈ l, r.1 = t
  · obtain ⟨r, hr, rfl⟩ := hmem
    have hat : (l[l.countP (fun q => decide (q.1 < r.1))]?).map Prod.fst = some r.1 := congrArg (Option.map Prod.fst) (h.getElem_countP hr)
    rw [if_pos hat]
    by_cases hlt : l.countP (fun q => decide (q.1 < r.1)) < n
    · rw [if_pos hlt, if_pos ⟨r, hr, rfl, hlt⟩]
    · rw [if_neg hlt, if_neg fun ⟨_, _, _, hlt'⟩ => hlt hlt']
  · have hnone : (l[l.countP (fun q => decide (q.1 < t))]?).map Prod.fst ≠ some t := by
      intro hsome
      obtain ⟨r, hr, hrt⟩ := Option.map_eq_some_iff.mp hsome
      exact hmem ⟨r, List.mem_of_getElem? hr, hrt⟩
    rw [if_neg hnone, ite_self, if_neg fun ⟨r, hr, hrt, _⟩ => hmem ⟨r, hr, hrt⟩]

/-- The model's function of a cross-thread instruction gives each arrival what the statement says. -/
def Gives (f : CrossFn) (out : SysRegs → List (Nat × Arrival) → Nat → XRes) : Prop :=
  ∀ sr l, Rising l → f sr l = l.map (fun r => (r.1, out sr l r.1))

theorem gives_map {g : SysRegs → List (Nat × Arrival) → Nat × Arrival → XRes} {out : SysRegs → List (Nat × Arrival) → Nat → XRes}
    (h : ∀ sr l, Rising l → ∀ r ∈ l, g sr l r = out sr l r.1) : Gives (fun sr l => l.map (fun r => (r.1, g sr l r))) out := by
  intro sr l hl
  exact List.map_congr_left fun r hr => by rw [h sr l hl r hr]

theorem own_eq {l : List (Nat × Arrival)} (h : Rising l) {r : Nat × Arrival} (hr : r ∈ l) : own l r.1 = r.2 := by simp [own, h.find hr]

theorem elect_gives : Gives electFn (fun _ l tid => { p := some (l.all (fun r => decide (tid ≤ r.1))) }) := by
  refine gives_map fun sr l hl r hr => ?_
  cases l with
  | nil => simp at hr
  | cons x l =>
    obtain ⟨hx, -⟩ := List.pairwise_cons.mp hl
    have hhead : (some r.1 == some x.1) = ((x :: l).all fun q => decide (r.1 ≤ q.1)) := by
      rw [Bool.eq_iff_iff, beq_iff_eq, Option.some.injEq, List.all_eq_true]
      simp only [decide_eq_true_eq]
      constructor
      · intro heq q hq
        rcases List.mem_cons.mp hq with rfl | hq
        · exact heq.le
        · exact heq.trans_le (hx q hq).le
      · intro hle
        rcases List.mem_cons.mp hr with rfl | hr
        · rfl
        · exact absurd (hle x List.mem_cons_self) (by have := hx r hr; omega)
    exact congrArg (fun b => ({ p := some b } : XRes)) hhead

theorem shfl_gives (m : BitVec 2) : Gives (shflFn m) (fun _ l tid =>
    let b := (own l tid).b.toNat
    let i := tid % 32
    let j : Int := if m = 0 then b else if m = 1 then i - b else if m = 2 then i + b else ((i ^^^ b : Nat) : Int)
    .word (match l.find? (fun r => ((r.1 % 32 : Nat) : Int) == j) with
      | some r => r.2.a
      | none => (own l tid).a)) := by
  refine gives_map fun sr l hl r hr => ?_
  have hsrc : ∀ j : Int, l.find? (fun q => decide (0 ≤ j) && (q.1 % 32 == j.toNat)) = l.find? (fun q => ((q.1 % 32 : Nat) : Int) == j) := by
    intro j
    congr 1
    funext q
    rw [Bool.eq_iff_iff]
    simp only [Bool.and_eq_true, decide_eq_true_eq, beq_iff_eq]
    omega
  have hval : ∀ o : Option (Nat × Arrival), (o.map (fun q => q.2.a)).getD r.2.a = match o with
      | some q => q.2.a
      | none => r.2.a := fun o => by cases o <;> rfl
  dsimp only
  rw [own_eq hl hr, hsrc]
  exact congrArg XRes.word (hval _)

theorem vote_gives : Gives (voteFn 0) (fun _ l _ => .word (if l.any (fun r => r.2.p) then 1 else 0)) ∧
    Gives (voteFn 1) (fun _ l _ => .word (if l.all (fun r => r.2.p) then 1 else 0)) ∧
    Gives (voteFn 2) (fun _ l _ => .word (crossMask l (fun r => r.p))) := by
  have hbit : ∀ b : Bool, BitVec.ofNat 32 (b2n b) = if b then 1 else 0 := fun b => by cases b <;> rfl
  exact ⟨gives_map fun _ _ _ _ _ => congrArg XRes.word (hbit _), gives_map fun _ _ _ _ _ => congrArg XRes.word (hbit _), gives_map fun _ _ _ _ _ => rfl⟩

theorem match_gives : Gives matchFn (fun _ l tid => .word (crossMask l (fun r => r.a == (own l tid).a))) :=
  gives_map fun _ _ hl _ hr => by rw [own_eq hl hr]

theorem cred_gives (op : Nat) (t : BitVec 2) : Gives (credFn op t) (fun sr l _ => .word (credScan op t sr l).2.1 (credScan op t sr l).2.2) :=
  gives_map fun _ _ _ _ _ => rfl

/-- One value more in the running values of R221. -/
def credStep (op : Nat) (t : BitVec 2) (sr : SysRegs) (acc : List (Nat × Word × Word) × Word × BitVec 5) (r : Nat × Arrival) :
    List (Nat × Word × Word) × Word × BitVec 5 :=
  let n := if acc.1.isEmpty then credFirst t r.2.a else credOp op t sr acc.2.1 r.2.a
  (acc.1 ++ [(r.1, (if acc.1.isEmpty then 0 else acc.2.1), n.1)], n.1, acc.2.2 ||| n.2)

/-- The running values stand by the threads that give them. -/
theorem credScan_keys (op : Nat) (t : BitVec 2) (sr : SysRegs) (l : List (Nat × Arrival)) : (credScan op t sr l).1.map Prod.fst = l.map Prod.fst := by
  suffices h : ∀ acc : List (Nat × Word × Word) × Word × BitVec 5, ((l.foldl (credStep op t sr) acc).1.map Prod.fst) = acc.1.map Prod.fst ++ l.map Prod.fst from
    h ([], 0, 0)
  induction l with
  | nil => simp
  | cons r l ih =>
    intro acc
    rw [List.foldl_cons, ih]
    simp [credStep]

theorem cscan_gives (t : BitVec 2) (g : Nat × Word × Word → Word) :
    Gives (fun sr l => (credScan 0 t sr l).1.map (fun r => (r.1, .word (g r) (credScan 0 t sr l).2.2))) (fun sr l tid =>
      .word (((credScan 0 t sr l).1.find? (fun r => r.1 == tid)).map g |>.getD 0) (credScan 0 t sr l).2.2) := by
  intro sr l hl
  have hkeys := credScan_keys 0 t sr l
  have hout : Rising (credScan 0 t sr l).1 := List.pairwise_map.mp (hkeys ▸ List.pairwise_map.mpr hl)
  let give (tid : Nat) : Nat × XRes := (tid, .word (((credScan 0 t sr l).1.find? (fun r => r.1 == tid)).map g |>.getD 0) (credScan 0 t sr l).2.2)
  calc (credScan 0 t sr l).1.map (fun r => (r.1, XRes.word (g r) (credScan 0 t sr l).2.2))
      = (credScan 0 t sr l).1.map (fun r => give r.1) := List.map_congr_left fun r hr => by simp only [give, hout.find hr, Option.map_some, Option.getD_some]
    _ = ((credScan 0 t sr l).1.map Prod.fst).map give := by rw [List.map_map]; rfl
    _ = l.map (fun r => give r.1) := by rw [hkeys, List.map_map]; rfl

/-- The entries that a predicate selects rise too. -/
theorem Rising.filter {α : Type} {l : List (Nat × α)} (h : Rising l) (p : Nat × α → Bool) : Rising (l.filter p) := h.sublist List.filter_sublist

theorem compress_gives : Gives (packFn false) (fun _ l tid =>
    { d := ((l.filter (fun r => r.2.p))[l.countP (fun r => decide (r.1 < tid))]?).map (fun r => r.2.a)
      l := some (BitVec.ofNat 32 (l.countP (fun r => r.2.p))) }) := by
  refine gives_map fun sr l hl r hr => ?_
  have hplace := hl.findSome?_place (l.filter (fun q => q.2.p)) (fun q => q.2.a) (l.filter (fun q => q.2.p)).length r.1
  simp only [Bool.false_eq_true, if_false, List.countP_eq_length_filter (p := fun r : Nat × Arrival => r.2.p)]
  rw [hplace]
  by_cases hlt : l.countP (fun q => decide (q.1 < r.1)) < (l.filter (fun q => q.2.p)).length
  · rw [if_pos ⟨r, hr, rfl, hlt⟩]
  · rw [if_neg fun ⟨_, _, _, h⟩ => hlt h, List.getElem?_eq_none (Nat.le_of_not_lt hlt)]
    rfl

theorem expand_gives : Gives (packFn true) (fun _ l tid =>
    { d := if (own l tid).p then (l[l.countP (fun r => r.2.p && decide (r.1 < tid))]?).map (fun r => r.2.a) else none
      l := some (BitVec.ofNat 32 (l.countP (fun r => r.2.p))) }) := by
  refine gives_map fun sr l hl r hr => ?_
  have hsel := hl.filter (fun q => q.2.p)
  have hplace := hsel.findSome?_place l (fun q => q.2.a) (l.filter (fun q => q.2.p)).length r.1
  have hcount : (l.filter (fun q => q.2.p)).countP (fun q => decide (q.1 < r.1)) = l.countP (fun q => q.2.p && decide (q.1 < r.1)) := by
    rw [List.countP_filter]
    congr 1
    funext q
    exact Bool.and_comm _ _
  simp only [if_true, List.countP_eq_length_filter (p := fun r : Nat × Arrival => r.2.p)]
  rw [hplace, own_eq hl hr, hcount]
  by_cases hp : r.2.p = true
  · have hmem : r ∈ l.filter (fun q => q.2.p) := List.mem_filter.mpr ⟨hr, hp⟩
    have hlt := (List.getElem?_eq_some_iff.mp (hsel.getElem_countP hmem)).1
    rw [hcount] at hlt
    rw [if_pos ⟨r, hmem, rfl, hlt⟩, if_pos hp]
  · rw [if_neg hp, if_neg]
    rintro ⟨q, hq, hqr, -⟩
    obtain ⟨hql, hqp⟩ := List.mem_filter.mp hq
    have heq : q = r := Option.some.inj ((hl.find hql).symm.trans (hqr ▸ hl.find hr))
    exact hp (heq ▸ hqp)

end Sys2Proof.Machine

namespace Sys2Proof.Machine

open Sys2Proof Sys2Proof.Said

-- A cross-thread instruction at which whole crews stand (R19, R193): every thread arrives, each crew executes, and no arrival or result is left.

theorem Team.ext_threads {a b : Team} (hrest : { b with threads := a.threads } = a) (hlen : b.threads.length = a.threads.length)
    (h : ∀ tid, tid < a.threads.length → b.thread tid = a.thread tid) : b = a := by
  have hths : b.threads = a.threads := by
    refine List.ext_getElem hlen fun tid h1 h2 => ?_
    simpa [Team.thread, h1, h2] using h tid h2
  rw [← hrest, ← hths]

theorem nodup_dedup (l : List Nat) : (dedup l).Nodup := by
  suffices h : ∀ acc : List Nat, acc.Nodup → (l.foldl (fun acc x => if acc.contains x then acc else acc ++ [x]) acc).Nodup from h [] List.nodup_nil
  induction l with
  | nil => exact fun _ hacc => hacc
  | cons x l ih =>
    intro acc hacc
    rw [List.foldl_cons]
    split
    · exact ih acc hacc
    · next hx => exact ih _ (List.nodup_append.mpr ⟨hacc, List.nodup_singleton x, by simpa using fun y hy hyx => hx (by simpa using hyx ▸ hy)⟩)

/-- A thread arrives at an instruction, unless it waits there. -/
def Thread.arrive (r : Arrival) (th : Thread) : Thread :=
  if th.stays r.addr then th else { th with arrivals := th.arrivals.filter (fun q => q.addr != r.addr) ++ [r] }

/-- A thread that has arrived waits. -/
theorem Thread.arrive_arrive {r : Arrival} (hr : r.left = false) (th : Thread) : (th.arrive r).arrive r = th.arrive r := by
  refine if_pos ?_
  unfold Thread.arrive
  split
  · next hstays => exact hstays
  · have hfind : (th.arrivals.filter (fun q => q.addr != r.addr)).find? (fun q => q.addr == r.addr) = none := by simp
    simp [Thread.stays, Thread.arrived, List.find?_append, hfind, hr]

/-- Its execution has taken place. -/
def Thread.past (a : DWord) (th : Thread) : Thread := { th with arrivals := th.arrivals.filter (fun r => r.addr != a) }

theorem Thread.past_arrived {th : Thread} {r : Arrival} {a : DWord} (hth : th.arrivals = []) (hr : r.addr = a) : ({ th with arrivals := [r] } : Thread).past a = th := by
  cases th
  simp_all [Thread.past]

def Thread.receive (r : XRes) (th : Thread) : Thread := { th with xres := some r }

theorem Team.updThread_congr {a : Team} {tid : Nat} {f g : Thread → Thread} (h : f (a.thread tid) = g (a.thread tid)) : a.updThread tid f = a.updThread tid g := by
  refine Team.ext_threads rfl ((Team.length_updThread a tid f).trans (Team.length_updThread a tid g).symm) fun u _ => ?_
  rw [Team.thread_updThread, Team.thread_updThread, h]

theorem Team.updThread_same {a : Team} {tid : Nat} {f : Thread → Thread} (h : f (a.thread tid) = a.thread tid) : a.updThread tid f = a := by
  refine Team.ext_threads rfl (Team.length_updThread _ _ _) fun u _ => ?_
  rw [Team.thread_updThread]
  split
  · next hu => rw [hu.1, h]
  · rfl

/-- What one thread comes with. -/
def arrivalOf (c : Iss) (inp : Nat → Word × Word × Bool) (tid : Nat) : Arrival := ⟨c.g.addr, true, false, (inp tid).1, (inp tid).2.1, (inp tid).2.2⟩

/-- The arrivals of a crew, in ascending index. -/
def crewArrivals (c : Iss) (inp : Nat → Word × Word × Bool) (crew : Nat) : List (Nat × Arrival) :=
  (c.g.tids.filter (fun u => u / 32 == crew)).map (fun u => (u, arrivalOf c inp u))

/-- A team in the middle of a cross-thread instruction: the threads of the crews in `done` have their results, and the others of the group have
arrived. -/
structure CrossStage (c : Iss) (inp : Nat → Word × Word × Bool) (res : Nat → XRes) (done : List Nat) (b : Team) : Prop where
  rest : { b with threads := c.tm.threads } = c.tm
  length : b.threads.length = c.tm.threads.length
  met : ∀ tid ∈ c.g.tids, b.thread tid =
    if tid / 32 ∈ done then (c.tm.thread tid).receive (res tid) else { c.tm.thread tid with arrivals := [arrivalOf c inp tid] }
  others : ∀ tid, tid ∉ c.g.tids → b.thread tid = c.tm.thread tid

theorem CrossStage.mask_eq {c : Iss} {inp : Nat → Word × Word × Bool} {res : Nat → XRes} {done : List Nat} {b : Team} (h : CrossStage c inp res done b) (crew : Nat) : b.mask crew = c.tm.mask crew := by
  have hexited : ∀ tid, (b.thread tid).exited = (c.tm.thread tid).exited := by
    intro tid
    by_cases htid : tid ∈ c.g.tids
    · rw [h.met tid htid]
      split <;> rfl
    · rw [h.others tid htid]
  simp only [Team.mask, Team.live, h.length, hexited]

theorem CrossStage.received {c : Iss} {inp : Nat → Word × Word × Bool} {res : Nat → XRes} {b : Team} (h : CrossStage c inp res (dedup (c.g.tids.map (· / 32))).reverse b) {tid : Nat} (htid : tid ∈ c.g.tids) :
    b.thread tid = (c.tm.thread tid).receive (res tid) := by
  rw [h.met tid htid, if_pos (by simpa using ⟨tid, htid, rfl⟩)]

section
variable {c : Iss} {inp : Nat → Word × Word × Bool} {res : Nat → XRes} (hw : WholeCrews c)
include hw

theorem crewArrivals_rising (crew : Nat) : Rising (crewArrivals c inp crew) :=
  List.pairwise_map.mpr (hw.sorted.sublist List.filter_sublist)

/-- The live threads of a crew that the group touches are those of the group. -/
theorem mask_eq_group {tid : Nat} (htid : tid ∈ c.g.tids) : c.tm.mask (tid / 32) = c.g.tids.filter (fun u => u / 32 == tid / 32) := by
  have hmask : (c.tm.mask (tid / 32)).Pairwise (· < ·) := (List.pairwise_lt_range.sublist List.filter_sublist).sublist List.filter_sublist
  have htids : (c.g.tids.filter (fun u => u / 32 == tid / 32)).Pairwise (· < ·) := hw.sorted.sublist List.filter_sublist
  refine List.Perm.eq_of_pairwise (le := (· < ·)) (fun a b _ _ h h' => absurd (h.trans h') (Nat.lt_irrefl _)) hmask htids ?_
  refine (List.perm_ext_iff_of_nodup (hmask.imp Nat.ne_of_lt) (htids.imp Nat.ne_of_lt)).mpr fun u => ?_
  simp only [Team.mask, List.mem_filter, beq_iff_eq]
  refine ⟨fun ⟨hlive, hcrew⟩ => ⟨hw.whole tid htid u hlive hcrew, hcrew⟩, fun ⟨hu, hcrew⟩ => ⟨?_, hcrew⟩⟩
  obtain ⟨hlen, hexited, -⟩ := hw.inside u hu
  simp [Team.live, hlen, hexited]

/-- Every thread of the group arrives. -/
theorem CrossStage.arrive : CrossStage c inp res []
    (c.g.tids.foldl (fun tm tid => tm.updThread tid (Thread.arrive (arrivalOf c inp tid))) c.tm) := by
  refine ⟨Team.foldUpd_rest _ (fun tid => Thread.arrive (arrivalOf c inp tid)) _, Team.length_foldUpd _ (fun tid => Thread.arrive (arrivalOf c inp tid)) _,
    fun tid htid => ?_, fun tid htid => Team.foldUpd_other _ (fun tid => Thread.arrive (arrivalOf c inp tid)) _ _ htid⟩
  obtain ⟨hlen, -, harr, hres⟩ := hw.inside tid htid
  rw [Team.thread_foldUpd _ (fun tid => Thread.arrive (arrivalOf c inp tid)) (fun tid th => Thread.arrive_arrive rfl th) _ hlen, if_pos htid]
  simp [Thread.arrive, Thread.stays, Thread.arrived, harr, hres]

/-- A crew whose threads have arrived executes. -/
theorem CrossStage.exec {done : List Nat} {b : Team} {f : CrossFn} {out : SysRegs → List (Nat × Arrival) → Nat → XRes}
    (h : CrossStage c inp res done b) (hf : Gives f out) (hres : ∀ tid ∈ c.g.tids, res tid = out c.tm.eff.sr (crewArrivals c inp (tid / 32)) tid)
    {tid : Nat} (htid : tid ∈ c.g.tids) (hdone : tid / 32 ∉ done) :
    CrossStage c inp res (tid / 32 :: done) (b.crossExec (tid / 32) c.g.addr f) := by
  have hmask : b.mask (tid / 32) = c.g.tids.filter (fun u => u / 32 == tid / 32) := (h.mask_eq _).trans (mask_eq_group hw htid)
  have hmem : ∀ u, u ∈ b.mask (tid / 32) ↔ u ∈ c.g.tids ∧ u / 32 = tid / 32 := fun u => by rw [hmask, List.mem_filter, beq_iff_eq]
  have hthread : ∀ u ∈ b.mask (tid / 32), b.thread u = { c.tm.thread u with arrivals := [arrivalOf c inp u] } := by
    intro u hu
    obtain ⟨hin, hcrew⟩ := (hmem u).mp hu
    rw [h.met u hin, if_neg (hcrew ▸ hdone)]
  have harrived : ∀ u ∈ b.mask (tid / 32), (b.thread u).arrived c.g.addr = some (arrivalOf c inp u) := by
    intro u hu
    rw [hthread u hu]
    simp [Thread.arrived, arrivalOf]
  have hcomplete : b.complete (tid / 32) c.g.addr = true := List.all_eq_true.mpr fun u hu => by rw [harrived u hu]; rfl
  have hactives : b.actives (tid / 32) c.g.addr = crewArrivals c inp (tid / 32) := by
    unfold Team.actives crewArrivals
    rw [← hmask, ← List.filterMap_eq_map]
    refine List.filterMap_congr fun u hu => ?_
    rw [harrived u hu]
    rfl
  have hgone : (crewArrivals c inp (tid / 32)).filter (fun r => r.2.left) = [] := by
    rw [List.filter_eq_nil_iff]
    intro r hr
    obtain ⟨u, -, rfl⟩ := List.mem_map.mp hr
    exact Bool.false_ne_true
  have heff : b.eff = c.tm.eff := (congrArg Team.eff h.rest :)
  have hexec : b.crossExec (tid / 32) c.g.addr f =
      (b.mask (tid / 32)).foldl (fun tm u => tm.updThread u (Thread.receive (res u)))
        ((b.mask (tid / 32)).foldl (fun tm u => tm.updThread u (fun th => th.past c.g.addr)) b) := by
    have hall : ∀ l : List (Nat × XRes), l.filter (fun r => !([] : List Nat).contains r.1) = l := fun l => List.filter_eq_self.mpr fun _ _ => rfl
    have hgives : f c.tm.eff.sr (crewArrivals c inp (tid / 32)) = (b.mask (tid / 32)).map (fun u => (u, res u)) := by
      rw [hf _ _ (crewArrivals_rising hw _), crewArrivals, ← hmask, List.map_map]
      refine List.map_congr_left fun u hu => ?_
      obtain ⟨hin, hcrew⟩ := (hmem u).mp hu
      simp only [Function.comp_apply, hres u hin, hcrew, crewArrivals, hmask]
    unfold Team.crossExec
    rw [if_pos hcomplete, hactives, hgone, heff, hgives]
    simp only [List.map_nil, hall, List.foldl_map]
    rfl
  rw [hexec]
  set b1 := (b.mask (tid / 32)).foldl (fun tm u => tm.updThread u (fun th => th.past c.g.addr)) b with hb1
  have hlen1 : b1.threads.length = c.tm.threads.length := (Team.length_foldUpd _ (fun _ th => th.past c.g.addr) b).trans h.length
  refine ⟨?_, (Team.length_foldUpd _ (fun u => Thread.receive (res u)) b1).trans hlen1, fun u hu => ?_, fun u hu => ?_⟩
  · exact ((congrArg (fun tm : Team => { tm with threads := c.tm.threads }) (Team.foldUpd_rest _ (fun u => Thread.receive (res u)) b1)).trans
      (congrArg (fun tm : Team => { tm with threads := c.tm.threads }) (Team.foldUpd_rest _ (fun _ th => th.past c.g.addr) b))).trans h.rest
  · have hlen := (hw.inside u hu).1
    have hpast : ∀ (_ : Nat) (th : Thread), (th.past c.g.addr).past c.g.addr = th.past c.g.addr := fun _ th => by simp [Thread.past]
    rw [Team.thread_foldUpd _ (fun u => Thread.receive (res u)) (fun _ _ => rfl) b1 (hlen1 ▸ hlen),
      hb1, Team.thread_foldUpd _ (fun _ th => th.past c.g.addr) hpast b (h.length ▸ hlen)]
    by_cases hcrew : u / 32 = tid / 32
    · obtain ⟨-, -, harr, -⟩ := hw.inside u hu
      have hin : u ∈ b.mask (tid / 32) := (hmem u).mpr ⟨hu, hcrew⟩
      rw [if_pos hin, if_pos hin, if_pos (hcrew ▸ List.mem_cons_self), hthread u hin]
      exact congrArg (Thread.receive (res u)) (Thread.past_arrived harr rfl)
    · have hout : u ∉ b.mask (tid / 32) := fun hin => hcrew ((hmem u).mp hin).2
      rw [if_neg hout, if_neg hout, h.met u hu]
      simp only [List.mem_cons, hcrew, false_or]
  · have hout : u ∉ b.mask (tid / 32) := fun hin => hu ((hmem u).mp hin).1
    rw [Team.foldUpd_other _ (fun u => Thread.receive (res u)) b1 u hout, hb1, Team.foldUpd_other _ (fun _ th => th.past c.g.addr) b u hout, h.others u hu]

/-- The crews execute one after another. -/
theorem CrossStage.exec_all {done : List Nat} {b : Team} {f : CrossFn} {out : SysRegs → List (Nat × Arrival) → Nat → XRes}
    (h : CrossStage c inp res done b) (hf : Gives f out) (hres : ∀ tid ∈ c.g.tids, res tid = out c.tm.eff.sr (crewArrivals c inp (tid / 32)) tid)
    {crews : List Nat} (hcrews : ∀ crew ∈ crews, ∃ tid ∈ c.g.tids, tid / 32 = crew) (hnodup : (crews.reverse ++ done).Nodup) :
    CrossStage c inp res (crews.reverse ++ done) (crews.foldl (fun tm crew => tm.crossExec crew c.g.addr f) b) := by
  induction crews generalizing done b with
  | nil => exact h
  | cons crew crews ih =>
    obtain ⟨tid, htid, rfl⟩ := hcrews crew List.mem_cons_self
    rw [List.reverse_cons, List.append_assoc] at hnodup ⊢
    have hdone : tid / 32 ∉ done := fun hin => (List.nodup_cons.mp (List.nodup_append.mp hnodup).2.1).1 hin
    exact ih (h.exec hw hf hres htid hdone) (fun crew hcrew => hcrews crew (List.mem_cons_of_mem _ hcrew)) hnodup

/-- Every crew of the group has executed. -/
theorem CrossStage.all {f : CrossFn} {out : SysRegs → List (Nat × Arrival) → Nat → XRes} (hf : Gives f out)
    (hres : ∀ tid ∈ c.g.tids, res tid = out c.tm.eff.sr (crewArrivals c inp (tid / 32)) tid) :
    CrossStage c inp res (dedup (c.g.tids.map (· / 32))).reverse ((dedup (c.g.tids.map (· / 32))).foldl (fun tm crew => tm.crossExec crew c.g.addr f)
      (c.g.tids.foldl (fun tm tid => tm.updThread tid (Thread.arrive (arrivalOf c inp tid))) c.tm)) := by
  have h := (CrossStage.arrive (inp := inp) (res := res) hw).exec_all hw hf hres (crews := dedup (c.g.tids.map (· / 32)))
    (fun crew hcrew => by simpa using hcrew) (by simpa using nodup_dedup _)
  rwa [List.append_nil] at h

/-- With the results taken, the team is as it was. -/
theorem CrossStage.taken {b : Team} (h : CrossStage c inp res (dedup (c.g.tids.map (· / 32))).reverse b) :
    c.g.tids.foldl (fun tm tid => tm.updThread tid (fun th => { th with xres := none })) b = c.tm := by
  have hlen := Team.length_foldUpd c.g.tids (fun _ th => { th with xres := none }) b
  refine Team.ext_threads ((congrArg (fun tm : Team => { tm with threads := c.tm.threads }) (Team.foldUpd_rest c.g.tids (fun _ th => { th with xres := none }) b)).trans h.rest)
    (hlen.trans h.length) fun tid htid => ?_
  rw [Team.thread_foldUpd c.g.tids (fun _ th => { th with xres := none }) (fun _ _ => rfl) b (h.length ▸ htid)]
  by_cases hin : tid ∈ c.g.tids
  · obtain ⟨-, -, -, hx⟩ := hw.inside tid hin
    rw [if_pos hin, h.received hin]
    exact congrArg (fun x => { c.tm.thread tid with xres := x }) hx.symm
  · rw [if_neg hin, h.others tid hin]

omit hw in
/-- Threads that wait at the instruction already do not arrive anew. -/
theorem arrive_all (b : Team) : c.g.tids.foldl (fun tm tid => if (tm.thread tid).stays c.g.addr then tm else tm.updThread tid (fun th =>
      { th with arrivals := th.arrivals.filter (fun r => r.addr != c.g.addr) ++ [⟨c.g.addr, true, false, (inp tid).1, (inp tid).2.1, (inp tid).2.2⟩] })) b =
    c.g.tids.foldl (fun tm tid => tm.updThread tid (Thread.arrive (arrivalOf c inp tid))) b := by
  congr 1
  funext tm tid
  split
  · next hstays => exact (Team.updThread_same (f := Thread.arrive (arrivalOf c inp tid)) (if_pos hstays)).symm
  · next hstays => exact Team.updThread_congr (if_neg hstays).symm

/-- At whole crews a cross-thread instruction is one execution in each thread of the group (R193). -/
theorem State.cross_whole {s : State} {u : Use} {lat gap d : Nat} {inp : Iss → Nat → Word × Word × Bool} {f : CrossFn}
    {out : SysRegs → List (Nat × Arrival) → Nat → XRes} (h : Ready s c u) (hf : Gives f out)
    (hres : ∀ tid ∈ c.g.tids, res tid = out c.tm.eff.sr (crewArrivals c (inp c) (tid / 32)) tid)
    (hq : Quiet c (c.g.tids.foldl (fun fl tid => fl ||| (res tid).fl) 0)) :
    s.cross u lat gap d inp f = s.laneRun c lat gap (fun tid => ((res tid).writes tid d, (res tid).fl)) := by
  let stage (tm : Team) : Team := (dedup (c.g.tids.map (· / 32))).foldl (fun tm crew => tm.crossExec crew c.g.addr f)
      (c.g.tids.foldl (fun tm tid => tm.updThread tid (Thread.arrive (arrivalOf c (inp c) tid))) tm)
  have hstage : CrossStage c (inp c) res _ (stage c.tm) := .all hw hf hres
  have hgroups : (stage c.tm).groups = c.tm.groups := (congrArg Team.groups hstage.rest :)
  have heff : (stage c.tm).eff = c.tm.eff := (congrArg Team.eff hstage.rest :)
  have hissued := State.iss_updTeam h.iss stage hgroups
  have hall : c.g.tids.all (fun tid => ((stage c.tm).thread tid).xres.isSome) = true := List.all_eq_true.mpr fun tid htid => by rw [hstage.received htid]; rfl
  have htook : c.g.tids.map (fun tid => (tid, (((stage c.tm).thread tid).xres).getD {})) = c.g.tids.map (fun tid => (tid, res tid)) :=
    List.map_congr_left fun tid htid => by rw [hstage.received htid]; rfl
  have hflags : ∀ s' : State, s'.raiseFlags { c with tm := stage c.tm } lat (c.g.tids.foldl (fun fl tid => fl ||| (res tid).fl) 0) =
      s'.raiseFlags c lat (c.g.tids.foldl (fun fl tid => fl ||| (res tid).fl) 0) :=
    fun _ => (State.raiseFlags_quiet (c := { c with tm := stage c.tm }) (by rwa [heff])).trans (State.raiseFlags_quiet hq).symm
  have hback : (s.updTeam c.t stage).updTeam c.t (fun tm => c.g.tids.foldl (fun tm tid => tm.updThread tid (fun th => { th with xres := none })) tm) = s := by
    rw [State.updTeam_updTeam]
    refine State.updTeam_same _ _ _ fun tm htm => ?_
    obtain ⟨-, ht, -⟩ := State.iss_eq h.iss
    obtain rfl : tm = c.tm := Option.some.inj (htm.symm.trans ht)
    exact hstage.taken hw
  unfold State.cross
  rw [State.gate_ready h]
  simp only [arrive_all]
  rw [hissued]
  simp only [hall, if_true, htook]
  rw [hback]
  simp only [State.laneRun, List.flatMap_map, List.foldl_map, hflags]

end

-- The results of one execution, and the obligation.

/-- What a result writes: d, L or the predicate. -/
theorem mem_writes {r : XRes} {tid d : Nat} {w : Nat × Reg × DWord} (hw : w ∈ r.writes tid d) :
    (∃ x reg, r.d = some x ∧ codeReg d = some reg ∧ reg ≠ .t 8 ∧ w = (tid, reg, x.setWidth 64)) ∨
      (∃ x, r.l = some x ∧ w = (tid, .t 8, x.setWidth 64)) ∨ ∃ b, r.p = some b ∧ w = (tid, .p d, BitVec.ofNat 64 (b2n b)) := by
  obtain ⟨rd, rl, rp, fl⟩ := r
  simp only [XRes.writes, List.mem_append] at hw
  rcases hw with (hw | hw) | hw
  · cases rd with
    | none => simp at hw
    | some x =>
      simp only [dstWrites, List.dropLast_concat] at hw
      split at hw
      · next hd =>
        obtain ⟨reg, hreg, rfl⟩ := List.mem_map.mp hw
        rw [Option.mem_toList] at hreg
        exact .inl ⟨x, reg, rfl, hreg, fun hL => by have := codeReg_below_L (hL ▸ hreg); omega, rfl⟩
      · simp at hw
  · cases rl with
    | none => simp at hw
    | some x => exact .inr (.inl ⟨x, rfl, List.mem_singleton.mp hw⟩)
  · cases rp with
    | none => simp at hw
    | some b => exact .inr (.inr ⟨b, rfl, List.mem_singleton.mp hw⟩)

theorem codeReg_ne_pred {c p : Nat} : codeReg c ≠ some (.p p) := by
  unfold codeReg
  split
  · nofun
  · split <;> nofun

theorem goodWrites_cross (tid : Nat) {d : Nat} {r : XRes} (hp : r.p.isSome = true → d < 7) : goodWrites tid (r.writes tid d) := by
  have hval : ∀ w ∈ r.writes tid d, w.2.2 =
      if w.2.1 = .t 8 then (r.l.getD 0).setWidth 64 else if w.2.1 = .p d then BitVec.ofNat 64 (b2n (r.p.getD false)) else (r.d.getD 0).setWidth 64 := by
    intro w hw
    rcases mem_writes hw with ⟨x, reg, hx, hreg, hL, rfl⟩ | ⟨x, hx, rfl⟩ | ⟨b, hb, rfl⟩
    · rw [if_neg hL, if_neg fun hpred => codeReg_ne_pred (hreg.trans (congrArg some hpred)), hx, Option.getD_some]
    · rw [if_pos rfl, hx, Option.getD_some]
    · rw [if_neg nofun, if_pos rfl, hb, Option.getD_some]
  refine ⟨fun w hw => ?_, fun w hw w' hw' hreg => by rw [hval w hw, hval w' hw', hreg]⟩
  rcases mem_writes hw with ⟨x, reg, -, hreg, -, rfl⟩ | ⟨x, -, rfl⟩ | ⟨b, hb, rfl⟩
  · obtain ⟨hok, hteam, hclip⟩ := codeReg_ok hreg
    exact ⟨rfl, hok, hteam, hclip x⟩
  · obtain ⟨hok, hteam, hclip⟩ := codeReg_ok (c := 120) rfl
    exact ⟨rfl, hok, hteam, hclip x⟩
  · exact (goodWrites_pred tid (hp (hb ▸ rfl)) b).1 _ (List.mem_singleton_self _)

/-- What the obligation asks of a cross-thread instruction. -/
def Crosses (i : Instr) (x : Crossed) (s : State) (c : Iss) : Prop := ∃ s', exec i s = .next s' ∧ WroteOnly s s' c (x.writes s c) (x.flags s c)

theorem crosses {i : Instr} {x : Crossed} {s : State} {c : Iss} {lat gap : Nat} {f : CrossFn}
    (hi : exec i s = .next (s.cross x.use lat gap x.d (x.inp s) f)) (hf : Gives f x.out) (hp : ∀ tid, (x.res s c tid).p.isSome = true → x.d < 7)
    (h : Ready s c x.use) (he : c.endsWell) (hw : WholeCrews c) (hq : Quiet c (x.flags s c)) : Crosses i x s c := by
  refine ⟨_, hi, ?_⟩
  rw [State.cross_whole (res := x.res s c) hw h hf (fun _ _ => rfl) hq]
  exact State.laneRun_wrote lat gap (fun tid => ((x.res s c tid).writes tid x.d, (x.res s c tid).fl)) h.iss he (fun tid => goodWrites_cross tid (hp tid)) _
    List.foldl_map hq

/-- Settles O4: the crews execute one after another, and the group then holds the results of one execution. -/
theorem crossResult : Obligations.CrossResult := by
  intro i x s c hi hwf h he hw hq
  change Crosses i x s c
  change Quiet c (x.flags s c) at hq
  cases i <;> cases hi
  case elect => exact crosses rfl elect_gives (fun _ _ => toNat_of_wpred hwf) h he hw hq
  case shfl st m d a b => exact crosses rfl (shfl_gives m) (fun _ => nofun) h he hw hq
  case voteAny => exact crosses rfl vote_gives.1 (fun _ => nofun) h he hw hq
  case voteAll => exact crosses rfl vote_gives.2.1 (fun _ => nofun) h he hw hq
  case voteBallot => exact crosses rfl vote_gives.2.2 (fun _ => nofun) h he hw hq
  case matchAny => exact crosses rfl match_gives (fun _ => nofun) h he hw hq
  case credAdd st t d a => exact crosses rfl (cred_gives 0 t) (fun _ => nofun) h he hw hq
  case credMin st t d a => exact crosses rfl (cred_gives 1 t) (fun _ => nofun) h he hw hq
  case credMax st t d a => exact crosses rfl (cred_gives 2 t) (fun _ => nofun) h he hw hq
  case cscanIncl st t d a => exact crosses rfl (cscan_gives t _) (fun _ => nofun) h he hw hq
  case cscanExcl st t d a => exact crosses rfl (cscan_gives t _) (fun _ => nofun) h he hw hq
  case compress => exact crosses rfl compress_gives (fun _ => nofun) h he hw hq
  case expand => exact crosses rfl expand_gives (fun _ => nofun) h he hw hq

end Sys2Proof.Machine

namespace Sys2Proof.Machine

open Sys2Proof Sys2Proof.Said

-- TRAP of two threads that have seen one token (R120, R359).

/-- Two threads at an instruction of the run at 0x1000. -/
def trapGroup : Group := { tids := [0, 1], hdr := 0x1000, next := 0x1010, body := [0, 0], trl := none, chk := false }

/-- Each of them is owed the token in k3 under one name, and thread 1 alone is said to have seen what the token says. -/
def trapTeam : Team :=
  { ctx := 0, core := 0, slot := 0, tr := { regs := 16 }, threads := [{ pc := 0x1000, npc := 0x1000 }, { pc := 0x1000, npc := 0x1000 }]
    groups := [(0, trapGroup)], eff := handlerCtx
    wbs := [{ id := 5, tid := none, owner := 0, reg := .k 3, val := some 0 }, { id := 5, tid := none, owner := 1, reg := .k 3, val := some 0, obs := true }] }

/-- The handler's run is at 0x2000, and the core holds one clean word of class S. -/
def trapRun : State :=
  { teams := [(0, trapTeam)], cur := some (0, 0), ctxs := [(0, handlerCtx)]
    mem := [(0x2000, 0x81), (0x2001, 0xE0)]
    cores := [(0, { lines := [(8, { coh := 0, cells := [(0, 7, false)] })] })]
    dies := [(0, { tlb := [⟨0, 2, programPte 2, true, 1, 0⟩] })] }

def trapIss : Iss := ⟨0, trapTeam, 0, trapGroup⟩

theorem trapRun_ready : Ready trapRun trapIss {} := ⟨rfl, by decide, by decide, by decide, by decide⟩

theorem trapRun_handled : handled trapRun trapIss := ⟨by decide, by decide +kernel⟩

theorem trapRun_alone : ∀ tid ∈ trapGroup.tids, tid < trapTeam.threads.length ∧ trapsAlone trapIss tid := by
  unfold trapsAlone
  decide

/-- The cores after an outcome. -/
def coresAfter (o : Host.Outcome State Fault Refusal) : FMap CoreSt :=
  match o with
  | .next s => s.cores
  | _ => []

theorem coresAfter_trap : coresAfter (exec (.trap 0 0) trapRun) = trapRun.cores := by decide +kernel

theorem cores_acquire : (trapRun.acquire 0).cores ≠ trapRun.cores := by decide

/-- Refutes O8: none of its premises says that an owed result's name and register belong to one thread's result, and the model writes and drops owed
results by name and register (R359). In `trapRun` thread 0 traps first and takes thread 1's result of that name with its own, so that no token is left
that thread 1 has seen: the model makes no acquire, and the core's clean word stays. The statement goes by the results owed before the trap, among which
thread 1's is one that has been seen, and asks for the acquire, which drops the word. The statement is about every state; that a run reaches this one is
not claimed. -/
theorem not_trapEntered : ¬ Obligations.TrapEntered := by
  intro h
  obtain ⟨s', -, hexec, hmachine, -⟩ := h (.trap 0 0) 0 0 1 8 trapRun trapIss (.inl ⟨rfl, rfl, rfl⟩) trapRun_ready (by decide) trapRun_alone trapRun_handled
  rw [if_pos ⟨rfl, by decide⟩] at hmachine
  have hkept : s'.cores = trapRun.cores := by rw [← coresAfter_trap, hexec, coresAfter]
  have hdropped : s'.cores = (trapRun.acquire 0).cores := (congrArg State.cores hmachine :)
  exact cores_acquire (hdropped.symm.trans hkept)

end Sys2Proof.Machine

namespace Sys2Proof.Machine

open Sys2Proof Sys2Proof.Said

-- Lane accesses to scratch (R224-R227).

theorem widthRegs_eq_regsOf (w : BitVec 2) : widthRegs w = regsOf w := by
  revert w
  decide

/-- Lanes whose scratch addresses are aligned, pinned and without a data error go on at once, all of them. -/
theorem State.scratchLanes {s : State} {c : Iss} {n : Nat} (ea : State → Iss → Nat → Word) (hready : scratchReady s c (ea s c) n)
    (hsound : scratchSound s c (ea s c) n) (store : Bool) (u : Use) (gap : Nat) (k : State → Iss → State) (spend : Bool) :
    s.splitTraps c (fun tid => if (ea s c tid).toNat % n ≠ 0 then some (.align store ((ea s c tid).setWidth 64)) else s.scrTrap c.t (ea s c tid).toNat n)
      (fun s c => s.pinFirst c u gap (fun tid => (ea s c tid).toNat) n (k s c) spend) = k s c := by
  rw [State.splitTraps_none fun tid htid => (if_neg (not_not.mpr (hready tid htid).1)).trans (hsound tid htid)]
  exact State.pinFirst_none (fun tid htid => (hready tid htid).2) u gap _ spend

theorem exec_lds {s : State} {c : Iss} (st w : BitVec 2) (d a o : BitVec 7) (h : Calm s c (useLds w d a))
    (hready : scratchReady s c (scratchEa s c a o w) (2 ^ (w.toNat + 1))) (hsound : scratchSound s c (scratchEa s c a o w) (2 ^ (w.toNat + 1))) :
    exec (.lds st w d a o) s = .next (s.oweAll c (gapOf st) (fun tid =>
      resultRegs d.toNat (regsOf w) (w != 3) (some (leNat (s.scrRead c.t (scratchEa s c a o w tid).toNat (2 ^ (w.toNat + 1))))))) := by
  rw [useLds, ← widthRegs_eq_regsOf] at h
  rw [← widthRegs_eq_regsOf]
  exact (exec_of_gateMem rfl h).trans (congrArg Host.Outcome.next
    (State.scratchLanes (fun s c => scratchEa s c a o w) hready hsound false _ (gapOf st) (fun s c => s.oweAll c (gapOf st) _) false))

/-- Settles O15: the lanes go on at once, and what follows only owes results. -/
theorem scratchLoad : Obligations.ScratchLoad := fun st w d a o _ _ _ h hends hready hsound =>
  ⟨_, exec_lds st w d a o h hready hsound, State.oweAll_owes (gapOf st) _ 0 h.iss hends⟩

end Sys2Proof.Machine

namespace Sys2Proof.Machine

open Sys2Proof Sys2Proof.Said

-- What the lane atomics compute, on values of any width (R225).

theorem sext_toNat {bytes : Nat} (hbytes : 0 < bytes) (v : BitVec (8 * bytes)) : sext (8 * bytes) v.toNat = v.toInt := by
  rw [sext_eq_toInt _ _ (Nat.mul_pos (by decide) hbytes), BitVec.ofNat_toNat, BitVec.setWidth_eq]

section

variable (sr : SysRegs) (bytes : Nat)

theorem atomOp_add (v x : BitVec (8 * bytes)) (y : Nat) : atomOp 0 bytes sr v.toNat x.toNat y = ((v + x).toNat, 0) := by
  rw [BitVec.toNat_add]; rfl

theorem atomOp_sub (v x : BitVec (8 * bytes)) (y : Nat) : atomOp 1 bytes sr v.toNat x.toNat y = ((v - x).toNat, 0) := by
  have hx := x.isLt
  have hsum : v.toNat + 2 ^ (8 * bytes) - x.toNat = 2 ^ (8 * bytes) - x.toNat + v.toNat := by omega
  rw [BitVec.toNat_sub, ← hsum, atomOp, Nat.mod_eq_of_lt hx]

theorem atomOp_minSigned (hbytes : 0 < bytes) (v x : BitVec (8 * bytes)) (y : Nat) :
    atomOp 2 bytes sr v.toNat x.toNat y = ((if v.toInt ≤ x.toInt then v else x).toNat, 0) := by
  rw [atomOp, sext_toNat hbytes, sext_toNat hbytes, apply_ite BitVec.toNat]

theorem atomOp_maxSigned (hbytes : 0 < bytes) (v x : BitVec (8 * bytes)) (y : Nat) :
    atomOp 3 bytes sr v.toNat x.toNat y = ((if v.toInt ≤ x.toInt then x else v).toNat, 0) := by
  rw [atomOp, sext_toNat hbytes, sext_toNat hbytes, apply_ite BitVec.toNat]

theorem atomOp_minUnsigned (v x : BitVec (8 * bytes)) (y : Nat) :
    atomOp 4 bytes sr v.toNat x.toNat y = ((if v.toNat ≤ x.toNat then v else x).toNat, 0) := by
  rw [apply_ite BitVec.toNat, ← Nat.min_def]; rfl

theorem atomOp_maxUnsigned (v x : BitVec (8 * bytes)) (y : Nat) :
    atomOp 5 bytes sr v.toNat x.toNat y = ((if v.toNat ≤ x.toNat then x else v).toNat, 0) := by
  rw [apply_ite BitVec.toNat, ← Nat.max_def]; rfl

theorem atomOp_and (v x : BitVec (8 * bytes)) (y : Nat) : atomOp 6 bytes sr v.toNat x.toNat y = ((v &&& x).toNat, 0) := by
  rw [BitVec.toNat_and]; rfl

theorem atomOp_or (v x : BitVec (8 * bytes)) (y : Nat) : atomOp 7 bytes sr v.toNat x.toNat y = ((v ||| x).toNat, 0) := by
  rw [BitVec.toNat_or]; rfl

theorem atomOp_xor (v x : BitVec (8 * bytes)) (y : Nat) : atomOp 8 bytes sr v.toNat x.toNat y = ((v ^^^ x).toNat, 0) := by
  rw [BitVec.toNat_xor]; rfl

theorem atomOp_exchange (v x y : Nat) : atomOp 9 bytes sr v x y = (x, 0) := rfl

theorem atomOp_addFloat (v x y : Nat) : atomOp 10 bytes sr v x y = fAdd f32 (rmOf sr 0) v x := rfl

theorem atomOp_compareSwap (v x y : BitVec (8 * bytes)) :
    atomOp 11 bytes sr v.toNat x.toNat y.toNat = ((if v = x then y else v).toNat, 0) := by
  simp only [atomOp, BitVec.toNat_inj, apply_ite BitVec.toNat]

end

-- Lane atomics at scratch and at the home slices (R225-R227).

/-- A group's ATOMS at scratch where nothing traps or waits: a release first where one is asked for, then the lanes' requests. -/
theorem exec_atoms {s : State} {c : Iss} (st r : BitVec 2) (d a : BitVec 7) (o : BitVec 5) (z : BitVec 2) (h : Calm s c (useAtom 1 d a o z))
    (hready : scratchReady s c (fun tid => c.src s tid a.toNat) (4 * (z.toNat + 1)))
    (hsound : scratchSound s c (fun tid => c.src s tid a.toNat) (4 * (z.toNat + 1))) (hrel : mayRelease s c (c.armed || r.getLsbD 1)) :
    let s0 := released s c (c.armed || r.getLsbD 1)
    let run := s0.atomEach c.tm.eff.sr c.t o.toNat (4 * (z.toNat + 1))
      ((sortNat c.g.tids).map (fun tid => (tid, (c.src s tid a.toNat).toNat, c.atomArgs s0 tid d.toNat o z)))
    exec (.atoms st r d a o z) s = .next (run.1.atomDone c (gapOf st) d.toNat z r run.2.1 run.2.2) := by
  intro s0 run
  refine (exec_of_forbidden rfl h).trans (congrArg Host.Outcome.next ?_)
  refine (State.scratchLanes (fun s c tid => c.src s tid a.toNat) hready hsound true _ (gapOf st) _ true).trans ?_
  exact State.withRelease_may hrel _ (gapOf st) _

/-- Settles O17: the lanes go on at once, as `atomEach` has it; the values are those of `atomOp` at 4 and at 8 bytes. -/
theorem scratchAtomic : Obligations.ScratchAtomic := by
  refine ⟨fun st r d a o z s c _ h hready hsound hrel => exec_atoms st r d a o z h hready hsound hrel, fun sr v x y v2 x2 y2 => ?_⟩
  exact ⟨atomOp_add sr 4 v x _, atomOp_sub sr 4 v x _, atomOp_minSigned sr 4 (by decide) v x _,
    atomOp_maxSigned sr 4 (by decide) v x _, atomOp_minUnsigned sr 4 v x _, atomOp_maxUnsigned sr 4 v x _,
    atomOp_and sr 4 v x _, atomOp_or sr 4 v x _, atomOp_xor sr 4 v x _, atomOp_exchange sr 4 _ _ _,
    atomOp_addFloat sr 4 _ _ _, atomOp_compareSwap sr 4 v x y,
    atomOp_add sr 8 v2 x2 _, atomOp_sub sr 8 v2 x2 _, atomOp_minSigned sr 8 (by decide) v2 x2 _,
    atomOp_maxSigned sr 8 (by decide) v2 x2 _, atomOp_minUnsigned sr 8 v2 x2 _, atomOp_maxUnsigned sr 8 v2 x2 _,
    atomOp_and sr 8 v2 x2 _, atomOp_or sr 8 v2 x2 _, atomOp_xor sr 8 v2 x2 _, atomOp_exchange sr 8 _ _ _,
    atomOp_compareSwap sr 8 v2 x2 y2⟩

/-- Settles O18: no lane traps or waits, and the release, the words that go home and the requests follow one another. -/
theorem globalAtomic : Obligations.GlobalAtomic := by
  intro st r d a o z s c _ h hok l hwait hrel s0 s1 run
  refine (exec_of_forbidden rfl h).trans (congrArg Host.Outcome.next ?_)
  rw [State.splitTraps_none (laneTrap_none hok)]
  exact (if_neg (ne_true_of_eq_false hwait)).trans (State.withRelease_may hrel _ (gapOf st) _)

end Sys2Proof.Machine

namespace Sys2Proof.Machine

open Sys2Proof Sys2Proof.Said

-- Queue locks of one thread (R228, R230).

/-- No lane of such a group traps at the page that it names. -/
theorem namedTrap_none {s : State} {c : Iss} {va : Nat → DWord} {n : Nat} {k : Access} {fut store : Bool} (h : laneNamed s c va n k fut store) :
    ∀ tid ∈ c.g.tids, exceptTrap (c.lanePage s (va tid) n k fut store) = none := fun tid htid => by
  obtain ⟨e, he⟩ := h tid htid
  rw [he]; rfl

/-- QLOCK by one thread, once the core's own words of the line are home: a place in the queue with a token, or none (R230). -/
def State.qlockAt (s : State) (c : Iss) (pa d p tid : Nat) : State :=
  if 1024 ≤ s.lockUsed pa then owes s c tid false ((.p p, some 1) :: resultRegs d 1 false (some 0))
  else
    let tok := 2 ^ 31 + s.nextId % 2 ^ 31
    (({ s with nextId := s.nextId + 1 } : State).setLock pa (FMap.getD s.units.locks pa [] ++ [(c.t, tid, tok)])).owe c.t s.nextId tid false false
      ((.p p, some 0) :: resultRegs d 1 false (some tok))

/-- QUNLOCK by one thread: the lock is passed on where the thread holds it (R230). -/
def State.qunlockAt (s : State) (c : Iss) (pa tid : Nat) : State :=
  if s.holdsLock c.t tid pa then s.setLock pa ((FMap.getD s.units.locks pa []).drop 1) else s

section

variable {s : State} {c : Iss} {tid : Nat} (st : BitVec 2) (d a : BitVec 7) (p : BitVec 3) (ht : c.g.tids = [tid])
  (hok : laneNamed s c (fun tid => c.src64 s tid a.toNat) 8 .write true true)
  (hwait : s.homeWaits c.tm.core false [c.lanePa s (c.src64 s tid a.toNat)] = false)

include ht hok hwait

theorem exec_qlock_alone (h : Calm s c ((Use.src a.toNat 2).add ((Use.dst d.toNat 1).add (Use.pdst p.toNat)))) :
    let at_ := c.lanePa s (c.src64 s tid a.toNat)
    exec (.qlock st d a p) s = .next (((s.prepAll c [(c.src64 s tid a.toNat, at_)]).qlockAt c at_.1 d.toNat p.toNat tid).advance c.t c.gid (gapOf st)) := by
  refine (exec_of_forbidden rfl h).trans (congrArg Host.Outcome.next ?_)
  rw [State.splitTraps_none (namedTrap_none hok)]
  simp only [ht, sortNat_singleton, List.map_cons, List.map_nil, hwait, Bool.false_eq_true, if_false]
  rfl

theorem exec_qunlock_alone (h : Calm s c (Use.src a.toNat 2)) :
    let at_ := c.lanePa s (c.src64 s tid a.toNat)
    let s1 := released s c (s.holdsLock c.t tid at_.1)
    mayRelease s c (s.holdsLock c.t tid at_.1) →
    exec (.qunlock st a) s = .next (((s1.prepAll c [(c.src64 s1 tid a.toNat, at_)]).qunlockAt c at_.1 tid).advance c.t c.gid (gapOf st)) := by
  intro at_ s1 hrel
  refine (exec_of_forbidden rfl h).trans (congrArg Host.Outcome.next ?_)
  rw [State.splitTraps_none (namedTrap_none hok)]
  simp only [ht, sortNat_singleton, List.map_cons, List.map_nil, List.any_cons, List.any_nil, Bool.or_false, hwait, Bool.false_eq_true, if_false]
  exact State.withRelease_may hrel _ (gapOf st) _

end

/-- Settles O22: QLOCK by the room of its slice, QUNLOCK by who holds the lock. -/
theorem queueLocks : Obligations.QueueLocks := by
  intro st d a p s c tid ht hok at_ hwait
  refine ⟨fun _ h => ?_, fun _ h => exec_qunlock_alone st a ht hok hwait h⟩
  intro s0
  refine ⟨fun hroom => ?_, fun hfull => ?_⟩
  · rw [exec_qlock_alone st d a p ht hok hwait h, State.qlockAt, if_neg (Nat.not_le.mpr hroom)]
    rfl
  · rw [exec_qlock_alone st d a p ht hok hwait h, State.qlockAt, if_pos hfull]
    rfl

end Sys2Proof.Machine

namespace Sys2Proof.Machine

open Sys2Proof Sys2Proof.Said

-- CFLUSH and CINV of one thread (R245).

/-- The lines that CFLUSH or CINV acts on: none in an empty range. -/
def Iss.opLines (c : Iss) (s : State) (va : DWord) (len : Nat) : List (Nat × CLine) := if len = 0 then [] else c.ncLines s va len

/-- What happens to those lines: their dirty bytes go home, or the lines go (R245). -/
def State.actLines (s : State) (core : Nat) (flush : Bool) (ls : List (Nat × CLine)) : State :=
  if flush then ls.foldl (fun s l => if l.2.runs.isEmpty then s else s.writeBack core l.1) s
  else ls.foldl (fun s l => (s.updCore core (fun k => { k with lines := FMap.erase k.lines l.1 })).ncDone core l.1) s

/-- The token of either: the bytes of the lines, or status 1 of an empty range. -/
def lineToken (len n : Nat) : DWord := if len = 0 then BitVec.ofNat 64 (2 ^ 32) else BitVec.ofNat 64 (128 * n)

theorem State.lineOp_alone {s : State} {c : Iss} {tid : Nat} (st : BitVec 2) (d a b : BitVec 6) (flush : Bool)
    (h : Apart s c ((Use.ksrc a.toNat 1).add ((Use.ksrc b.toNat 1).add (Use.kdst d.toNat 1)))) (ht : c.g.tids = [tid]) (ho : inOrder c) :
    let len := (c.k s b.toNat).toNat
    let ls := c.opLines s (c.k s a.toNat) len
    (flush = true → ∀ l ∈ ls, s.canWriteBack l.1 l.2 = true) →
    s.lineOp st d a b flush =
      (owesK (s.actLines c.tm.core flush ls) tid c [(.k d.toNat, some (lineToken len ls.length))]).advance c.t c.gid (gapOf st) := by
  intro len ls hback
  have hgo : (flush && !ls.all (fun l => s.canWriteBack l.1 l.2)) = false := by
    cases flush
    · rfl
    · simpa using hback rfl
  refine (h.forbiddenFree _).trans ((State.inTurn_inOrder ho _ (gapOf st) _).trans ?_)
  refine (if_neg (ne_true_of_eq_false hgo)).trans ?_
  simp only [ht, sortNat_singleton]
  rfl

/-- Settles O27: both are `lineOp` of one thread, which waits for nothing, and CINV writes nothing home. -/
theorem lineOps : Obligations.LineOps := by
  intro st d a b s c h va len ls token s0 s1 tid ht ho
  exact ⟨fun hback => congrArg Host.Outcome.next (State.lineOp_alone st d a b true h ht ho fun _ => hback),
    congrArg Host.Outcome.next (State.lineOp_alone st d a b false h ht ho nofun)⟩

end Sys2Proof.Machine

namespace Sys2Proof.Machine

open Sys2Proof Sys2Proof.Said

-- The bucket of a key (R254).

/-- Settles O37: a 32-bit product wraps as the spec's product modulo 2^32 does, and a shift right is the division by a power of two. -/
theorem hashBucketOfKey : Obligations.HashBucket := by
  intro k h0 h1 h2 n _ _ e0 e1 e2
  have hmul : h1 = h0 * 0x6A09E667 := BitVec.eq_of_toNat_eq (by rw [e1, BitVec.toNat_mul]; rfl)
  subst e0 hmul e2
  rw [BitVec.toNat_ushiftRight, Nat.shiftRight_eq_div_pow]
  rfl

-- HSTAT, HREL, HCLAIM and HDRAIN of one thread (R257, R258, R262, R263).

/-- Results found by their threads: those of the only thread there. -/
theorem State.oweAll_alone {s : State} {c : Iss} {tid : Nat} (gap : Nat) (f : Nat → List (Reg × Option DWord)) (ht : c.g.tids = [tid]) :
    s.oweAll c gap f = (owes s c tid false (f tid)).advance c.t c.gid gap := by
  unfold State.oweAll
  rw [ht]
  rfl

/-- An unkeyed instruction of one thread whose operation meets no trap and no wait: its results are owed, and the group moves on. -/
theorem State.hashEach_alone {s s1 : State} {c : Iss} {u : Use} {tid : Nat} {l : List (Reg × Option DWord)} (st : BitVec 2)
    {f : State → Iss → Nat → Except HStop (State × List (Reg × Option DWord))} (h : Calm s c u) (ht : c.g.tids = [tid]) (hf : f s c tid = .ok (s1, l)) :
    s.hashEach st u f = (owes s1 c tid false l).advance c.t c.gid (gap st) := by
  unfold State.hashEach
  simp only [h.forbidden, ht, sortNat_singleton, List.foldl_cons, List.foldl_nil, hf, List.nil_append]
  rw [State.splitTraps_none (by simp)]
  simp only [ht, sortNat_singleton, List.foldl_cons, List.foldl_nil, hf, List.nil_append]
  rw [State.oweAll_alone _ _ ht]
  simp only [List.find?_cons, beq_self_eq_true, Option.map_some, Option.getD_some]
  rfl

section

variable {st : BitVec 2} {k : BitVec 6} {q : BitVec 7} {s : State} {c : Iss} {tid : Nat} (ht : c.g.tids = [tid])
include ht

theorem hstat_alone {h : HTab} (hc : Calm s c ((Use.ksrc k.toNat 1).add (Use.dst q.toNat 4)))
    (hh : s.htabOf c.t ((c.k s k.toNat).toNat % 2 ^ 32) = .ok (some h)) :
    exec (.hstat st k q) s = .next ((owes s c tid false ((.v q.toNat, some (BitVec.ofNat 64 h.nlive)) :: (.v (q.toNat + 1), some (BitVec.ofNat 64 h.ntomb)) ::
      hashOwed q.toNat 0 (some (BitVec.ofNat 32 h.sused)))).advance c.t c.gid (gap st)) :=
  congrArg _ (State.hashEach_alone st hc ht (by simp only [hh]))

theorem hrel_alone {h : HTab} (hc : Calm s c ((Use.ksrc k.toNat 1).add (Use.dst (q.toNat + 2) 2)))
    (hh : s.htabOf c.t ((c.k s k.toNat).toNat % 2 ^ 32) = .ok (some h)) :
    exec (.hrel st k q) s = .next ((owes (s.scrPut h.u (h.b - 64) (h.header false)) c tid false
      (hashOwed q.toNat 0 (some (BitVec.ofNat 32 h.nlive)))).advance c.t c.gid (gap st)) :=
  congrArg _ (State.hashEach_alone st hc ht (by simp only [hh]))

theorem hclaim_range (hc : Calm s c ((Use.ksrc k.toNat 3).add (Use.dst (q.toNat + 2) 2)))
    (hr : claimRange c.tm (c.k s k.toNat) (c.k s (k.toNat + 1)) (c.k s (k.toNat + 2)) = true) :
    exec (.hclaim st k q) s = .next ((owes s c tid false (hashOwed q.toNat 11 none)).advance c.t c.gid (gap st)) :=
  congrArg _ (State.hashEach_alone st hc ht (if_pos hr))

/-- HCLAIM within its limits, its header without a data error: claimed where the header is live, else a new table. -/
theorem hclaim_alone (hc : Calm s c ((Use.ksrc k.toNat 3).add (Use.dst (q.toNat + 2) 2)))
    (hr : claimRange c.tm (c.k s k.toNat) (c.k s (k.toNat + 1)) (c.k s (k.toNat + 2)) = false)
    (htr : s.tableTrap c.t ((c.k s k.toNat).toNat % 2 ^ 32 - 64) 64 = none) :
    let b := (c.k s k.toNat).toNat % 2 ^ 32
    let n := bits (c.k s k.toNat).toNat 35 32
    exec (.hclaim st k q) s = .next (if (leNat (s.scrGet c.t (b - 64) 1)).testBit 4 = true then
        (owes s c tid false (hashOwed q.toNat 9 none)).advance c.t c.gid (gap st)
      else (owes (s.clearTable ⟨c.t, b, n, 0, 0, 0, (c.k s (k.toNat + 2)).toNat, c.k s (k.toNat + 1)⟩) c tid false
        (hashOwed q.toNat 0 (some (BitVec.ofNat 32 (2 ^ n))))).advance c.t c.gid (gap st)) := by
  intro b n
  by_cases hl : (leNat (s.scrGet c.t (b - 64) 1)).testBit 4 = true
  · rw [if_pos hl]
    rw [← bit_eq_testBit] at hl
    exact congrArg _ (State.hashEach_alone st hc ht (by simp only [hr, htr, b, hl, Bool.false_eq_true, if_false, if_true]))
  · rw [if_neg hl]
    rw [← bit_eq_testBit] at hl
    exact congrArg _ (State.hashEach_alone st hc ht (by simp only [hr, htr, b, n, hl, Bool.false_eq_true, if_false]))

section

variable {h : HTab} (hc : Calm s c ((Use.ksrc k.toNat 1).add ((Use.src q.toNat 3).add (Use.dst (q.toNat + 2) 2))))
  (hh : s.htabOf c.t ((c.k s k.toNat).toNat % 2 ^ 32) = .ok (some h))
include hc hh

theorem hdrain_range (hr : drainRange c.tm c.t h (c.src s tid q.toNat).toNat (c.src s tid (q.toNat + 1)).toNat (c.src s tid (q.toNat + 2)).toNat = true) :
    exec (.hdrain st k q) s = .next ((owes s c tid false (hashOwed q.toNat 11 none)).advance c.t c.gid (gap st)) :=
  congrArg _ (State.hashEach_alone st hc ht (by simp only [hh, hr, if_true]))

/-- HDRAIN within its limits: the live entries, as many as there is room for, in the buffer; the table is cleared on demand where they were all. -/
theorem hdrain_alone {seen : List HPart} {l : List Nat} (hl : s.liveEntries c.tm h = .ok (seen, l)) :
    let d := (c.src s tid q.toNat).toNat
    let m := (c.src s tid (q.toNat + 1)).toNat
    let f := (c.src s tid (q.toNat + 2)).toNat
    let s1 := (List.range (l.take m).length).foldl (fun (s : State) i => s.scrPut c.t (d + 8 * i) (natLe 8 (((l.take m)[i]?).getD 0))) (s.spillRoute c.tm seen)
    drainRange c.tm c.t h d m f = false → exec (.hdrain st k q) s =
      if m < l.length then .next ((owes s1 c tid false (hashOwed q.toNat 10 (some (BitVec.ofNat 32 m)))).advance c.t c.gid (gap st))
      else .next ((owes (if f = 1 then s1.clearTable h else s1) c tid false
        (hashOwed q.toNat 0 (some (BitVec.ofNat 32 l.length)))).advance c.t c.gid (gap st)) := by
  intro d m f s1 hr
  by_cases hm : m < l.length
  · rw [if_pos hm]
    exact congrArg _ (State.hashEach_alone st hc ht (by simp only [hh, hr, hl, d, m, f] at hm ⊢; exact if_pos hm))
  · rw [if_neg hm]
    exact congrArg _ (State.hashEach_alone st hc ht (by simp only [hh, hr, hl, d, m, f] at hm ⊢; exact if_neg hm))

end

end

/-- Settles O38: each instruction of one thread comes down to its one operation, by `hashEach_alone`. -/
theorem wholeTables : Obligations.WholeTables := by
  intro st k q s c tid ht b answers
  refine ⟨fun _ hc h hh => hstat_alone ht hc hh, fun _ hc h hh => hrel_alone ht hc hh, fun _ hc => ?_, fun _ hc => ?_⟩
  · intro k1 k2 n
    refine ⟨hclaim_range ht hc, fun hr htr hl => (hclaim_alone ht hc hr htr).trans (congrArg _ (if_pos hl)), fun hr htr hl =>
      (hclaim_alone ht hc hr htr).trans (congrArg _ (if_neg (ne_true_of_eq_false hl)))⟩
  · intro d m f h hh
    exact ⟨hdrain_range ht hc hh, fun hr seen l hl => hdrain_alone ht hc hh hl hr⟩

end Sys2Proof.Machine

namespace Sys2Proof.Machine

open Sys2Proof Sys2Proof.Said

-- Keyed operations (R259-R261).

theorem haccOp_eq_accTwo (u : BitVec 3) (sr : SysRegs) (a b : Word) : haccOp u sr a b = accTwo sr u a b := by
  have hu : u = 0 ∨ u = 1 ∨ u = 2 ∨ u = 3 ∨ u = 4 ∨ u = 5 ∨ u = 6 ∨ u = 7 := by decide +revert
  rcases hu with rfl | rfl | rfl | rfl | rfl | rfl | rfl | rfl <;> rfl

theorem accLanes_eq (sr : SysRegs) (u : BitVec 3) (x : Word) (ys : List Word) :
    ys.foldl (fun (a : Word × BitVec 5) y => let r := haccOp u sr a.1 y; (r.1, a.2 ||| r.2)) (x, 0) = accLanes sr u x ys := by
  simp only [haccOp_eq_accTwo]
  rfl

theorem accPlaced_eq (u : BitVec 3) (x : Word) : (if u = 1 then credFirst 2 x else (x, 0)) = accPlaced u x := by
  by_cases hu : u = 1
  · subst hu
    simp [credFirst, accPlaced]
  · rw [if_neg hu, accPlaced, if_neg (by simpa using fun h => absurd h hu)]

section

variable {s : State} {tm : Team} {b t : Nat} {u : BitVec 3} {k x : Word} {ys : List Word}

theorem State.keyed_noTable (h : s.htabOf t b = .ok none) (op : Nat) : s.keyed tm b op u t k (x :: ys) = .ok (s, ⟨8, 0, 8, 0, 0⟩) := by
  simp only [State.keyed, h]

variable {h : HTab} {seen : List HPart} (hh : s.htabOf t b = .ok (some h))
include hh

section

variable {p : HPos} (hf : s.hfind tm h k = .ok (seen, some p))
include hf

/-- HINS and HPROBE of a key that is there. -/
theorem State.keyed_present {op : Nat} (hop : op = 0 ∨ op = 1) :
    let s1 := s.spillRoute tm seen
    let v : Word := BitVec.ofNat 32 (s1.hget h p / 2 ^ 32)
    s.keyed tm b op u t k (x :: ys) = .ok (s1, ⟨2, v, 2, v, 0⟩) := by
  rcases hop with rfl | rfl <;> simp only [State.keyed, hh, hf]

/-- HDEL of a key that is there. -/
theorem State.keyed_deleted :
    let s1 := s.spillRoute tm seen
    let v : Word := BitVec.ofNat 32 (s1.hget h p / 2 ^ 32)
    s.keyed tm b 2 u t k (x :: ys) =
      .ok ((s1.hput h p tombKey v.toNat).putHtab { h with nlive := h.nlive - 1, ntomb := h.ntomb + 1 }, ⟨6, v, 1, 0, 0⟩) := by
  simp only [State.keyed, hh, hf]

/-- HACC of a key that is there. -/
theorem State.keyed_combined :
    let s1 := s.spillRoute tm seen
    let acc := accLanes tm.eff.sr u x ys
    let r := accTwo tm.eff.sr u (BitVec.ofNat 32 (s1.hget h p / 2 ^ 32)) acc.1
    s.keyed tm b 3 u t k (x :: ys) = .ok (s1.hput h p k.toNat r.1.toNat, ⟨2, r.1, 2, r.1, acc.2 ||| r.2⟩) := by
  simp only [State.keyed, hh, hf, List.headD_cons, List.drop_succ_cons, List.drop_zero, accLanes_eq]
  simp only [haccOp_eq_accTwo]

end

variable (hf : s.hfind tm h k = .ok (seen, none))
include hf

/-- HPROBE and HDEL of a key that is not there. -/
theorem State.keyed_absent {op : Nat} (hop : op = 1 ∨ op = 2) : s.keyed tm b op u t k (x :: ys) = .ok (s.spillRoute tm seen, ⟨1, 0, 1, 0, 0⟩) := by
  rcases hop with rfl | rfl <;> simp only [State.keyed, hh, hf]

/-- HINS and HACC of a key that is not there, by what becomes of the value that they offer. -/
theorem State.keyed_placed {s2 : State} {st : Nat} (hp : (s.spillRoute tm seen).hplace tm h k x = .ok (s2, st)) :
    s.keyed tm b 0 u t k (x :: ys) = .ok (s2, ⟨st, if st = 5 then 0 else x, if st = 5 then 5 else 2, if st = 5 then 0 else x, 0⟩) := by
  simp only [State.keyed, hh, hf, List.headD_cons, hp]

theorem State.keyed_accPlaced {s2 : State} {st : Nat}
    (hp : (s.spillRoute tm seen).hplace tm h k (accPlaced u (accLanes tm.eff.sr u x ys).1).1 = .ok (s2, st)) :
    let pl := accPlaced u (accLanes tm.eff.sr u x ys).1
    let v := if st = 5 then 0 else pl.1
    s.keyed tm b 3 u t k (x :: ys) = .ok (s2, ⟨st, v, st, v, (accLanes tm.eff.sr u x ys).2 ||| pl.2⟩) := by
  simp only [State.keyed, hh, hf, List.headD_cons, List.drop_succ_cons, List.drop_zero, accLanes_eq, accPlaced_eq, hp]

end

/-- A slot that an entry may be placed in: empty, or a tombstone (R259). -/
def State.vacant (s : State) (h : HTab) (p : HPos) : Bool := s.hget h p % 2 ^ 32 == 0xFFFFFFFF || s.hget h p % 2 ^ 32 == 0xFFFFFFFE

section

variable {s : State} {tm : Team} {h : HTab} {k x : Word}

theorem State.hplace_slot {p : HPos} (hv : (h.slots (hashBucket k h.n)).find? (s.vacant h) = some p) :
    s.hplace tm h k x = .ok ((s.hput h p k.toNat x.toNat).putHtab { h with
      nlive := h.nlive + 1, ntomb := if s.hget h p % 2 ^ 32 = 0xFFFFFFFE then h.ntomb - 1 else h.ntomb }, 3) := by
  have hv' : (h.slots (hashBucket k h.n)).find? (fun p => s.hget h p % 2 ^ 32 == emptyKey || s.hget h p % 2 ^ 32 == tombKey) = some p := hv
  simp only [State.hplace, hv', beq_iff_eq]
  rfl

theorem State.hplace_spill {p : HPos} (hv : (h.slots (hashBucket k h.n)).find? (s.vacant h) = none) (hroom : h.sused < h.scap)
    (hp : s.spillAt tm h h.sused = .ok p) :
    s.hplace tm h k x = .ok (((s.spillRoute tm p.parts).hput h p k.toNat x.toNat).putHtab { h with nlive := h.nlive + 1, sused := h.sused + 1 }, 4) := by
  have hv' : (h.slots (hashBucket k h.n)).find? (fun p => s.hget h p % 2 ^ 32 == emptyKey || s.hget h p % 2 ^ 32 == tombKey) = none := hv
  simp only [State.hplace, hv', hroom, hp, if_true]

theorem State.hplace_full (hv : (h.slots (hashBucket k h.n)).find? (s.vacant h) = none) (hfull : h.scap ≤ h.sused) : s.hplace tm h k x = .ok (s, 5) := by
  have hv' : (h.slots (hashBucket k h.n)).find? (fun p => s.hget h p % 2 ^ 32 == emptyKey || s.hget h p % 2 ^ 32 == tombKey) = none := hv
  simp only [State.hplace, hv', Nat.not_lt.mpr hfull, if_false]

end

/-- The keyed instructions: each is `hashOp` of its fields. -/
theorem exec_hashing {i : Instr} {st : BitVec 2} {op : Nat} {u : BitVec 3} {k : BitVec 6} {q : BitVec 7} (h : hashing i = some (st, op, u, k, q))
    (s : State) : exec i s = .next (s.hashOp st op u k q) := by
  unfold hashing at h
  split at h
  case h_5 => exact absurd h (by simp)
  all_goals
    simp only [Option.some.injEq, Prod.mk.injEq] at h
    obtain ⟨rfl, rfl, rfl, rfl, rfl⟩ := h
    rfl

theorem State.hashOp_noTrap {s s1 : State} {c : Iss} {st : BitVec 2} {op : Nat} {u : BitVec 3} {k : BitVec 6} {q : BitVec 7}
    {res : List (Nat × List (Reg × Option DWord))} {fl : BitVec 5} (h : Calm s c (useHash op k q))
    (hk : s.keyedAll c ((c.k s k.toNat).toNat % 2 ^ 32) op u q.toNat = .ok (s1, res, [], fl)) :
    s.hashOp st op u k q =
      (s1.raiseFlags c 0 fl).oweAll c (gap st) (fl := fl) (fun tid => ((res.find? (fun r => r.1 == tid)).map Prod.snd).getD []) := by
  refine (h.forbidden _ false).trans ?_
  simp only [hk]
  rw [State.splitTraps_none (by simp)]
  simp only [hk]
  rfl

/-- What the threads with reserved keys are owed (R259), in ascending order. -/
def Iss.reservedOwed (c : Iss) (s : State) (q : Nat) : List (Nat × List (Reg × Option DWord)) :=
  (((sortNat c.g.tids).map (fun tid => (tid, c.src s tid q))).filter (fun e => badKey e.2)).map (fun e => (e.1, hashOwed q 7 (some 0)))

theorem Iss.find?_reservedOwed {c : Iss} {s : State} {q tid : Nat} (ht : tid ∈ c.g.tids) (hk : badKey (c.src s tid q) = true) :
    (c.reservedOwed s q).find? (fun r => r.1 == tid) = some (tid, hashOwed q 7 (some 0)) := by
  have hmem : (tid, hashOwed q 7 (some 0)) ∈ c.reservedOwed s q :=
    List.mem_map.mpr ⟨(tid, c.src s tid q), List.mem_filter.mpr ⟨List.mem_map.mpr ⟨tid, (sortNat_perm _).mem_iff.mpr ht, rfl⟩, hk⟩, rfl⟩
  obtain ⟨r, hr⟩ := Option.isSome_iff_exists.mp ((List.find?_isSome (p := fun r => r.1 == tid)).mpr ⟨_, hmem, beq_self_eq_true tid⟩)
  obtain ⟨e, -, rfl⟩ := List.mem_map.mp (List.mem_of_find?_eq_some hr)
  obtain rfl : e.1 = tid := by simpa using List.find?_some hr
  exact hr

/-- The results of an execution begin with those of its reserved keys: each operation adds its own after them. -/
theorem State.reservedOwed_prefix {s s1 : State} {c : Iss} {b op : Nat} {u : BitVec 3} {q : Nat} {res : List (Nat × List (Reg × Option DWord))}
    {traps : List (Nat × Trap)} {fl : BitVec 5} (h : s.keyedAll c b op u q = .ok (s1, res, traps, fl)) : c.reservedOwed s q <+: res := by
  unfold State.keyedAll at h
  refine List.foldlRecOn (motive := fun acc => ∀ x, acc = Except.ok x → c.reservedOwed s q <+: x.2.1) _ _ ?_ ?_ _ h
  · rintro _ ⟨⟩
    exact List.prefix_refl _
  · intro acc ih g _ x hx
    match acc with
    | .error w => exact absurd hx (by simp)
    | .ok (s', res, traps, fl) =>
      have hold := ih _ rfl
      dsimp only at hx
      split at hx
      · exact absurd hx (by simp)
      · obtain rfl := Except.ok.inj hx
        exact hold
      · obtain rfl := Except.ok.inj hx
        exact hold.trans (List.prefix_append _ _)

/-- Settles O36: each outcome of one keyed operation by what `hfind` and `hplace` answer; the results of an execution begin with those of its reserved
keys. -/
theorem keyedHashes : Obligations.KeyedHashes := by
  refine ⟨fun i st op u k q s s1 c res fl hi _ h hk => (exec_hashing hi s).trans (congrArg _ (State.hashOp_noTrap h hk)),
    fun s s1 c b op u q res traps fl h tid ht hbad => ?_, fun s tm b u t k x ys _ => ⟨fun h op => State.keyed_noTable h op, fun h seen hh => ?_⟩⟩
  · obtain ⟨rest, rfl⟩ := State.reservedOwed_prefix h
    rw [List.find?_append, Iss.find?_reservedOwed ht hbad, Option.some_or]
  · intro s1 acc
    refine ⟨fun p hf => ⟨fun op hop => State.keyed_present hh hf hop, State.keyed_deleted hh hf, fun _ => State.keyed_combined hh hf⟩, fun hf => ?_⟩
    intro vacant slots slot spill pl
    exact ⟨fun op hop => State.keyed_absent hh hf hop,
      fun p hv => ⟨State.keyed_placed hh hf (State.hplace_slot hv), fun _ => State.keyed_accPlaced hh hf (State.hplace_slot hv)⟩,
      fun hv hroom p hp => ⟨State.keyed_placed hh hf (State.hplace_spill hv hroom hp), fun _ => State.keyed_accPlaced hh hf (State.hplace_spill hv hroom hp)⟩,
      fun hv hfull => ⟨State.keyed_placed hh hf (State.hplace_full hv hfull), fun _ => State.keyed_accPlaced hh hf (State.hplace_full hv hfull)⟩⟩

end Sys2Proof.Machine

namespace Sys2Proof.Machine

open Sys2Proof Sys2Proof.Said

-- Regions at the slices (R271-R276).

/-- Memory, data errors, engine operations, dies and device registers apart, everything stands: what a report of the machine (R364, R383, R388) leaves,
and a write into a save area (R367). -/
def Filed (s s' : State) : Prop := { s' with mem := s.mem, links := s.links, ops := s.ops, dies := s.dies, mmio := s.mmio } = s

theorem Filed.refl (s : State) : Filed s s := rfl

theorem Filed.trans {a b c : State} (h : Filed a b) (k : Filed b c) : Filed a c := by
  unfold Filed at h
  exact (congrArg (fun x : State => { x with mem := a.mem, links := a.links, ops := a.ops, dies := a.dies, mmio := a.mmio }) k).trans h

theorem Filed.ringEntry (s : State) (d kind vector ctx setid : Nat) : Filed s (s.ringEntry d kind vector ctx setid).1 := by
  unfold State.ringEntry
  dsimp only
  split <;> rfl

theorem Filed.interrupt (s : State) (d kind vector ctx setid : Nat) : Filed s (s.interrupt d kind vector ctx setid) := by
  have h := Filed.ringEntry s d kind vector ctx setid
  unfold State.interrupt
  split
  · next he => rwa [he] at h
  · next s1 str pa he =>
    rw [he] at h
    exact (h.trans (b := s1) (c := { s1 with mmio := s1.mmio.report str 0 pa }) rfl).trans (.ringEntry _ d 2 0 0 0)

theorem Filed.contextMc (s : State) (d str ctx pa : Nat) : Filed s (s.contextMc d str ctx pa) :=
  .trans (b := { s with mmio := s.mmio.report str ctx pa }) rfl (.interrupt _ d 2 0 ctx 0)

theorem Filed.recode (s : State) (ctx pa n op : Nat) : Filed s (s.recode ctx pa n op) := by
  refine State.foldl_keeps Filed.refl (fun _ _ _ => Filed.trans) _ (fun s i => ?_) _ s
  dsimp only
  split
  · rfl
  · next str hstr =>
    split
    · rfl
    · split
      · rfl
      · exact .trans (b := { s with links := { s.links with poison := FMap.erase s.links.poison (pa / 64 + i) } }) rfl (.contextMc _ _ _ _ _)

theorem Filed.putArea (s : State) (tm : Team) (l : List (Nat × Nat × Nat)) : Filed s (s.putArea tm l) := by
  refine State.foldl_keeps Filed.refl (fun _ _ _ => Filed.trans) _ (fun s w => ?_) l s
  exact .trans (b := { s with mem := s.mem.storeNum (s.areaPa tm + w.1) w.2.1 w.2.2 }) rfl (.recode _ _ _ _ _)

theorem Filed.imageRegion (s : State) (t tid : Nat) (abort : Option Nat) (word : Bool) : Filed s (s.imageRegion t tid abort word) := by
  unfold State.imageRegion
  split
  · rfl
  · split
    · rfl
    · exact .putArea _ _ _

theorem Filed.fields {s s' : State} (h : Filed s s') : s'.teams = s.teams ∧ s'.units = s.units ∧ s'.cur = s.cur ∧ s'.freeCtr = s.freeCtr := by
  rw [← h]
  exact ⟨rfl, rfl, rfl, rfl⟩

/-- A granted request that nothing keeps back, behind its core's own words, takes its bytes and narrows (R272-R274). -/
theorem granuleRequest_narrows {s : State} {q : GReq} {tm : Team} {r : Region} (hq : s.units.greqs = [q]) (ht : s.team? (q.region / 1024) = some tm)
    (hr : s.regionAt q.region = some r) (hseal : (s.gran q.gran).sealed = none) (hearly : tm.earlier [q.region % 1024] q.id = false)
    (hbusy : (s.core tm.core).busyD (q.pa / 128) = false) (hprep : s.prepWaits tm.core q.pa q.n = false)
    (hgrant : s.needsGrant (some q.pte) q.pa q.write = false) (hsound : q.write = false → q.own.length ≠ q.n → s.poisoned q.pa q.n = none) :
    let s0 := ({ s with units := { s.units with greqs := [] } } : State).homePrep tm.core q.pa q.n
    let gr := s0.gran q.gran
    s0.strictConflict gr q.region q.write = false →
    let s1 := (s0.setGran q.gran { gr with recs := FMap.set gr.recs q.region (max (gr.bound q.region).1 q.lo, min (gr.bound q.region).2 q.hi) }).narrowFor
      q.gran q.region q.write
    let v := leNat ((List.range q.n).map (fun i => FMap.getD q.own (q.pa + i) (((s1.homeBytes q.pa q.n)[i]?).getD 0)))
    exec (.granuleRequest q.id) s = .next (q.wbs.foldl (fun (s : State) id => s.answer (q.region / 1024) id
      (fun i => BitVec.ofNat 64 (v / 2 ^ (32 * i) % 2 ^ 32))) s1) := by
  intro s0 gr hconf s1 v
  have hread : (if q.write || q.own.length == q.n then none else ({ s with units := { s.units with greqs := [] } } : State).poisoned q.pa q.n) = none := by
    split
    · rfl
    · next h =>
      simp only [Bool.or_eq_true, beq_iff_eq, not_or, Bool.not_eq_true] at h
      exact hsound h.1 h.2
  show execGranuleRequest q.id s = _
  simp only [execGranuleRequest, hq, List.find?_cons, beq_self_eq_true, regionOf, ht, hr, hseal, hearly, hbusy, hprep, hgrant, Option.any_none,
    Bool.or_false, Bool.false_eq_true, if_false, List.filter_cons, List.filter_nil, bne_self_eq_false, hread]
  simp only [hconf, Bool.false_eq_true, if_false, s0, gr]
  rfl

theorem narrowing_reaches {s : State} {m : NMsg} {tm : Team} (hm : s.units.nmsgs = [m]) (ht : s.team? (m.region / 1024) = some tm)
    (hlen : m.region % 1024 < tm.threads.length) (hopen : ∃ r, (tm.thread (m.region % 1024)).region = some r ∧ r.stage ≠ 2) (hpos : 0 ≤ m.val)
    (htop : m.val < 2 ^ 63) : ∃ s' tm', exec (.narrowing m.id) s = .next s' ∧ s'.units.nmsgs = [] ∧ s'.team? (m.region / 1024) = some tm' ∧
      let th := tm.thread (m.region % 1024)
      let th' := tm'.thread (m.region % 1024)
      (m.isLo = true → th'.xlo.toNat = max th.xlo.toNat m.val.toNat ∧ th'.xhi = th.xhi) ∧
      (m.isLo = false → th'.xlo = th.xlo ∧ th'.xhi.toNat = min th.xhi.toNat m.val.toNat) := by
  obtain ⟨r, hr, hstage⟩ := hopen
  let f : Thread → Thread := fun th => if !th.region.any (fun r => r.stage != 2) then th
      else if m.isLo then { th with xlo := BitVec.ofNat 64 (max th.xlo.toNat m.val.toNat) }
      else if m.val < 0 then { th with xhi := 0, xlo := BitVec.ofNat 64 (max th.xlo.toNat 1) }
      else { th with xhi := BitVec.ofNat 64 (min th.xhi.toNat m.val.toNat) }
  let s0 : State := ({ s with units := { s.units with nmsgs := [] } } : State).updThread (m.region / 1024) (m.region % 1024) f
  obtain ⟨hteams, hunits, -, -⟩ := (Filed.imageRegion s0 (m.region / 1024) (m.region % 1024) none true).fields
  have htm : s0.team? (m.region / 1024) = some (tm.updThread (m.region % 1024) f) := (State.team?_updTeam_self _ _ _).trans (congrArg _ ht)
  refine ⟨s0.imageRegion (m.region / 1024) (m.region % 1024) none true, tm.updThread (m.region % 1024) f, ?_, by rw [hunits]; rfl,
    (congrArg (fun l => FMap.get? l (m.region / 1024)) hteams).trans htm, ?_⟩
  · show execNarrowing m.id s = _
    simp only [execNarrowing, hm, List.find?_cons, beq_self_eq_true, List.filter_cons, List.filter_nil, bne_self_eq_false, Bool.false_eq_true, if_false]
    rfl
  · rw [Team.thread_updThread_self hlen]
    have hany : (!(tm.thread (m.region % 1024)).region.any (fun r => r.stage != 2)) = false := by simp [hr, hstage]
    have hx := (tm.thread (m.region % 1024)).xlo.isLt
    simp only [f, hany, Bool.false_eq_true, if_false, Int.not_lt.mpr hpos]
    refine ⟨fun hl => ⟨?_, ?_⟩, fun hl => ⟨?_, ?_⟩⟩
    · rw [if_pos hl, BitVec.toNat_ofNat, Nat.mod_eq_of_lt (by omega)]
    · rw [if_pos hl]
    · rw [if_neg (by simp [hl])]
    · rw [if_neg (by simp [hl]), BitVec.toNat_ofNat, Nat.mod_eq_of_lt (by omega)]

section

variable {s : State} {t tid : Nat} {tm : Team} {r : Region} (ht : s.team? t = some tm) (hr : (tm.thread tid).region = some r)
include ht hr

section

variable (hs : r.stage = 1) (hown : ∀ q ∈ s.units.greqs, q.region ≠ t * 1024 + tid)
include hs hown

theorem seal_releases (hlate : r.late = true) (hearly : tm.earlier [tid] ((r.xe.map Prod.fst).getD 0) = false) (hrel : s.canRelease tm.core = true) :
    exec (.seal t tid) s = .next ((s.release tm.core).updRegion t tid (fun r => { r with late := false })) := by
  have hnone : s.units.greqs.any (fun q => q.region == regionNum t tid) = false := by simpa [regionNum] using hown
  show execSeal t tid s = _
  simp only [execSeal, ht, hr, Option.bind_some, Option.map_some, hs, hnone, hlate, hearly, hrel]
  rfl

theorem seal_seals (hlate : r.late = false) {g : Nat} {rest : List Nat} (hg : r.toSeal = g :: rest)
    (hfree : ∀ y, (s.gran g).sealed = some y → y = t * 1024 + tid) :
    let gr := s.gran g
    let lo := if r.writeSet.contains g then max (gr.bound (t * 1024 + tid)).1 (max gr.wpos (gr.rpos + 1)) else (gr.bound (t * 1024 + tid)).1
    exec (.seal t tid) s = .next ((s.setGran g { gr with sealed := some (t * 1024 + tid) }).updRegion t tid (fun r =>
      { r with toSeal := rest, sealed := r.sealed ++ [g], lo := max r.lo lo, hi := min r.hi (gr.bound (t * 1024 + tid)).2 })) := by
  intro gr lo
  have hnone : s.units.greqs.any (fun q => q.region == regionNum t tid) = false := by simpa [regionNum] using hown
  have hnot : (s.gran g).sealed.any (· != regionNum t tid) = false := by
    cases hy : (s.gran g).sealed with
    | none => rfl
    | some y => simpa [regionNum] using hfree y hy
  show execSeal t tid s = _
  simp only [execSeal, ht, hr, Option.bind_some, Option.map_some, hs, hnone, hlate, hg, hnot]
  rfl

theorem seal_chooses (hlate : r.late = false) (hg : r.toSeal = []) :
    let lo := max (tm.thread tid).xlo.toNat r.lo
    let hi := min (tm.thread tid).xhi.toNat r.hi
    let s0 := (s.updThread t tid (fun th => { th with xlo := BitVec.ofNat 64 lo, xhi := BitVec.ofNat 64 hi })).imageRegion t tid none
    exec (.seal t tid) s = .next (if hi < lo then s0.abortRegion t tid 1 0 else s0.updRegion t tid (fun r => { r with stage := 2 })) := by
  intro lo hi s0
  have hnone : s.units.greqs.any (fun q => q.region == regionNum t tid) = false := by simpa [regionNum] using hown
  show execSeal t tid s = _
  simp only [execSeal, ht, hr, Option.bind_some, Option.map_some, hs, hnone, hlate, hg]
  rfl

end

theorem commitApply_applies (hs : r.stage = 2) {g : Nat} {rest : List Nat} (hg : r.sealed = g :: rest)
    (hgrant : r.writeSet.contains g = true → s.needsGrant (FMap.get? r.ptes g) (g * 32) true = false) :
    exec (.commitApply t tid) s = .next ((s.applyAt (t * 1024 + tid) r tm.core tm.ctx g (tm.thread tid).xlo.toNat).updRegion t tid
      (fun r => { r with sealed := rest })) := by
  have hgo : (r.writeSet.contains g && s.needsGrant (FMap.get? r.ptes g) (g * 32) true) = false := by
    cases hw : r.writeSet.contains g
    · rfl
    · exact hgrant hw
  show execCommitApply t tid s = _
  simp only [execCommitApply, ht, hr, Option.bind_some, Option.map_some, hs, hg, hgo]
  rfl

theorem commitApply_ends (hs : r.stage = 2) (hg : r.sealed = []) :
    let p := (tm.thread tid).xlo.toNat
    let s0 := s.acquire tm.core
    exec (.commitApply t tid) s = .next ((({ s0 with ordClock := max s0.ordClock (p + 1) } : State).updTeam t (fun tm =>
      (tm.settle tid (some p)).updThread tid (fun th => { th with region := th.region.map (fun r => { r with xe := none }) }))).dropRegion t tid) := by
  intro p s0
  show execCommitApply t tid s = _
  simp only [execCommitApply, ht, hr, Option.bind_some, Option.map_some, hs, hg]
  rfl

end

/-- Settles O48: one lemma for each thing that an event of the slices does. -/
theorem regionEvents : Obligations.RegionEvents := by
  refine ⟨fun s q tm r hq ht hr hseal hearly hbusy hprep hgrant hsound => granuleRequest_narrows hq ht hr hseal hearly hbusy hprep hgrant hsound,
    fun s m tm hm ht hlen hopen hpos htop => narrowing_reaches hm ht hlen hopen hpos htop, fun s t tid tm r ht hr hs hown => ?_, fun s t tid tm r ht hr hs => ?_⟩
  · exact ⟨fun hlate hearly hrel => seal_releases ht hr hs hown hlate hearly hrel, fun hlate g rest hg hfree => seal_seals ht hr hs hown hlate hg hfree,
      fun hlate hg => seal_chooses ht hr hs hown hlate hg⟩
  · exact ⟨fun g rest hg hgrant => commitApply_applies ht hr hs hg hgrant, fun hg => commitApply_ends ht hr hs hg⟩

end Sys2Proof.Machine

namespace Sys2Proof.Machine

open Sys2Proof Sys2Proof.Said

-- What an abort leaves as it was (R277).

theorem Team.eff_setReg (tm : Team) (tid : Nat) (r : Reg) (x : DWord) : (tm.setReg tid r x).eff = tm.eff := by cases r <;> rfl

theorem Team.eff_settle_none (tm : Team) (tid : Nat) : (tm.settle tid none).eff = tm.eff := by
  unfold Team.settle
  split
  · rfl
  · dsimp only
    split
    · split <;> rfl
    · rfl

theorem Team.eff_setOwed (tm : Team) (tid : Nat) (r : Reg) (x : DWord) : (tm.setOwed tid r x).eff = tm.eff := by
  unfold Team.setOwed
  dsimp only
  split
  · exact Team.eff_setReg _ _ _ _
  · split <;> exact Team.eff_setReg _ _ _ _

theorem Team.eff_writeWb (tm : Team) (now : Nat) (w : Wb) : (tm.writeWb now w).eff = tm.eff := by
  unfold Team.writeWb
  split
  · rfl
  · dsimp only
    split
    · rfl
    · exact Team.eff_setOwed _ _ _ _

theorem Team.eff_flush (tm : Team) (now tid : Nat) : (tm.flush now tid).eff = tm.eff := by
  refine List.foldlRecOn (motive := fun a : Team => a.eff = tm.eff) _ _ rfl fun a ha w _ => ?_
  split
  · exact ha
  · exact (Team.eff_writeWb a now w).trans ha

theorem Team.eff_putWord (tm : Team) (id tid v : Nat) (x : Word) : (tm.putWord id tid v x).eff = tm.eff := by
  unfold Team.putWord
  split <;> rfl

/-- The counter of free values, the issuing group's name, and the system registers in force for each team stand as they were. -/
structure KeepsIssue (s s' : State) : Prop where
  freeCtr : s'.freeCtr = s.freeCtr
  cur : s'.cur = s.cur
  eff : ∀ t, (s'.team? t).map Team.eff = (s.team? t).map Team.eff

theorem KeepsIssue.refl (s : State) : KeepsIssue s s := ⟨rfl, rfl, fun _ => rfl⟩

theorem KeepsIssue.trans {a b c : State} (h : KeepsIssue a b) (k : KeepsIssue b c) : KeepsIssue a c :=
  ⟨k.freeCtr.trans h.freeCtr, k.cur.trans h.cur, fun t => (k.eff t).trans (h.eff t)⟩

theorem KeepsIssue.updTeam (s : State) (t : Nat) {f : Team → Team} (hf : ∀ tm, (f tm).eff = tm.eff) : KeepsIssue s (s.updTeam t f) := by
  refine ⟨rfl, rfl, fun u => ?_⟩
  rw [State.team?_updTeam]
  split
  · next h =>
    subst h
    cases s.team? u with
    | none => rfl
    | some tm => exact congrArg some (hf tm)
  · rfl

theorem KeepsIssue.of_filed {s s' : State} (h : Filed s s') : KeepsIssue s s' := by
  obtain ⟨hteams, -, hcur, hctr⟩ := h.fields
  exact ⟨hctr, hcur, fun t => congrArg (fun l => (FMap.get? l t).map Team.eff) hteams⟩

theorem KeepsIssue.setUnits (s : State) (u : Units) : KeepsIssue s { s with units := u } := ⟨rfl, rfl, fun _ => rfl⟩

theorem KeepsIssue.dropRegion (s : State) (t tid : Nat) : KeepsIssue s (s.dropRegion t tid) := by
  unfold State.dropRegion
  dsimp only
  refine (KeepsIssue.setUnits s _).trans (.updTeam _ t fun tm => ?_)
  exact Team.eff_settle_none tm tid

theorem KeepsIssue.observed (s : State) (t tid : Nat) : KeepsIssue s (s.observed t tid) := by
  unfold State.observed
  split
  · exact .refl s
  · split <;> exact ⟨rfl, rfl, fun _ => rfl⟩

theorem KeepsIssue.abortRegion (s : State) (t tid cause n : Nat) : KeepsIssue s (s.abortRegion t tid cause n) := by
  unfold State.abortRegion
  split
  · exact .refl s
  · next r _ =>
    dsimp only
    refine (((KeepsIssue.dropRegion s t tid).trans (.observed _ t tid)).trans ?_).trans (.of_filed (Filed.imageRegion _ t tid _ _))
    refine KeepsIssue.trans (b := ((s.dropRegion t tid).observed t tid).newId.2) ⟨rfl, rfl, fun _ => rfl⟩ (.updTeam _ t fun tm => ?_)
    rw [Team.updThread_eff, Team.eff_putWord, Team.leave_eff]
    split
    · exact Team.eff_flush _ _ _
    · rfl

/-- The group that issues after that, if one does, reads the same system registers. -/
theorem KeepsIssue.iss_eff {s s' : State} {c c' : Iss} (h : KeepsIssue s s') (hi : s.iss = some c) (hi' : s'.iss = some c') : c'.tm.eff = c.tm.eff := by
  obtain ⟨hcur, ht, -⟩ := State.iss_eq hi
  obtain ⟨hcur', ht', -⟩ := State.iss_eq hi'
  rw [h.cur, hcur] at hcur'
  obtain ⟨hname, -⟩ := Prod.mk.inj (Option.some.inj hcur')
  have heff := h.eff c.t
  rw [ht, hname, ht'] at heff
  exact Option.some.inj heff

-- The registers that an instruction reads do not depend on the rest of the state.

theorem readReg_congr {s s' : State} (h : s'.freeCtr = s.freeCtr) (tm : Team) (g : Group) (tid : Nat) (r : Reg) : readReg s' tm g tid r = readReg s tm g tid r := by
  unfold readReg
  rw [h]

theorem Iss.k_congr {s s' : State} (h : s'.freeCtr = s.freeCtr) (c : Iss) (n : Nat) : c.k s' n = c.k s n := readReg_congr h _ _ _ _

theorem Iss.src_congr {s s' : State} (h : s'.freeCtr = s.freeCtr) (c : Iss) (tid code : Nat) : c.src s' tid code = c.src s tid code := by
  unfold Iss.src
  simp only [readReg_congr h]

-- What passes the gates in a region (R278).

theorem Ready.gateFree {s : State} {c : Iss} {u : Use} (h : Ready s c u) (hc : c.closing = false) (k : State → Iss → State) : s.gateFree u k = k s c := by
  unfold State.gateFree
  rw [State.gate_ready h, hc]
  rfl

theorem Ready.forbiddenFree {s : State} {c : Iss} {u : Use} (h : Ready s c u) (hc : c.closing = false) (k : State → Iss → State) :
    s.forbiddenFree u k = s.outside c k := h.gateFree hc _

theorem Ready.forbidden {s : State} {c : Iss} {u : Use} (h : Ready s c u) (hc : c.closing = false) (ha : c.acquiring = false) (k : State → Iss → State)
    (whole : Bool) : s.forbidden u k whole = s.outside c k := by
  unfold State.forbidden State.gateMem
  rw [h.gateFree hc, ha]
  rfl

/-- A group passes the gate of an instruction that R278 forbids, which uses the registers `x.1` and is an access if `x.2` says so. -/
structure Admitted (s : State) (c : Iss) (x : Use × Bool) : Prop where
  ready : Ready s c x.1
  notClosing : c.closing = false
  acquired : x.2 = true → c.acquiring = false

/-- In every state in which a group issues under the same system registers, with the same free values, an instruction has the same effect behind the
gate of those that R278 forbids. -/
def Forbids (i : Instr) (x : Use × Bool) (s : State) (c : Iss) : Prop :=
  ∃ k, ∀ s' c', Admitted s' c' x → s'.freeCtr = s.freeCtr → c'.tm.eff = c.tm.eff → exec i s' = .next (s'.outside c' k)

theorem Forbids.free {i : Instr} {u : Use} {k : State → Iss → State} (h : ∀ s, exec i s = .next (s.forbiddenFree u k)) (s : State) (c : Iss) :
    Forbids i (u, false) s c := ⟨k, fun s' _ h' _ _ => (h s').trans (congrArg _ (h'.ready.forbiddenFree h'.notClosing k))⟩

theorem Forbids.access {i : Instr} {u : Use} {k : State → Iss → State} {whole : Bool} (h : ∀ s, exec i s = .next (s.forbidden u k whole)) (s : State)
    (c : Iss) : Forbids i (u, true) s c :=
  ⟨k, fun s' _ h' _ _ => (h s').trans (congrArg _ (h'.ready.forbidden h'.notClosing (h'.acquired rfl) k whole))⟩

theorem State.hashEach_gated (st : BitVec 2) (u : Use) (f : State → Iss → Nat → Except HStop (State × List (Reg × Option DWord))) :
    ∃ k, ∀ s : State, s.hashEach st u f = s.forbidden u k := ⟨_, fun _ => rfl⟩

theorem State.phaseOp_gated (st : BitVec 2) (u : Use) (d a : BitVec 6) (g : BitVec 1) (reads : Bool) (pre : Iss → Nat)
    (rel : Option (State → PhAt → Bool)) (f : Iss → Phase × Nat → (Phase × Nat) × Nat × Nat) :
    ∃ k, ∀ s : State, s.phaseOp st u d a g reads pre rel f = s.forbiddenAs rel.isSome (u.add ((Use.ksrc a.toNat 1).add (Use.kdst d.toNat 1))) k :=
  ⟨_, fun _ => rfl⟩

/-- Whether copies wait is a system register's to say (R238). -/
theorem State.copies_gated (st : BitVec 2) (u : Use) (cls : Nat) (kd : List Nat) (op : Iss → OpKind × List Chunk) (c : Iss) :
    ∃ k, ∀ (s : State) (c' : Iss), s.iss = some c' → c'.tm.eff = c.tm.eff → s.copies st u cls kd op = s.forbiddenFree (copyUse c u) k := by
  apply Exists.intro
  intro s c' hi heff
  unfold State.copies
  rw [hi, Option.map_some, Option.getD_some, heff]
  rfl

theorem Admitted.forbiddenAs {s : State} {c : Iss} {x : Use × Bool} (h : Admitted s c x) (k : State → Iss → State) :
    s.forbiddenAs x.2 x.1 k = s.outside c k := by
  unfold State.forbiddenAs
  split
  · next ha => exact h.ready.forbidden h.notClosing (h.acquired ha) k false
  · exact h.ready.forbiddenFree h.notClosing k

/-- The whole tables: their operands are registers. -/
theorem Forbids.table {i : Instr} {st : BitVec 2} {u : Use} {f : State → State → Iss → Nat → Except HStop (State × List (Reg × Option DWord))} {s : State}
    (c : Iss) (h : ∀ s', exec i s' = .next (s'.hashEach st u (f s'))) (hf : ∀ s', s'.freeCtr = s.freeCtr → f s' = f s) : Forbids i (u, true) s c := by
  obtain ⟨k, hk⟩ := State.hashEach_gated st u (f s)
  exact ⟨k, fun s' _ h' hctr _ => by rw [h, hf s' hctr, hk, h'.ready.forbidden h'.notClosing (h'.acquired rfl)]⟩

/-- The phase objects: their operands are k registers. -/
theorem Forbids.phase {i : Instr} {st : BitVec 2} {u : Use} {d a : BitVec 6} {g : BitVec 1} {reads acc : Bool} {pre : State → Iss → Nat}
    {rel : Option (State → PhAt → Bool)} {f : State → Iss → Phase × Nat → (Phase × Nat) × Nat × Nat} {s : State} (c : Iss)
    (h : ∀ s', exec i s' = .next (s'.phaseOp st u d a g reads (pre s') rel (f s'))) (hrel : rel.isSome = acc)
    (hf : ∀ s', s'.freeCtr = s.freeCtr → pre s' = pre s ∧ f s' = f s) :
    Forbids i (u.add ((Use.ksrc a.toNat 1).add (Use.kdst d.toNat 1)), acc) s c := by
  obtain ⟨k, hk⟩ := State.phaseOp_gated st u d a g reads (pre s) rel (f s)
  exact ⟨k, fun s' _ h' hctr _ => by rw [h, (hf s' hctr).1, (hf s' hctr).2, hk, hrel, h'.forbiddenAs]⟩

/-- The engine copies: their operands are k registers. -/
theorem Forbids.copy {i : Instr} {st : BitVec 2} {u : Use} {cls : Nat} {kd : List Nat} {op : State → Iss → OpKind × List Chunk} {s : State} (c : Iss)
    (h : ∀ s', exec i s' = .next (s'.copies st u cls kd (op s'))) (hop : ∀ s', s'.freeCtr = s.freeCtr → op s' = op s) :
    Forbids i (copyUse c u, false) s c := by
  obtain ⟨k, hk⟩ := State.copies_gated st u cls kd (op s) c
  exact ⟨k, fun s' c' h' hctr heff => by rw [h, hop s' hctr, hk s' c' h'.ready.iss heff, h'.ready.forbiddenFree h'.notClosing]⟩

theorem forbids_copying {i : Instr} {x : Copying} (h : copying i = some x) (s : State) (c : Iss) : Forbids i (x.use c, false) s c := by
  unfold copying at h
  split at h
  case h_8 => exact absurd h (by simp)
  all_goals
    obtain rfl := Option.some.inj h
    exact .copy c (fun _ => rfl) fun s' hctr => by simp only [Iss.k_congr hctr]

theorem forbids_operating {i : Instr} {x : Direct} (h : operating i = some x) (s : State) (c : Iss) : Forbids i (x.use.add x.writes, false) s c := by
  unfold operating at h
  split at h
  case h_8 => exact absurd h (by simp)
  all_goals
    obtain rfl := Option.some.inj h
    exact .free (fun _ => rfl) s c

theorem forbids_hashing {i : Instr} {st : BitVec 2} {op : Nat} {u : BitVec 3} {k : BitVec 6} {q : BitVec 7} (h : hashing i = some (st, op, u, k, q))
    (s : State) (c : Iss) : Forbids i (useHash op k q, true) s c :=
  .access (fun s' => exec_hashing h s') s c

/-- Every instruction that R278 forbids is gated so. -/
theorem outlawed_forbids {c : Iss} {i : Instr} {x : Use × Bool} (h : outlawed c i = some x) (s : State) : Forbids i x s c := by
  unfold outlawed at h
  split at h
  case h_28 =>
    simp only [Option.orElse_eq_or, Option.or_eq_some_iff, Option.map_eq_some_iff, Option.map_eq_none_iff] at h
    obtain ⟨y, hy, rfl⟩ | ⟨-, ⟨y, hy, rfl⟩ | ⟨-, ⟨st, op, u, k, q⟩, hy, rfl⟩⟩ := h
    · exact forbids_copying hy s c
    · exact forbids_operating hy s c
    · exact forbids_hashing hy s c
  all_goals obtain rfl := Option.some.inj h
  case h_8 | h_9 | h_10 | h_11 | h_12 | h_13 | h_14 => exact .access (fun _ => rfl) s c
  case h_15 => exact .copy c (fun _ => rfl) fun s' hctr => by simp only [Iss.k_congr hctr]
  case h_18 | h_19 | h_20 => exact .phase c (fun _ => rfl) rfl fun s' hctr => by simp only [Iss.k_congr hctr, and_self]
  case h_24 | h_25 | h_26 | h_27 => exact .table c (fun _ => rfl) fun s' hctr => by simp only [Iss.k_congr hctr, Iss.src_congr hctr]
  all_goals exact .free (fun _ => rfl) s c

theorem KeepsIssue.abortRegions (s : State) (t cause n : Nat) (l : List Nat) : KeepsIssue s (l.foldl (fun s tid => s.abortRegion t tid cause n) s) :=
  State.foldl_keeps .refl (fun _ _ _ => .trans) _ (fun s tid => .abortRegion s t tid cause n) l s

theorem Apart.closing {s : State} {c : Iss} {u : Use} (h : Apart s c u) : c.closing = false := by
  simp only [Iss.closing, List.any_eq_false]
  intro tid ht
  simp [h.outside tid ht]

/-- Threads of the group are in regions: those abort, and the rest goes on if any is left (R278). -/
theorem State.outside_aborts {s : State} {c : Iss} (hne : c.g.tids.filter (fun tid => (c.tm.thread tid).region.isSome) ≠ []) (k : State → Iss → State) :
    let s1 := (c.g.tids.filter (fun tid => (c.tm.thread tid).region.isSome)).foldl (fun s tid => s.abortRegion c.t tid 7 0) s
    (s1.iss = none → s.outside c k = s1.issued c.t) ∧ ∀ c', s1.iss = some c' → s.outside c k = k s1 c' := by
  intro s1
  have hforbid : s.forbid c = some s1 := if_neg (by simpa using hne)
  unfold State.outside
  rw [hforbid]
  exact ⟨fun hnone => by simp only [hnone], fun c' hsome => by simp only [hsome]⟩

theorem outlawed_aborts {i : Instr} {x : Use × Bool} {s : State} {c : Iss} (hi : outlawed c i = some x) (h : Admitted s c x)
    (hne : c.g.tids.filter (fun tid => (c.tm.thread tid).region.isSome) ≠ []) :
    let s1 := (c.g.tids.filter (fun tid => (c.tm.thread tid).region.isSome)).foldl (fun s tid => s.abortRegion c.t tid 7 0) s
    (s1.iss = none → exec i s = .next (s1.issued c.t)) ∧
      ∀ c', s1.iss = some c' → Apart s1 c' x.1 → (x.2 = true → c'.acquiring = false) → exec i s = exec i s1 := by
  intro s1
  obtain ⟨k, hk⟩ := outlawed_forbids hi s
  have hkeeps : KeepsIssue s s1 := .abortRegions s c.t 7 0 _
  have hexec : exec i s = .next (s.outside c k) := hk s c h rfl rfl
  obtain ⟨hleave, hgo⟩ := State.outside_aborts (s := s) hne k
  refine ⟨fun hnone => hexec.trans (congrArg _ (hleave hnone)), fun c' hsome h' ha => ?_⟩
  have hexec1 : exec i s1 = .next (s1.outside c' k) := hk s1 c' ⟨h'.toReady, h'.closing, ha⟩ hkeeps.freeCtr (hkeeps.iss_eff h.ready.iss hsome)
  rw [hexec, hexec1, h'.onward, hgo c' hsome]

-- XBEGIN, XRD and XABORT (R270).

/-- A thread's region begins (R270). -/
def Thread.begin (r : Region) (clock : Nat) (th : Thread) : Thread :=
  { th with region := some r, xlo := BitVec.ofNat 64 clock, xhi := BitVec.ofNat 64 (2 ^ 63 - 1) }

theorem Thread.reg_begin (r : Region) (clock : Nat) (th : Thread) (tid : Nat) (q : Reg) : (th.begin r clock).reg tid q = th.reg tid q := by cases q <;> rfl

theorem SameThread.regionFields {a b : Thread} (h : SameThread a b) : b.region = a.region ∧ b.xlo = a.xlo ∧ b.xhi = a.xhi := by
  have hregion := congrArg Thread.region h
  have hlo := congrArg Thread.xlo h
  have hhi := congrArg Thread.xhi h
  exact ⟨hregion, hlo, hhi⟩

theorem xbegin_begins {st : BitVec 2} {e : BitVec 1} {k : BitVec 6} {v : BitVec 7} {s : State} {c : Iss}
    (h : Apart s c ((Use.ksrc k.toNat 1).add ⟨[], [], v.toNat + 1, false⟩)) (he : c.endsWell)
    (hroom : s.openRegions c.tm.core + c.g.tids.length ≤ 64) :
    ∃ s' tm, exec (.xbegin st e k v) s = .next s' ∧ SameMachine s s' ∧ SameOthers s s' c.t ∧ s'.team? c.t = some tm ∧
      (∀ tid ∈ c.g.tids, tid < c.tm.threads.length → (tm.thread tid).region = some { strict := e == 1, handler := c.k s k.toNat, creg := v.toNat } ∧
        (tm.thread tid).xlo = BitVec.ofNat 64 s.ordClock ∧ (tm.thread tid).xhi = BitVec.ofNat 64 (2 ^ 63 - 1)) ∧
      (∀ tid, tid ∉ c.g.tids → tm.thread tid = c.tm.thread tid) ∧ (∀ tid q, (q.isT = true → c.goesOn) → tm.reg tid q = c.tm.reg tid q) := by
  obtain ⟨-, ht, hg⟩ := State.iss_eq h.iss
  let r : Region := { strict := e == 1, handler := c.k s k.toNat, creg := v.toNat }
  let f : Nat → Thread → Thread := fun _ => Thread.begin r s.ordClock
  let begun : Team → Team := fun tm => c.g.tids.foldl (fun tm tid => tm.updThread tid (f tid)) tm
  obtain ⟨hm, ho, tm, htm, hregs, hmoved, -⟩ := State.advance_after (gapOf st) begun ht hg he (Team.foldUpd_fields c.g.tids f c.tm).2.1
  have hexec : exec (.xbegin st e k v) s = .next ((s.updTeam c.t begun).advance c.t c.gid (gapOf st)) :=
    congrArg _ ((h.forbiddenFree _).trans (if_neg (Nat.not_lt.mpr hroom)))
  refine ⟨_, tm, hexec, hm, ho, htm, fun tid htid hlen => ?_, fun tid htid => ?_, fun tid q hq => ?_⟩
  · obtain ⟨hregion, hlo, hhi⟩ := (hregs.team.2.2 tid).regionFields
    have hth : (begun c.tm).thread tid = (c.tm.thread tid).begin r s.ordClock :=
      (Team.thread_foldUpd c.g.tids f (fun _ _ => rfl) c.tm hlen).trans (if_pos htid)
    rw [hregion, hlo, hhi, hth]
    exact ⟨rfl, rfl, rfl⟩
  · exact (hmoved.others tid htid).trans (Team.foldUpd_other c.g.tids f c.tm tid htid)
  · exact (hregs.reg tid q hq).trans (Team.foldUpd_reg c.g.tids f c.tm tid q fun _ th => Thread.reg_begin r s.ordClock th tid q)

theorem xrd_owes {st : BitVec 2} {e : BitVec 1} {v : BitVec 7} {s : State} {c : Iss} (h : Ready s c (Use.dst v.toNat 2)) (he : c.endsWell) :
    ∃ s', exec (.xrd st e v) s = .next s' ∧ OwesOnly s s' c (c.owed (fun tid =>
      resultRegs v.toNat 2 false (some (if e = 1 then (c.tm.thread tid).xhi.toNat else (c.tm.thread tid).xlo.toNat)))) :=
  ⟨_, exec_of_gate rfl h, State.oweAll_owes (gapOf st) _ 0 h.iss he⟩

/-- Outside a region XABORT has no effect. -/
theorem xabort_outside {st : BitVec 2} {n : BitVec 7} {s : State} {c : Iss} (h : Apart s c {}) :
    exec (.xabort st n) s = .next (s.advance c.t c.gid (gap st)) := by
  have hnone : c.g.tids.filter (fun tid => (c.tm.thread tid).region.isSome) = [] :=
    List.filter_eq_nil_iff.mpr fun tid ht => by simp [h.outside tid ht]
  refine congrArg Host.Outcome.next ((h.gateFree _).trans ?_)
  simp only [hnone, List.foldl_nil, h.iss]
  rfl

-- Inside an open region (R270, R271, R275).

section
variable {s : State} {c : Iss} {tid : Nat} {r : Region} {u : Use} (hin : inside c tid r)
include hin

theorem inside_tids : c.g.tids = [tid] := hin.1

theorem inside_region : (c.tm.thread tid).region = some r := hin.2.1

theorem inside_closing : c.closing = false := by
  obtain ⟨htids, hregion, hstage, -⟩ := hin
  simp [Iss.closing, htids, hregion, hstage]

theorem inside_doomed : (c.tm.thread tid).doomed = false := by
  obtain ⟨-, -, -, hbounds⟩ := hin
  simp [Thread.doomed, Nat.not_lt.mpr hbounds]

/-- The thread is in a region. -/
theorem inside_splitTraps (k : State → Iss → State) :
    s.splitTraps c (fun tid => if (c.tm.thread tid).region.isNone then some .illegal else none) k = k s c :=
  State.splitTraps_none (fun t ht => by
    obtain rfl := List.mem_singleton.mp (hin.1 ▸ ht)
    rw [inside_region hin]; rfl) k

theorem xabort_aborts {st : BitVec 2} {n : BitVec 7} (h : Ready s c {}) (hnone : (s.abortRegion c.t tid 6 n.toNat).iss = none) :
    exec (.xabort st n) s = .next ((s.abortRegion c.t tid 6 n.toNat).issued c.t) := by
  refine congrArg Host.Outcome.next ((h.gateFree (inside_closing hin) _).trans ?_)
  have hone : c.g.tids.filter (fun tid => (c.tm.thread tid).region.isSome) = [tid] := by simp [inside_tids hin, inside_region hin]
  simp only [hone, List.foldl_cons, List.foldl_nil, hnone]

theorem xend_closes {st : BitVec 2} {k : BitVec 6} {v : BitVec 7} (h : Ready s c ((Use.dst v.toNat 2).add (Use.kdst k.toNat 1))) :
    let s0 := starts s c true
    let s1 := owes (owesAll s0 c k none) c tid false (resultRegs v.toNat 2 false none)
    exec (.xend st k v) s = .next (((inRegion s1 c tid (fun r =>
      { r with stage := 1, toSeal := sortNat (dedup (r.reads ++ r.writeSet)), xe := some (s0.nextId + 1, s0.nextId), late := s.lateIssue c true })).updTeam c.t (fun tm =>
        { tm with xends := FMap.set tm.xends s0.nextId ([tid], none) })).advance c.t c.gid (gap st)) := by
  intro s0 s1
  have halive (t : Nat) (ht : t ∈ c.g.tids) : (if (c.tm.thread t).doomed then some 1 else none) = none := by
    obtain rfl := List.mem_singleton.mp (hin.1 ▸ ht)
    rw [inside_doomed hin]; rfl
  have hlate : (!(startsAfter s c true tid).isEmpty) = s.lateIssue c true := by
    unfold startsAfter
    cases s.lateIssue c true <;> rfl
  refine congrArg Host.Outcome.next ((h.gateFree (inside_closing hin) _).trans ((inside_splitTraps hin _).trans
    ((State.splitAborts_none halive _).trans ((State.engineIssue_starts s c true _).trans ?_))))
  simp only [s1, owesAll, inside_tids hin, List.foldl_cons, List.foldl_nil, hlate]
  rfl

theorem State.xGate_open (h : Ready s c u) (ea : Iss → State → Nat → DWord) (n : Nat) (write : Bool)
    (hx : c.xAbort s tid (ea c s tid) n write = none) (k : State → Iss → State) : s.xGate u ea n write k = k s c := by
  have hno (t : Nat) (ht : t ∈ c.g.tids) : c.xAbort s t (ea c s t) n write = none := by
    obtain rfl := List.mem_singleton.mp (hin.1 ▸ ht)
    exact hx
  exact (h.gateFree (inside_closing hin) _).trans ((inside_splitTraps hin _).trans (State.splitAborts_none hno k))

theorem xst_requests {st w : BitVec 2} {d a : BitVec 7} {o : BitVec 6} (h : Ready s c ((Use.src a.toNat 2).add (Use.src d.toNat (widthRegs w)))) :
    let va := c.src64 s tid a.toNat + o.signExtend 64 * BitVec.ofNat 64 (2 ^ (w.toNat + 1))
    let n := 2 ^ (w.toNat + 1)
    let pa := (c.lanePa s va).1
    let s0 := s.fillTlb c.tm.xlat va (c.lanePa s va).2
    let bs := natLe n (c.srcNat s0 tid d.toNat (widthRegs w))
    let gen := s0.genAt c.tm.xlat va
    c.xAbort s tid va n true = none → exec (.xst st w d a o) s = .next (((inRegion s0 c tid (fun r => { r with
      writes := (List.range n).foldl (fun m i => FMap.set m (pa + i) ((bs[i]?).getD 0)) r.writes
      writeSet := dedup (r.writeSet ++ [pa / 32])
      ptes := FMap.set r.ptes (pa / 32) (c.lanePa s va).2
      gen := some (min gen (r.gen.getD gen)) })).sendReq c tid true va pa (c.lanePa s va).2 n [] []).advance c.t c.gid (gap st)) := by
  intro va n pa s0 bs gen hx
  refine congrArg Host.Outcome.next ((State.xGate_open hin h _ _ _ hx _).trans ?_)
  rw [inside_tids hin]
  rfl

theorem xld_requests {st w : BitVec 2} {d a : BitVec 7} {o : BitVec 6} (h : Ready s c ((Use.src a.toNat 2).add (Use.dst d.toNat (widthRegs w)))) :
    let va := c.src64 s tid a.toNat + o.signExtend 64 * BitVec.ofNat 64 (2 ^ (w.toNat + 1))
    let n := 2 ^ (w.toNat + 1)
    let pa := (c.lanePa s va).1
    let s0 := s.fillTlb c.tm.xlat va (c.lanePa s va).2
    let own := (List.range n).filterMap (fun i => (FMap.get? r.writes (pa + i)).map (fun b => (pa + i, b)))
    let s1 : State := { s0 with nextId := s0.nextId + 1 }
    let s2 := if own.length = n then s1 else inRegion s1 c tid (fun r => { r with reads := dedup (r.reads ++ [pa / 32]) })
    c.xAbort s tid va n false = none → exec (.xld st w d a o) s = .next ((State.sendReq (s2.owe c.t s0.nextId tid false false
      (resultRegs d.toNat (widthRegs w) (w != 3) none)) c tid false va pa (c.lanePa s va).2 n own [s0.nextId]).advance c.t c.gid (gap st)) := by
  intro va n pa s0 own s1 s2 hx
  refine congrArg Host.Outcome.next ((State.xGate_open hin h _ _ _ hx _).trans ?_)
  rw [inside_tids hin]
  simp only [List.foldl_cons, List.foldl_nil, inside_region hin]
  rfl

end

/-- Settles O39: what R278 forbids has one effect behind its gate in every state that the abort of open regions leaves; the instructions of regions are
each one step of their threads. -/
theorem regionOps : Obligations.RegionOps := by
  intro st w e k v d a o s c tid r
  refine ⟨fun h he _ hroom => xbegin_begins h he hroom, fun _ h he => xrd_owes h he, xabort_outside, fun i x hi h hclosing ha => outlawed_aborts hi ⟨h, hclosing, ha⟩,
    fun hin => ⟨xabort_aborts hin, fun _ h => xend_closes hin h, fun _ h => xst_requests hin h, fun _ h => xld_requests hin h⟩⟩

end Sys2Proof.Machine

namespace Sys2Proof.Machine

open Sys2Proof Sys2Proof.Said

-- Settings of a team: accumulator windows and the promotion interval (R297, R301).

/-- Keys that all receive one value. -/
theorem FMap.getD_foldl_set_same {α : Type} (l : List Nat) (a d : α) (m : FMap α) (k : Nat) :
    FMap.getD (l.foldl (fun m n => FMap.set m n a) m) k d = if k ∈ l then a else FMap.getD m k d := by
  induction l generalizing m with
  | nil => rfl
  | cons n l ih =>
    rw [List.foldl_cons, ih, FMap.getD_set]
    by_cases hk : k = n <;> simp [hk]

/-- A group goes on after windows and promotion interval of its team were set: just these change of the team, and its registers stand. -/
theorem State.advance_settings {s : State} {c : Iss} (gap : Nat) {f : Team → Team} {aw : FMap (Nat × Nat)} {ival : Nat} (hi : s.iss = some c)
    (he : c.endsWell) (hf : f c.tm = { c.tm with aw, ival }) :
    ∃ tm, SameMachine s ((s.updTeam c.t f).advance c.t c.gid gap) ∧ SameOthers s ((s.updTeam c.t f).advance c.t c.gid gap) c.t ∧
      ((s.updTeam c.t f).advance c.t c.gid gap).team? c.t = some tm ∧ SameTeam c.tm { tm with aw := c.tm.aw, ival := c.tm.ival } ∧
      tm.aw = aw ∧ tm.ival = ival ∧ tm.kexc = c.tm.kexc ∧ ∀ tid r, (r.isT = true → c.goesOn) → tm.reg tid r = c.tm.reg tid r := by
  obtain ⟨-, ht, hg⟩ := State.iss_eq hi
  obtain ⟨hm, ho, tm, htm, ⟨⟨hrest, hlen, hthread⟩, hkexc, hreg⟩, -, -⟩ := State.advance_after gap f ht hg he (by rw [hf])
  rw [hf] at hrest hlen hthread hkexc hreg
  exact ⟨tm, hm, ho, htm, ⟨congrArg (fun x : Team => { x with aw := c.tm.aw, ival := c.tm.ival }) hrest, hlen, hthread⟩,
    congrArg Team.aw hrest, congrArg Team.ival hrest, hkexc, fun tid r hr => (hreg tid r hr).trans (Team.reg_congr rfl rfl rfl tid r)⟩

/-- Settles O33: the interval is a setting of the team, and the windows stand. -/
theorem promotionInterval : Obligations.PromotionInterval := by
  intro st n s c h he
  obtain ⟨tm, hm, ho, htm, hsame, haw, hival, hkexc, hreg⟩ :=
    State.advance_settings (f := fun tm => { tm with ival := n.toNat }) (gapOf st) h.iss he rfl
  rw [← haw] at hsame
  exact ⟨_, tm, exec_of_gate rfl h, hm, ho, htm, hsame, hival, hkexc, hreg⟩

-- AZERO and AWIN (R297, R299).

/-- The operation that AZERO issues for hi units from unit lo of the team on, which waits for the accesses of the threads `after`. -/
def Iss.zeroOp (c : Iss) (lo hi tid : Nat) (after : List Nat) : Op := { c.newOp tid 2 (.azero (c.tm.accBase + lo) hi) [] with after }

section

variable {st : BitVec 2} {k : BitVec 6} {s : State} {c : Iss}

/-- AZERO beyond the team's units. -/
theorem azero_window (h : Apart s c (Use.ksrc k.toNat 1)) :
    let lo := bits (c.k s k.toNat).toNat 15 0
    let hi := bits (c.k s k.toNat).toNat 31 16
    hi ≠ 0 → c.tm.tr.acc / 64 < lo + hi → exec (.azero st k) s = .next (s.trapAll c.t c.gid c.g .window) := by
  intro lo hi hsome hbeyond
  have htrap : (decide (hi ≠ 0) && decide (c.tm.tr.acc / 64 < lo + hi)) = true := by simp [hsome, hbeyond]
  exact congrArg Host.Outcome.next ((h.gateFree _).trans (if_pos htrap))

/-- AZERO of one thread within them, or of no unit. -/
theorem azero_issues {tid : Nat} (h : Apart s c (Use.ksrc k.toNat 1)) (ha : c.alone tid) (hstands : stands (starts s c true) c)
    (hroom : (starts s c true).cntRoom c.t 2 = true) :
    let lo := bits (c.k s k.toNat).toNat 15 0
    let hi := bits (c.k s k.toNat).toNat 31 16
    hi = 0 ∨ lo + hi ≤ c.tm.tr.acc / 64 → exec (.azero st k) s =
      .next (issued ((starts s c true).addOp (c.zeroOp lo hi tid (startsAfter s c true tid))).2 c tid (gap st)) := by
  intro lo hi hin
  have hgo : ¬ (decide (hi ≠ 0) && decide (c.tm.tr.acc / 64 < lo + hi)) = true := by
    rw [Bool.and_eq_true, decide_eq_true_eq, decide_eq_true_eq]
    omega
  obtain ⟨tm, htm, hlen⟩ := stands_addOp hstands (c.zeroOp lo hi tid (startsAfter s c true tid))
  refine congrArg Host.Outcome.next ((h.gateFree _).trans ((if_neg hgo).trans ?_))
  rw [State.engineIssue_starts]
  exact State.issueEach_alone (gapOf st) (one := fun s' tid => (s'.addOp (c.zeroOp lo hi tid (startsAfter s c true tid))).2) ha hroom
    ⟨tm, htm, hlen.symm ▸ ha.2.1⟩

/-- AWIN of a window that ends before it begins, or beyond the team's rows. -/
theorem awin_window (h : Ready s c (Use.ksrc k.toNat 1)) :
    let lo := bits (c.k s k.toNat).toNat 15 0
    let hi := bits (c.k s k.toNat).toNat 31 16
    hi < lo ∨ c.tm.tr.acc < hi → exec (.awin st k) s = .next (s.trapAll c.t c.gid c.g .window) := by
  intro lo hi hbad
  have htrap : (decide (hi < lo) || decide (c.tm.tr.acc < hi)) = true := by simpa using hbad
  exact (exec_of_gate rfl h).trans (congrArg _ (if_pos htrap))

/-- AWIN of a window within them: each crew of the group receives it. -/
theorem awin_sets (h : Ready s c (Use.ksrc k.toNat 1)) :
    let lo := bits (c.k s k.toNat).toNat 15 0
    let hi := bits (c.k s k.toNat).toNat 31 16
    lo ≤ hi → hi ≤ c.tm.tr.acc → exec (.awin st k) s = .next ((s.updTeam c.t (fun tm =>
      { tm with aw := (c.g.tids.map (· / 32)).foldl (fun m w => FMap.set m w (lo, hi)) tm.aw })).advance c.t c.gid (gapOf st)) := by
  intro lo hi hfirst hlast
  have hgo : ¬ (decide (hi < lo) || decide (c.tm.tr.acc < hi)) = true := by
    rw [Bool.or_eq_true, decide_eq_true_eq, decide_eq_true_eq]
    omega
  exact (exec_of_gate rfl h).trans (congrArg _ (if_neg hgo))

end

/-- Settles O32: AZERO of one thread is one operation, and the windows are a setting of the team. -/
theorem accumulatorOps : Obligations.AccumulatorOps := by
  intro st k s c x lo hi
  refine ⟨fun h => ⟨azero_window h, fun tid ha hin hstands hroom => azero_issues h ha hstands hroom hin⟩,
    fun h he => ⟨awin_window h, fun hfirst hlast => ?_⟩⟩
  obtain ⟨tm, hm, ho, htm, hsame, haw, hival, hkexc, hreg⟩ :=
    State.advance_settings (f := fun tm => { tm with aw := (c.g.tids.map (· / 32)).foldl (fun m w => FMap.set m w (lo, hi)) tm.aw })
      (gapOf st) h.iss he rfl
  rw [← hival] at hsame
  exact ⟨_, tm, awin_sets h hfirst hlast, hm, ho, htm, hsame, hkexc,
    fun w => by rw [haw, FMap.getD_foldl_set_same], hreg⟩

-- Operand slots by an instruction of one thread (R283, R284, R286).

/-- A token of the only thread there, its value at hand. -/
theorem State.tokens_alone {s s1 : State} {c : Iss} {tid v : Nat} (st : BitVec 2) (d : BitVec 6) {f : State → Nat → State × DWord}
    (ht : c.g.tids = [tid]) (hf : f s tid = (s1, BitVec.ofNat 64 v)) : s.tokens c (gapOf st) d.toNat f = told s1 c tid d (gap st) v := by
  unfold State.tokens
  simp only [ht, sortNat_singleton, List.foldl_cons, List.foldl_nil, hf]
  rfl

/-- The slots that a mask names. -/
def slotsIn (x : Nat) : List Nat := (List.range 16).filter (fun n => x.testBit n)

theorem mem_slotsIn {x n : Nat} : n ∈ slotsIn x ↔ n < 16 ∧ x.testBit n = true := by simp [slotsIn]

/-- Of a register bits 15:0 name slots. -/
theorem bit_slot (x : Nat) {n : Nat} (h : n ∈ List.range 16) : bit (x % 2 ^ 16) n = x.testBit n := by
  rw [bit_eq_testBit, Nat.testBit_mod_two_pow, decide_eq_true (List.mem_range.mp h), Bool.true_and]

theorem filter_bit_slots (x : Nat) : (List.range 16).filter (fun n => bit (x % 2 ^ 16) n) = slotsIn x :=
  List.filter_congr fun _ h => bit_slot x h

/-- A free slot that a team takes is empty, its descriptor clear; its bytes stay (R284). -/
def OSlot.claimed (o : OSlot) (t : Nat) : OSlot := { state := 1, team := t, data := o.data }

/-- A team takes those slots of a list that are free. -/
def CoreSt.claim (k : CoreSt) (t : Nat) (l : List Nat) : CoreSt :=
  l.foldl (fun k n => if (k.slot n).state = 0 then k.setSlot n ((k.slot n).claimed t) else k) k

theorem CoreSt.slot_setSlot (k : CoreSt) (n m : Nat) (o : OSlot) : (k.setSlot n o).slot m = if m = n then o else k.slot m :=
  FMap.getD_set _ _ _ _ _

theorem CoreSt.slot_claim (l : List Nat) (t m : Nat) (k : CoreSt) :
    (k.claim t l).slot m = if m ∈ l ∧ (k.slot m).state = 0 then (k.slot m).claimed t else k.slot m := by
  unfold CoreSt.claim
  induction l generalizing k with
  | nil => simp
  | cons n l ih =>
    rw [List.foldl_cons, ih]
    by_cases hfree : (k.slot n).state = 0
    · rw [if_pos hfree, CoreSt.slot_setSlot]
      by_cases hm : m = n
      · subst hm
        simp [hfree, OSlot.claimed]
      · simp [hm]
    · rw [if_neg hfree]
      by_cases hm : m = n
      · subst hm
        simp [hfree]
      · simp [hm]

/-- Nothing else of the core changes. -/
theorem CoreSt.claim_rest (l : List Nat) (t : Nat) (k : CoreSt) : { k.claim t l with slots := k.slots } = k := by
  unfold CoreSt.claim
  induction l generalizing k with
  | nil => rfl
  | cons n l ih =>
    rw [List.foldl_cons]
    split
    · exact congrArg (fun x : CoreSt => { x with slots := k.slots }) (ih (k.setSlot n ((k.slot n).claimed t)))
    · exact ih k

section

variable {st : BitVec 2} {d a : BitVec 6} {s : State} {c : Iss} {tid : Nat} (h : Apart s c ((Use.ksrc a.toNat 1).add (Use.kdst d.toNat 1)))
  (ht : c.g.tids = [tid])
include h ht

/-- SCLAIM of one thread: all the slots asked for, or none. -/
theorem exec_sclaim_alone :
    let k := s.core c.tm.core
    let l := slotsIn (c.k s a.toNat).toNat
    exec (.sclaim st d a) s = .next (if l.all (fun n => (k.slot n).state == 0 || k.holds c.t n) = true
      then told (s.updCore c.tm.core (fun _ => k.claim c.t l)) c tid d (gap st) ((k.claim c.t l).heldMask c.t)
      else told s c tid d (gap st) (k.heldMask c.t + 2 ^ 16)) := by
  intro k l
  refine congrArg Host.Outcome.next ((h.forbiddenFree _).trans ?_)
  simp only [filter_bit_slots]
  by_cases hall : l.all (fun n => (k.slot n).state == 0 || k.holds c.t n) = true
  · rw [if_pos hall]
    exact State.tokens_alone st d ht (if_pos hall)
  · rw [if_neg hall]
    exact State.tokens_alone st d ht (if_neg hall)

theorem exec_sclass_alone : exec (.sclass st d a) s =
    .next (told s c tid d (gap st) (((s.core c.tm.core).slot ((c.k s a.toNat).toNat % 16)).desc c.t)) :=
  congrArg Host.Outcome.next ((h.forbiddenFree _).trans (State.tokens_alone st d ht rfl))

/-- SREL of one thread, which holds its list and frees what it can at once. -/
theorem exec_srel_alone :
    let k := s.core c.tm.core
    let mine := (List.range 16).filter (fun n => (c.k s a.toNat).toNat.testBit n && k.holds c.t n)
    let s1 := owesK s tid c [(.k d.toNat, none)]
    let r : SRel := { core := c.tm.core, team := c.t, mask := mine.foldl (fun m n => m + 2 ^ n) 0, waits := mine.flatMap (s.holders c.t), wb := s.nextId }
    exec (.srel st d a) s = .next ((({ s1 with nextId := s.nextId + 2, rels := FMap.set s.rels (s.nextId + 1) r } : State).tryRel
      (s.nextId + 1)).advance c.t c.gid (gap st)) := by
  intro k mine s1 r
  have hmine : (List.range 16).filter (fun n => bit ((c.k s a.toNat).toNat % 2 ^ 16) n && k.holds c.t n) = mine :=
    List.filter_congr fun n hn => by rw [bit_slot _ hn]
  refine congrArg Host.Outcome.next ((h.forbiddenFree _).trans ?_)
  simp only [ht, sortNat_singleton, List.foldl_cons, List.foldl_nil, hmine, k]
  rfl

end

/-- Settles O29: SCLAIM is `claim` of the slots asked for or nothing; SCLASS and SREL have one effect each. -/
theorem slotOps : Obligations.SlotOps := by
  intro st d a s c tid h ht k x
  refine ⟨fun hok => ?_, fun ⟨n, hn, hask, htaken, hother⟩ => ?_, exec_sclass_alone h ht, exec_srel_alone h ht⟩
  · have hall : (slotsIn x).all (fun n => (k.slot n).state == 0 || k.holds c.t n) = true :=
      List.all_eq_true.mpr fun n hn => by simpa using hok n (mem_slotsIn.mp hn).1 (mem_slotsIn.mp hn).2
    refine ⟨k.claim c.t (slotsIn x), (exec_sclaim_alone h ht).trans (congrArg _ (if_pos hall)), CoreSt.claim_rest _ _ k,
      fun n hn hask => ?_, fun n hn => ?_⟩
    · have hslot := CoreSt.slot_claim (slotsIn x) c.t n k
      by_cases hfree : (k.slot n).state = 0
      · rw [if_pos ⟨mem_slotsIn.mpr ⟨hn, hask⟩, hfree⟩] at hslot
        exact ⟨by simp [CoreSt.holds, hslot, OSlot.claimed], fun _ => by rw [hslot]; rfl⟩
      · rw [if_neg fun hand => hfree hand.2] at hslot
        exact ⟨by rw [CoreSt.holds, hslot]; exact (hok n hn hask).resolve_left hfree, fun h0 => absurd h0 hfree⟩
    · refine (CoreSt.slot_claim _ _ _ _).trans (if_neg fun ⟨hmem, hfree⟩ => ?_)
      obtain ⟨hlt, hask⟩ := mem_slotsIn.mp hmem
      rcases hn with hge | hnot | hheld
      · omega
      · simp [hask] at hnot
      · simp [CoreSt.holds, hfree] at hheld
  · have hnot : ¬ (slotsIn x).all (fun n => (k.slot n).state == 0 || k.holds c.t n) = true := fun hall => by
      have := List.all_eq_true.mp hall n (mem_slotsIn.mpr ⟨hn, hask⟩)
      simp [htaken, hother] at this
    exact (exec_sclaim_alone h ht).trans (congrArg _ (if_neg hnot))

end Sys2Proof.Machine

namespace Sys2Proof.Machine

open Sys2Proof Sys2Proof.Said

-- Operations outside the engines (R330, R354).

/-- An operation that no counter of R34 counts: it is in the table, under the generation of its context. -/
theorem State.addOp_uncounted {s : State} {o : Op} (h : ¬ o.cls < 4) :
    s.addOp o = (s.nextId, { s with nextId := s.nextId + 1, ops := FMap.set s.ops s.nextId { o with gen := (s.ctx o.ctx).gen } }) := by
  unfold State.addOp
  cases ht : o.team with
  | none => rfl
  | some t => simp only [if_neg h]; rfl

/-- The release, the tokens and the predicate, the operation and its first try: what such an instruction does for a group of one thread. -/
theorem State.direct_alone {s : State} {c : Iss} {tid : Nat} (st : BitVec 2) (x : Direct) (h : Apart s c (x.use.add x.writes)) (ht : c.g.tids = [tid]) :
    s.direct st x.use x.rel x.e x.kd x.pd x.args =
      ((x.start (starts s c x.rel) c tid (startsAfter s c x.rel tid)).opNext ((starts s c x.rel).nextId + 1)).advance c.t c.gid (gap st) := by
  unfold State.direct
  refine (h.forbiddenFree _).trans ?_
  rw [State.engineIssue_starts]
  simp only [ht, sortNat_singleton, List.foldl_cons, List.foldl_nil]
  rw [State.addOp_uncounted (by simp [Iss.newOp])]
  unfold Direct.start
  cases x.pd <;> rfl

/-- Settles O40: each of the seven is `direct` of its fields, which one thread comes down to in `direct_alone`. -/
theorem directIssues : Obligations.DirectIssues := by
  intro i x s c tid hi _ h ht
  unfold operating at hi
  split at hi
  case h_8 => exact absurd hi (by simp)
  all_goals
    obtain rfl := Option.some.inj hi
    exact ⟨_, congrArg Host.Outcome.next (State.direct_alone _ _ h ht)⟩

-- Raises (R315, R333).

/-- A set with one more raise in flight, of the next sequence number. -/
def SSet.raised (e : SSet) (cell : Nat) (amt : Word) : SSet :=
  { e with rseq := e.rseq + 1, raises := e.raises ++ [⟨e.rseq + 1, cell, amt⟩], due := true }

theorem State.get?_addRaise {s : State} {sid : Nat} {e : SSet} (h : FMap.get? s.sets sid = some e) (cell : Nat) (amt : Word) :
    FMap.get? (s.addRaise sid cell amt).sets sid = some (e.raised cell amt) :=
  (FMap.get?_upd_self _ _ _).trans (congrArg _ h)

/-- Settles O41: `opRaise` by what the descriptor names; an accepted raise is `raised`. -/
theorem raiseAccepted : Obligations.RaiseAccepted := by
  intro s x va cell amt pte hx
  have hfind : s.findSet x va = .ok (s.setAt (paOf pte va)) := by simp [State.findSet, hx]
  refine ⟨fun hnone => by simp [State.opRaise, hfind, hnone], fun sid e hat hget => ?_⟩
  refine ⟨fun hs => by simp [State.opRaise, hfind, hat, hs], fun hs hc => by simp [State.opRaise, hfind, hat, hs, hc], fun hs hc => ?_⟩
  refine ⟨_, _, ?_, State.get?_addRaise hget cell (cleanAmt (BitVec.ofNat 32 amt)).1, rfl, rfl, rfl, rfl⟩
  simp [State.opRaise, hfind, hat, hs, Nat.not_le.mpr hc]

end Sys2Proof.Machine

namespace Sys2Proof.Machine

open Sys2Proof Sys2Proof.Said

-- What a look ahead reads (R321): the teams and the sets stand.

theorem Filed.teams {s s' : State} (h : Filed s s') : s'.teams = s.teams := by
  have hteams := congrArg State.teams h
  exact hteams

theorem Filed.sets {s s' : State} (h : Filed s s') : s'.sets = s.sets := by
  have hsets := congrArg State.sets h
  exact hsets

theorem Filed.noRoute (s : State) (die ctx pa : Nat) : Filed s (s.noRoute die ctx pa) := by
  unfold State.noRoute
  split
  · exact .contextMc s _ _ _ _
  · rfl

theorem Filed.vroute (s : State) (x : Xlat) (va : DWord) (n : Nat) : Filed s (s.vroute x va n) := by
  refine State.foldl_keeps Filed.refl (fun _ _ _ => Filed.trans) _ (fun s i => ?_) _ s
  dsimp only
  split
  · exact .noRoute s _ _ _
  · rfl

theorem Filed.askGrant (s : State) (pa : Nat) (write : Bool) : Filed s (s.askGrant pa write) := by
  unfold State.askGrant
  dsimp only
  split
  · rfl
  · split <;> rfl

theorem Filed.fillTlb (s : State) (x : Xlat) (va : DWord) (e : Nat) : Filed s (s.fillTlb x va e) := by
  unfold State.fillTlb
  dsimp only
  split <;> rfl

theorem Filed.prefetchRange (s : State) (x : Xlat) (va : DWord) (n : Nat) : Filed s (s.prefetchRange x va n) := by
  refine State.foldl_keeps Filed.refl (fun _ _ _ => Filed.trans) _ (fun s i => ?_) _ s
  dsimp only
  generalize (if i = 0 then va else BitVec.ofNat 64 ((va.toNat / 4096 + i) * 4096)) = a
  split
  · rfl
  · split
    · exact ((Filed.fillTlb s x _ _).trans (.noRoute _ _ _ _)).trans (.askGrant _ _ _)
    · exact (Filed.fillTlb s x _ _).trans (.noRoute _ _ _ _)

theorem Filed.prefetchCell (s : State) (x : Xlat) (e : SSet) (c : Nat) : Filed s (s.prefetchCell x e c).1 := by
  unfold State.prefetchCell
  split
  · exact .askGrant s _ _
  · have hread := Filed.vroute s x (e.pref + BitVec.ofNat 64 (32 * c)) 32
    dsimp only
    split
    · exact hread
    · exact (hread.trans (.prefetchRange _ x _ _)).trans (.prefetchRange _ x _ _)
  · rfl
  · rfl

/-- The prefetch regions of one more cell are read, or its entry waits for a grant. -/
def State.prefetchNext (x : Xlat) (e : SSet) (acc : State × List Nat) (c : Nat) : State × List Nat :=
  match acc.1.prefetchCell x e c with
  | (s, true) => (s, acc.2)
  | (s, false) => (s, acc.2 ++ [c])

theorem Filed.prefetchNext (x : Xlat) (e : SSet) (acc : State × List Nat) (c : Nat) : Filed acc.1 (State.prefetchNext x e acc c).1 := by
  have hcell := Filed.prefetchCell acc.1 x e c
  unfold State.prefetchNext
  split <;> next heq => rwa [heq] at hcell

theorem Filed.foldl_prefetchNext (x : Xlat) (e : SSet) (l : List Nat) (acc : State × List Nat) :
    Filed acc.1 (l.foldl (State.prefetchNext x e) acc).1 := by
  induction l generalizing acc with
  | nil => rfl
  | cons c l ih => exact (Filed.prefetchNext x e acc c).trans (ih _)

section

variable {s : State} {sid : Nat} {e : Machine.SSet} (he : FMap.get? s.sets sid = some e)
include he

/-- A set that looks ahead: the cells that wait for their entries, and those that enter the first candidates, have their regions read. -/
theorem State.lookAhead_reads (hlook : e.look ≠ 0) (hpref : e.pref ≠ 0) (hstop : e.stopping = false) :
    let now := [0, 1, 2, 3].flatMap e.firsts
    let r := (e.toRead ++ now.filter (fun c => !e.front.contains c)).foldl (State.prefetchNext (s.setXlat e) e) (s, [])
    s.lookAhead sid = { r.1 with sets := FMap.upd r.1.sets sid (fun e => { e with front := now, toRead := r.2 }) } := by
  have hgo : ¬ (e.look = 0 || e.pref = 0 || e.stopping) = true := by simpa [hlook, hstop] using hpref
  unfold State.lookAhead
  simp only [he]
  exact if_neg hgo

theorem State.lookAhead_idle (h : (e.look = 0 || e.pref = 0 || e.stopping) = true) : s.lookAhead sid = s := by
  unfold State.lookAhead
  simp only [he]
  exact if_pos h

/-- A look ahead changes of the set just its candidates and the cells to read, and no team. -/
theorem State.lookAhead_spec : (s.lookAhead sid).teams = s.teams ∧
    ∃ e', FMap.get? (s.lookAhead sid).sets sid = some e' ∧ { e' with front := e.front, toRead := e.toRead } = e := by
  by_cases h : (e.look = 0 || e.pref = 0 || e.stopping) = true
  · rw [State.lookAhead_idle he h]
    exact ⟨rfl, e, he, rfl⟩
  · simp only [Bool.or_eq_true, decide_eq_true_eq, not_or, Bool.not_eq_true] at h
    obtain ⟨⟨hlook, hpref⟩, hstop⟩ := h
    rw [State.lookAhead_reads he hlook hpref hstop]
    have hfiled := Filed.foldl_prefetchNext (s.setXlat e) e (e.toRead ++ ([0, 1, 2, 3].flatMap e.firsts).filter (fun c => !e.front.contains c)) (s, [])
    have hstands := (congrArg (FMap.get? · sid) hfiled.sets).trans he
    exact ⟨hfiled.teams, _, (FMap.get?_upd_self _ _ _).trans (congrArg _ hstands), rfl⟩

end

theorem bits_eq (x h l : Nat) : bits x h l = x / 2 ^ l % 2 ^ (h + 1 - l) := by
  rw [bits, Nat.shiftRight_eq_div_pow]

/-- The two prefetch regions that an entry of the prefetch table names; none where a bit that R313 asks to be zero is not. -/
def State.prefetchEntry (s : State) (x : Xlat) (w : Nat) : State :=
  if w / 2 ^ 96 % 2 ^ 32 ≠ 0 ∨ w / 2 ^ 224 % 2 ^ 32 ≠ 0 then s
  else (s.prefetchRange x (BitVec.ofNat 64 (w % 2 ^ 64)) (w / 2 ^ 64 % 2 ^ 32)).prefetchRange x
    (BitVec.ofNat 64 (w / 2 ^ 128 % 2 ^ 64)) (w / 2 ^ 192 % 2 ^ 32)

theorem State.prefetchCell_read {s : State} {x : Xlat} {e : SSet} {c : Nat} {bs : List Byte}
    (h : s.vget x (e.pref + BitVec.ofNat 64 (32 * c)) 32 = .ok bs) :
    s.prefetchCell x e c = ((s.vroute x (e.pref + BitVec.ofNat 64 (32 * c)) 32).prefetchEntry x (leNat bs), true) := by
  unfold State.prefetchCell State.prefetchEntry
  simp only [h, bits_eq]
  by_cases h : leNat bs / 2 ^ 96 % 2 ^ 32 ≠ 0 ∨ leNat bs / 2 ^ 224 % 2 ^ 32 ≠ 0
  · rw [if_pos h, if_pos (by simpa using h)]
  · rw [if_neg h, if_neg (by simpa using h)]
    simp

/-- A team that the unit puts on a core for a cell (R320), before its place is known. -/
def SSet.newTeam (e : SSet) (sid core cell : Nat) (c : Cell) : Team :=
  { ctx := e.ctx, core, slot := 0, cell := some (sid, cell), tr := e.tr, threads := freshThreads e.tr
    k := [(0, e.va), (1, BitVec.ofNat 64 (cell + c.ver.toNat * 2 ^ 32)), (2, c.res.setWidth 64), (3, e.bufVa c.current), (4, e.bufVa c.shadow),
      (5, BitVec.ofNat 64 c.shadow)] }

/-- A set with a cell dispatched to a core: what it had to commit is kept as disp. -/
def SSet.dispatched (e : SSet) (core cell : Nat) (c : Cell) : SSet :=
  { e.setCell cell { c with disp := c.res, res := 0, inacc := 0, state := 2, lastc := core, lastv := true } with due := true }

theorem SSet.cell_congr {e e' : SSet} (h : e'.cells = e.cells) (c : Nat) : e'.cell c = e.cell c := congrArg (fun m : FMap Cell => FMap.getD m c {}) h

theorem SSet.cell_setCell (e : SSet) (c d : Nat) (x : Cell) : (e.setCell c x).cell d = if d = c then x.norm else e.cell d := FMap.getD_set _ _ _ _ _

theorem State.dispatch_puts {s s' : State} {die sid cell : Nat} {e : Machine.SSet} {c : Cell} (h : s.dispatch die sid e cell c = some s') :
    ∃ core s1, s.standCore e die c = some core ∧
      ({ s with nextId := s.nextId + 1 } : State).putTeam s.nextId (e.newTeam sid core cell c) core true = some s1 ∧
      s' = (({ s1 with sets := FMap.set s1.sets sid (e.dispatched core cell c) } : State).lookAhead sid).acquire core := by
  unfold State.dispatch at h
  split at h
  case h_1 => cases h
  case h_2 core hcore =>
    dsimp only at h
    split at h
    case h_1 => cases h
    case h_2 s1 hput => exact ⟨core, s1, hcore, hput, (Option.some.inj h).symm⟩

theorem State.dispatch_spec {s s' : State} {die sid cell : Nat} {e : Machine.SSet} {c : Cell} (h : s.dispatch die sid e cell c = some s') :
    ∃ core e' tm, s.standCore e die c = some core ∧ FMap.get? s'.sets sid = some e' ∧
      e'.cell cell = Cell.norm { c with disp := c.res, res := 0, inacc := 0, state := 2, lastc := core, lastv := true } ∧
      (∀ d, d ≠ cell → e'.cell d = e.cell d) ∧
      s'.team? s.nextId = some tm ∧ tm.core = core ∧ tm.ctx = e.ctx ∧ tm.cell = some (sid, cell) ∧ tm.tr = e.tr := by
  obtain ⟨core, s1, hcore, hput, rfl⟩ := State.dispatch_puts h
  obtain ⟨tm, htm, hsame⟩ := (State.putTeam_new hput rfl).team
  let s2 : State := { s1 with sets := FMap.set s1.sets sid (e.dispatched core cell c) }
  have he : FMap.get? s2.sets sid = some (e.dispatched core cell c) := FMap.get?_set_self _ _ _
  obtain ⟨hteams, e', he', hrest⟩ := State.lookAhead_spec he
  have hcell := SSet.cell_congr (congrArg SSet.cells hrest)
  refine ⟨core, e', tm, hcore, he', ?_, fun d hd => ?_, (congrArg (FMap.get? · s.nextId) hteams).trans htm, congrArg Team.core hsame,
    congrArg Team.ctx hsame, congrArg Team.cell hsame, congrArg Team.tr hsame⟩
  · exact (hcell cell).trans ((SSet.cell_setCell _ _ _ _).trans (if_pos rfl))
  · exact (hcell d).trans ((SSet.cell_setCell _ _ _ _).trans (if_neg hd))

section

variable {s : State} {sid c : Nat} {e : Machine.SSet} (he : FMap.get? s.sets sid = some e) (hlook : e.look ≠ 0) (hpref : e.pref ≠ 0)
  (hstop : e.stopping = false) (hone : [0, 1, 2, 3].flatMap e.firsts = [c]) (hread : e.toRead = [])
include he hlook hpref hstop hone hread

/-- The one candidate has entered already. -/
theorem State.lookAhead_entered (hc : c ∈ e.front) :
    s.lookAhead sid = { s with sets := FMap.upd s.sets sid (fun e => { e with front := [c], toRead := [] }) } := by
  have hnone : e.toRead ++ [c].filter (fun c => !e.front.contains c) = [] := by simp [hread, hc]
  rw [State.lookAhead_reads he hlook hpref hstop]
  simp only [hone, hnone, List.foldl_nil]

/-- The one candidate enters now: its entry is read, and the regions that it names. -/
theorem State.lookAhead_enters {bs : List Byte} (hc : c ∉ e.front) (hbs : s.vget (s.setXlat e) (e.pref + BitVec.ofNat 64 (32 * c)) 32 = .ok bs) :
    let s1 := (s.vroute (s.setXlat e) (e.pref + BitVec.ofNat 64 (32 * c)) 32).prefetchEntry (s.setXlat e) (leNat bs)
    s.lookAhead sid = { s1 with sets := FMap.upd s1.sets sid (fun e => { e with front := [c], toRead := [] }) } := by
  have hnew : e.toRead ++ [c].filter (fun c => !e.front.contains c) = [c] := by simp [hread, hc]
  have hnext : State.prefetchNext (s.setXlat e) e (s, []) c =
      ((s.vroute (s.setXlat e) (e.pref + BitVec.ofNat 64 (32 * c)) 32).prefetchEntry (s.setXlat e) (leNat bs), []) := by
    unfold State.prefetchNext
    rw [State.prefetchCell_read hbs]
  rw [State.lookAhead_reads he hlook hpref hstop]
  simp only [hone, hnew, List.foldl_cons, List.foldl_nil, hnext]

end

-- What a set in the machine does next.

/-- Nothing holds the absorption of a raise: no access of the set is parked, and no record is being written past a page that is dead. -/
theorem absorb_unheld {s : State} {sid : Nat} {e : SSet} (hheld : s.setHeld sid = false) (hlive : e.out = none ∨ e.dead = []) :
    (s.setHeld sid || (e.out.isSome && !e.dead.isEmpty)) = false := by
  rcases hlive with h | h <;> simp [hheld, h]

/-- A team that has committed and still runs, after its set is gone: it names no set. -/
def Team.outlives (tm : Team) (sid : Nat) : Team :=
  match tm.cell with
  | some (i, c) => if i = sid then { tm with cell := some (2 ^ 32 + sid, c) } else tm
  | none => tm

section

variable {s : State} {sid : Nat} {e : Machine.SSet} (he : FMap.get? s.sets sid = some e) (hheld : s.setHeld sid = false)
include he hheld

section

variable {r : Raise} {rest : List Raise} (hraises : e.raises = r :: rest) (hlive : e.out = none ∨ e.dead = [])
include hraises hlive

/-- The oldest raise leaves its cell as it is, not queued. -/
theorem raiseAbsorb_plain (hq : e.queues r = false) : exec (.raiseAbsorb sid) s =
    .next (({ s with sets := FMap.set s.sets sid { e.absorb r [] with raises := rest, dead := e.dead } } : State).lookAhead sid) := by
  have hgo := absorb_unheld hheld hlive
  show execRaiseAbsorb sid s = _
  simp only [execRaiseAbsorb, he, hraises, hgo, hq, Bool.false_eq_true, if_false]

/-- The oldest raise makes its cell queued, with the tags read. -/
theorem raiseAbsorb_queues (hq : e.queues r = true) {tags : List Nat} (htags : s.tagsOf (s.setXlat e) e r.cell = .ok tags) :
    let s0 := s.sawTags (s.setXlat e) e r.cell
    exec (.raiseAbsorb sid) s =
      .next (({ s0 with sets := FMap.set s0.sets sid { e.absorb r tags with raises := rest, dead := [] } } : State).lookAhead sid) := by
  have hgo := absorb_unheld hheld hlive
  show execRaiseAbsorb sid s = _
  simp only [execRaiseAbsorb, he, hraises, hgo, hq, htags, Bool.false_eq_true, if_false, if_true]

end

/-- A record that has been begun goes on. -/
theorem quiescenceRecord_goesOn {l : List (DWord × List Byte)} (hout : e.out = some l) :
    exec (.quiescenceRecord sid) s = .next (s.signalSet sid e l) := by
  show execQuiescenceRecord sid s = _
  simp only [execQuiescenceRecord, he, hheld, hout, Bool.false_eq_true, if_false]

/-- The record of a set that has become quiescent is made up, and what writes it begins. -/
theorem quiescenceRecord_begins (hout : e.out = none) (hdue : e.due = true) (hquiet : e.quiet = true) (hstop : e.stopping = false) :
    let g := e.rgen + 1
    let record := g + e.aseq * 2 ^ 64 + e.ncommit * 2 ^ 128 + e.maxRes * 2 ^ 192 + sid * 2 ^ 224 + e.nfaultField * 2 ^ 232 + s.timeNs % 2 ^ 64 * 2 ^ 256
    let e' : Machine.SSet := { e with due := false, rgen := g, ncommit := 0 }
    exec (.quiescenceRecord sid) s =
      .next ((s.updSet sid (fun _ => e')).signalSet sid e' (e.image false ++ [(e.qrec, natLe 64 record), (e.va + 192, natLe 8 g)])) := by
  show execQuiescenceRecord sid s = _
  simp only [execQuiescenceRecord, he, hheld, hout, hdue, hquiet, hstop, Bool.not_true, Bool.or_self, Bool.false_eq_true, if_false]

/-- A stop whose writes pass takes the set from the machine (R336). -/
theorem sstopComplete_ends {s1 : State} (hstop : e.stopping = true) (hout : e.out = none) (hraises : e.raises = [])
    (hcells : ∀ c ∈ e.cells, c.2.state ≠ 2 ∧ c.2.pina = 0 ∧ c.2.pinb = 0)
    (hw : s.setWrites sid e (e.image true ++ [(e.va + 184, natLe 8 e.rseq), (e.va + 177, [0])]) = .ok s1) :
    exec (.sstopComplete sid) s = .next
      (({ s1 with sets := FMap.erase s1.sets sid, teams := s1.teams.map (fun x => (x.1, x.2.outlives sid)) } : State).stopDone e) := by
  have hbusy : e.cells.any (fun c => c.2.state == 2 || c.2.pina != 0 || c.2.pinb != 0) = false :=
    List.any_eq_false.mpr fun c hc => by simpa [and_assoc] using hcells c hc
  show execSstopComplete sid s = _
  simp only [execSstopComplete, he, hstop, hraises, hout, hbusy, hheld, hw, List.isEmpty_nil, Option.isSome_none, Bool.not_true, Bool.or_self,
    Bool.false_eq_true, if_false]
  rfl

end

/-- What answers the stop of a set writes tokens and commands. -/
theorem State.stopDone_keeps (s : State) (e : SSet) : (s.stopDone e).sets = s.sets ∧ (s.stopDone e).mem = s.mem := by
  unfold State.stopDone
  dsimp only
  split <;> split <;> exact ⟨rfl, rfl⟩

/-- The end of a record that has been written and its phase object signalled: nothing of it is left to write, and the vector is signalled. -/
def State.recordSaid (s : State) (sid : Nat) (e : SSet) : State :=
  let s := s.updSet sid (fun e => { e with out := none, dead := [] })
  if e.vector = 0 then s else s.interrupt e.die 1 e.vector e.ctx sid

section

variable {s s1 : State} {sid : Nat} {e : SSet} {l : List (DWord × List Byte)} (hw : s.setWrites sid e l = .ok s1)
include hw

theorem State.signalSet_plain (hp : e.phase = 0) : s.signalSet sid e l = s1.recordSaid sid e := by
  unfold State.signalSet
  simp only [State.writesOut_all hw, hp, List.isEmpty_nil, Bool.not_true, Bool.false_eq_true, if_false, if_true, State.updSet, FMap.upd_upd]
  rfl

theorem State.signalSet_phase (hp : e.phase ≠ 0) {s3 : State} :
    let s2 := s1.updSet sid (fun e => { e with out := some [] })
    s2.deadArrive e.dead (s2.setXlat e) e.phase = .ok s3 → s.signalSet sid e l = s3.recordSaid sid e := by
  intro s2 h3
  unfold State.signalSet
  simp only [State.writesOut_all hw, List.isEmpty_nil, Bool.not_true, Bool.false_eq_true, if_false, if_neg hp]
  simp only [s2] at h3
  rw [h3]
  rfl

end

/-- Settles O49: one lemma for each event and for each case of a look ahead. -/
theorem setEvents : Obligations.SetEvents := by
  refine ⟨fun s sid e he hheld => ⟨fun r rest hr hlive => ⟨fun hq => raiseAbsorb_plain he hheld hr hlive hq,
      fun hq tags ht => raiseAbsorb_queues he hheld hr hlive hq ht⟩, ?_, fun l => quiescenceRecord_goesOn he hheld, ?_, ?_⟩,
    fun s s' die sid cell e c _ h => State.dispatch_spec h,
    fun s sid c e bs he hlook hpref hstop hone hread => ⟨State.lookAhead_entered he hlook hpref hstop hone hread,
      State.lookAhead_enters he hlook hpref hstop hone hread⟩⟩
  · intro die s1 s0 classes h
    exact congrArg (fun x : Option State => Host.Outcome.next (x.getD s)) h
  · intro hout hdue hquiet hstop g record e' fin s1 hw
    have hbegin := quiescenceRecord_begins he hheld hout hdue hquiet hstop
    exact ⟨fun hp => hbegin.trans (congrArg _ (State.signalSet_plain hw hp)),
      fun hp s3 h3 => hbegin.trans (congrArg _ (State.signalSet_phase hw hp h3))⟩
  · intro hstop hout hraises hcells s1 hw
    exact ⟨_, sstopComplete_ends he hheld hstop hout hraises hcells hw, State.stopDone_keeps _ e⟩

end Sys2Proof.Machine

namespace Sys2Proof.Machine

open Sys2Proof Sys2Proof.Said

-- System registers by number (R372).

/-- The numbers of the system registers that hold what is written to them (R372). -/
def srHolds (n : Nat) : Prop := (n ≤ 9 ∧ n ≠ 7) ∨ (0x10 ≤ n ∧ n < 0x30)

/-- From 0x10 on the numbers are those of the two banks of the non-coherent ranges. -/
theorem SysRegs.write_bank (r : SysRegs) {n : Nat} (h : 0x10 ≤ n) (v : DWord) : r.write n v =
    if n < 0x20 then { r with ncb := FMap.set r.ncb (n - 0x10) (v &&& ~~~ 0xFFE) } else { r with ncl := FMap.set r.ncl (n - 0x20) (v &&& ~~~ 0xFFF) } := by
  unfold SysRegs.write
  split
  case h_11 => rfl
  all_goals omega

theorem SysRegs.read_bank (r : SysRegs) (ord : Nat) {n : Nat} (h : 0x10 ≤ n) :
    r.read ord n = if n < 0x20 then FMap.getD r.ncb (n - 0x10) 0 else FMap.getD r.ncl (n - 0x20) 0 := by
  unfold SysRegs.read
  split
  case h_11 => rfl
  all_goals omega

/-- A write below the banks leaves them. -/
theorem SysRegs.write_low_banks (r : SysRegs) {n : Nat} (h : n ≤ 9) (v : DWord) : (r.write n v).ncb = r.ncb ∧ (r.write n v).ncl = r.ncl := by
  unfold SysRegs.write
  split
  case h_11 => interval_cases n <;> contradiction
  all_goals exact ⟨rfl, rfl⟩

/-- A register below the banks keeps its value when another is written. -/
theorem SysRegs.read_low_write_ne (r : SysRegs) (ord : Nat) {n m : Nat} (hn : n ≤ 9) (h : n ≠ m) (v : DWord) :
    (r.write m v).read ord n = r.read ord n := by
  unfold SysRegs.write
  split
  case h_11 => split <;> (unfold SysRegs.read; interval_cases n <;> rfl)
  all_goals
    unfold SysRegs.read
    split <;> simp_all

/-- So does every register. -/
theorem SysRegs.read_write_ne (r : SysRegs) (ord : Nat) {n m : Nat} (hn : srHolds n) (hm : srHolds m) (h : n ≠ m) (v : DWord) :
    (r.write m v).read ord n = r.read ord n := by
  rcases hn with ⟨hn, -⟩ | ⟨hn, -⟩
  · exact SysRegs.read_low_write_ne r ord hn h v
  · rw [SysRegs.read_bank _ _ hn, SysRegs.read_bank _ _ hn]
    rcases hm with ⟨hm, -⟩ | ⟨hm, -⟩
    · obtain ⟨hb, hl⟩ := SysRegs.write_low_banks r hm v
      rw [hb, hl]
    · rw [SysRegs.write_bank r hm]
      by_cases h1 : m < 0x20 <;> by_cases h2 : n < 0x20 <;> simp only [h1, h2, if_true, if_false] <;> exact FMap.getD_set_ne _ _ _ (by omega)

/-- What a write leaves in its register depends on nothing but what that register held. -/
theorem SysRegs.read_write_congr {r r' : SysRegs} (ord : Nat) {n : Nat} (hn : srHolds n) (h : r.read ord n = r'.read ord n) (v : DWord) :
    (r.write n v).read ord n = (r'.write n v).read ord n := by
  rcases hn with ⟨hn, h7⟩ | ⟨hn, -⟩
  · have hinj : ∀ a b : BitVec 32, a.setWidth 64 = b.setWidth 64 → a = b := by
      intro a b hab
      simpa using congrArg (BitVec.setWidth 32) hab
    interval_cases n <;> simp only [SysRegs.read, SysRegs.write] at h ⊢
    · rw [hinj _ _ h]
    · rw [hinj _ _ h]
    · rw [hinj _ _ h]
    · rw [h]
  · rw [SysRegs.write_bank r hn, SysRegs.write_bank r' hn, SysRegs.read_bank _ _ hn, SysRegs.read_bank _ _ hn]
    split <;> simp only [FMap.getD_set_self]

/-- Registers written one after another, by number and value. -/
def SysRegs.writes (r : SysRegs) (l : List (Nat × DWord)) : SysRegs := l.foldl (fun r e => r.write e.1 e.2) r

theorem SysRegs.read_writes_other {l : List (Nat × DWord)} (hl : ∀ e ∈ l, srHolds e.1) {n : Nat} (hn : srHolds n) (h : ∀ e ∈ l, e.1 ≠ n)
    (r : SysRegs) (ord : Nat) : (r.writes l).read ord n = r.read ord n := by
  induction l generalizing r with
  | nil => rfl
  | cons e l ih =>
    exact (ih (fun e h => hl e (List.mem_cons_of_mem _ h)) (fun e he => h e (List.mem_cons_of_mem _ he)) _).trans
      (SysRegs.read_write_ne r ord hn (hl e List.mem_cons_self) (h e List.mem_cons_self).symm _)

/-- Of several registers written, each written once, every one holds what its own write left. -/
theorem SysRegs.read_writes {l : List (Nat × DWord)} (hl : ∀ e ∈ l, srHolds e.1) (hd : (l.map Prod.fst).Nodup) {n : Nat} {v : DWord}
    (h : (n, v) ∈ l) (r : SysRegs) (ord : Nat) : (r.writes l).read ord n = (r.write n v).read ord n := by
  induction l generalizing r with
  | nil => simp at h
  | cons e l ih =>
    obtain ⟨hfirst, hrest⟩ := List.nodup_cons.mp hd
    have he := hl e List.mem_cons_self
    have hl' : ∀ e ∈ l, srHolds e.1 := fun e h => hl e (List.mem_cons_of_mem _ h)
    show (SysRegs.writes (r.write e.1 e.2) l).read ord n = _
    rcases List.mem_cons.mp h with rfl | h
    · exact SysRegs.read_writes_other hl' he (fun e h hne => hfirst (hne ▸ List.mem_map_of_mem h)) _ _
    · have hn : srHolds n := hl' _ h
      have hne : n ≠ e.1 := fun hne => hfirst (hne ▸ List.mem_map_of_mem (f := Prod.fst) h)
      exact (ih hl' hrest h _).trans (SysRegs.read_write_congr ord hn (SysRegs.read_write_ne r ord hn he hne _) v)

-- Contexts as their records have them (R375).

/-- The registers that a context's record holds: number, and where it stands in the record. -/
def recordRegs : List (Nat × Nat) :=
  [(0, 0x10), (1, 0x18), (2, 0x20), (3, 0x28), (4, 0x30), (5, 0x38), (6, 0x40), (8, 0x48), (9, 0x50)] ++
    (List.range 16).flatMap (fun i => [(0x10 + i, 0x100 + 8 * i), (0x20 + i, 0x180 + 8 * i)])

theorem recordRegs_hold : ∀ e ∈ recordRegs, srHolds e.1 := by unfold srHolds; decide
theorem recordRegs_nodup : (recordRegs.map Prod.fst).Nodup := by decide

theorem mem_recordRegs {r o : Nat} (h : (r, o) ∈ [(0, 0x10), (1, 0x18), (2, 0x20), (3, 0x28), (4, 0x30), (5, 0x38), (6, 0x40), (8, 0x48), (9, 0x50)] ∨
    ∃ i, i < 16 ∧ ((r, o) = (0x10 + i, 0x100 + 8 * i) ∨ (r, o) = (0x20 + i, 0x180 + 8 * i))) : (r, o) ∈ recordRegs := by
  refine List.mem_append.mpr (h.imp_right fun ⟨i, hi, ho⟩ => List.mem_flatMap.mpr ⟨i, List.mem_range.mpr hi, ?_⟩)
  simpa using ho

/-- A word of a context's record. -/
def State.recordWord (s : State) (n o : Nat) : DWord := BitVec.ofNat 64 (s.mem.num (s.local (s.mmio.ctbase.toNat + 512 * n) + o) 8)

theorem State.recordWord_first (s : State) (n : Nat) :
    s.recordWord n 0 = BitVec.ofNat 64 (s.mem.num (s.local (s.mmio.ctbase.toNat + 512 * n)) 8) := by
  rw [State.recordWord, Nat.add_zero]

/-- The system registers of a context as its record leaves them. -/
def State.recordSr (s : State) (n : Nat) : SysRegs := (s.ctx n).sr.writes (recordRegs.map (fun e => (e.1, s.recordWord n e.2)))

/-- A context as its record leaves it. -/
def State.recordCtx (s : State) (n : Nat) : Ctx :=
  { s.ctx n with v := (s.recordWord n 0).getLsbD 0, priv := (s.recordWord n 0).getLsbD 1
                 root := BitVec.ofNat 64 (bits (s.recordWord n 8).toNat 55 21 * 2 ^ 21), sr := s.recordSr n }

theorem State.recordSr_read {s : State} {n r o : Nat} (h : (r, o) ∈ recordRegs) (ord : Nat) :
    (s.recordSr n).read ord r = ((s.ctx n).sr.write r (s.recordWord n o)).read ord r := by
  refine SysRegs.read_writes (fun e he => ?_) ?_ (List.mem_map.mpr ⟨_, h, rfl⟩) _ ord
  · obtain ⟨e', he', rfl⟩ := List.mem_map.mp he
    exact recordRegs_hold e' he'
  · rw [List.map_map]
    exact recordRegs_nodup

/-- A read without a data error reports none. -/
theorem State.readCheck_sound {s : State} {pa n : Nat} (h : ∀ e ∈ s.links.poison, ¬ (pa / 64 ≤ e.1 ∧ e.1 * 64 < pa + n)) (die ctx : Nat) :
    s.readCheck die ctx pa n = s := by
  have hnone : s.links.poison.filter (fun e => decide (pa / 64 ≤ e.1) && decide (e.1 * 64 < pa + n)) = [] :=
    List.filter_eq_nil_iff.mpr fun e he => by simpa using h e he
  unfold State.readCheck
  rw [hnone]
  rfl

theorem State.loadCtx_sound {s : State} {n : Nat} (hn : n < 2048)
    (h : ∀ e ∈ s.links.poison, ¬ (s.local (s.mmio.ctbase.toNat + 512 * n) / 64 ≤ e.1 ∧ e.1 * 64 < s.local (s.mmio.ctbase.toNat + 512 * n) + 512)) :
    s.loadCtx n = { s with ctxs := FMap.set s.ctxs n (s.recordCtx n) } := by
  have hsr : s.recordSr n = (List.range 16).foldl (fun (r : SysRegs) i =>
      (r.write (0x10 + i) (s.recordWord n (0x100 + 8 * i))).write (0x20 + i) (s.recordWord n (0x180 + 8 * i)))
      ([(0, 0x10), (1, 0x18), (2, 0x20), (3, 0x28), (4, 0x30), (5, 0x38), (6, 0x40), (8, 0x48), (9, 0x50)].foldl
        (fun (r : SysRegs) (e : Nat × Nat) => r.write e.1 (s.recordWord n e.2)) (s.ctx n).sr) := by
    unfold State.recordSr SysRegs.writes recordRegs
    rw [List.foldl_map, List.foldl_append, List.foldl_flatMap]
    rfl
  unfold State.recordCtx
  rw [hsr]
  exact (if_pos hn).trans (State.readCheck_sound (s := { s with ctxs := FMap.set s.ctxs n _ }) h 0 n)

-- Weights (R326).

/-- Dies changed one after another by a change that a second time changes nothing more. -/
theorem State.die_foldl_updDie {f : DieSt → DieSt} (hf : ∀ x, f (f x) = f x) (l : List Nat) (s : State) (d : Nat) :
    (l.foldl (fun (s : State) d => s.updDie d f) s).die d = if d ∈ l then f (s.die d) else s.die d := by
  induction l generalizing s with
  | nil => rfl
  | cons e l ih =>
    rw [List.foldl_cons, ih, State.die_updDie]
    by_cases he : d = e
    · subst he; simp [hf]
    · simp [he]

theorem State.foldl_updDie_rest (f : DieSt → DieSt) (l : List Nat) (s : State) :
    { l.foldl (fun (s : State) d => s.updDie d f) s with dies := s.dies } = s := by
  induction l generalizing s with
  | nil => rfl
  | cons e l ih => exact congrArg (fun x : State => { x with dies := s.dies }) (ih (s.updDie e f))

theorem State.fwApply_good {s : State} (h : (s.mmio.fw.map Prod.snd).sum = 256) :
    { s.fwApply with dies := s.dies } = s ∧
      ∀ d, s.fwApply.die d = if d < 4 then { s.die d with wNext := some s.mmio.fw } else s.die d := by
  have hsum : s.mmio.fw.foldl (fun n e => n + e.2) 0 = 256 := by
    rw [← h, List.sum_eq_foldl, List.foldl_map]
  have happly : s.fwApply = (List.range 4).foldl (fun (x : State) d => x.updDie d (fun di => { di with wNext := some s.mmio.fw })) s := if_pos hsum
  rw [happly]
  refine ⟨State.foldl_updDie_rest _ _ s, fun d => ?_⟩
  simpa using State.die_foldl_updDie (f := fun di => { di with wNext := some s.mmio.fw }) (fun _ => rfl) (List.range 4) s d

theorem State.fwApply_bad {s : State} (h : (s.mmio.fw.map Prod.snd).sum ≠ 256) : s.fwApply = { s with mmio := { s.mmio with bad := true } } := by
  refine if_neg ?_
  rwa [List.sum_eq_foldl, List.foldl_map] at h

-- Registers of the map (R373).

/-- The core share of R345 as a register write leaves it. -/
theorem exec_shareWrite (s : State) (v : BitVec 64) {core : Nat} (h : core < 768) :
    exec (.registerWrite (0x200000 + 4 * core) v) s = .next (s.updCore core (fun c =>
      { c with share := BitVec.ofNat 32 (min (v.toNat % 32) 16 + min (v.toNat / 256 % 32) 16 * 256) })) := by
  have hnarrow : mmioNarrow (0x200000 + 4 * core) = true := by
    simp only [mmioNarrow, Bool.or_eq_true, Bool.and_eq_true, decide_eq_true_eq]
    omega
  have hoff : (0x200000 + 4 * core) / 4 * 4 = 0x200000 + 4 * core := by omega
  have hshare : shareOf (v.toNat % 2 ^ 32) = BitVec.ofNat 32 (min (v.toNat % 32) 16 + min (v.toNat / 256 % 32) 16 * 256) := by
    have h1 : bits (v.toNat % 2 ^ 32) 4 0 = v.toNat % 32 := by rw [bits_eq]; omega
    have h2 : bits (v.toNat % 2 ^ 32) 12 8 = v.toNat / 256 % 32 := by rw [bits_eq]; omega
    rw [shareOf, h1, h2]
  rw [← hshare]
  refine congrArg Host.Outcome.next ((if_pos hnarrow).trans ?_)
  rw [hoff]
  unfold State.setMmio4
  rw [if_neg (by simp; omega), if_neg (by omega), if_pos (by simp; omega)]
  rw [Nat.add_sub_cancel_left, Nat.mul_div_cancel_left core (by decide)]

/-- A register of 8 bytes takes the value whole. -/
theorem exec_wideWrite (s : State) (v : BitVec 64) {o : Nat} (h : o % 8 = 0) (hn : mmioNarrow o = false) :
    exec (.registerWrite o v) s = .next (s.setMmio8 o v.toNat) := by
  refine congrArg Host.Outcome.next ((if_neg (by simp [hn])).trans ?_)
  rw [Nat.div_mul_cancel (Nat.dvd_of_mod_eq_zero h)]

theorem exec_qtbaseWrite (s : State) (v : BitVec 64) : exec (.registerWrite 0x20000 v) s =
    .next { s with mmio := { s.mmio with qtbase := BitVec.ofNat 64 (v.toNat / 128 * 128) } } :=
  (exec_wideWrite s v (by norm_num) (by decide)).trans (by simp [State.setMmio8])

theorem exec_ctbaseWrite (s : State) (v : BitVec 64) : exec (.registerWrite 0x20008 v) s =
    .next { s with mmio := { s.mmio with ctbase := BitVec.ofNat 64 (v.toNat / 512 * 512) } } :=
  (exec_wideWrite s v (by norm_num) (by decide)).trans (by simp [State.setMmio8])

theorem exec_tdbaseWrite (s : State) (v : BitVec 64) : exec (.registerWrite 0x500000 v) s =
    .next { s with mmio := { s.mmio with tdbase := BitVec.ofNat 64 (v.toNat / 2 ^ 31 * 2 ^ 31) } } :=
  (exec_wideWrite s v (by norm_num) (by decide)).trans (by simp [State.setMmio8])

theorem execCtload_sound {s : State} {n : Nat} (hn : n < 2048)
    (h : ∀ e ∈ s.links.poison, ¬ (s.local (s.mmio.ctbase.toNat + 512 * n) / 64 ≤ e.1 ∧ e.1 * 64 < s.local (s.mmio.ctbase.toNat + 512 * n) + 512)) :
    exec (.ctload n) s = .next { s with ctxs := FMap.set s.ctxs n (s.recordCtx n) } := congrArg Host.Outcome.next (State.loadCtx_sound hn h)

/-- A die changed: it is as the change makes it, and the others stand. -/
theorem State.updDie_only (s : State) (die : Nat) (f : DieSt → DieSt) :
    (s.updDie die f).die die = f (s.die die) ∧ ∀ d, d ≠ die → (s.updDie die f).die d = s.die d :=
  ⟨State.die_updDie_self s die f, fun d hd => (State.die_updDie s die d f).trans (if_neg hd)⟩

/-- Settles O51: a load of a context is `recordCtx`, whose registers hold what their own writes leave; the other events change one register each. -/
theorem registerEvents : Obligations.RegisterEvents := by
  intro s n die v w
  refine ⟨fun hn hsound => ⟨_, execCtload_sound hn hsound, ?_⟩,
    ⟨fun h => ⟨_, rfl, State.fwApply_good h⟩, fun h => congrArg Host.Outcome.next (State.fwApply_bad h)⟩, rfl, rfl,
    ⟨_, rfl, State.updDie_only s die _⟩, ⟨_, rfl, State.updDie_only s die _⟩,
    exec_qtbaseWrite s v, exec_ctbaseWrite s v, exec_tdbaseWrite s v, fun core => exec_shareWrite s v⟩
  have hctx : State.ctx { s with ctxs := FMap.set s.ctxs n (s.recordCtx n) } n = s.recordCtx n := FMap.getD_set_self _ _ _ _
  intro a
  rw [hctx, ← State.recordWord_first]
  exact ⟨rfl, rfl, rfl, rfl, fun r o h => State.recordSr_read (mem_recordRegs h) _, rfl, fun m hm => FMap.getD_set_ne _ _ _ hm⟩

end Sys2Proof.Machine

namespace Sys2Proof.Machine

open Sys2Proof Sys2Proof.Said

-- What a trap taken by one thread leaves of its team (R359, R360).

/-- Region and end of a thread stand as they were, and one in its trap handler stays there. -/
structure Thread.Stands (a b : Thread) : Prop where
  region : b.region = a.region
  exited : b.exited = a.exited
  hm : a.hm = true → b.hm = true

theorem Thread.Stands.refl (a : Thread) : a.Stands a := ⟨rfl, rfl, id⟩

theorem Thread.Stands.trans {a b c : Thread} (h : a.Stands b) (k : b.Stands c) : a.Stands c :=
  ⟨k.region.trans h.region, k.exited.trans h.exited, fun e => k.hm (h.hm e)⟩

theorem Thread.Stands.of_same {a b : Thread} (h : SameThread a b) : a.Stands b := by
  have hhm := congrArg Thread.hm h
  exact ⟨h.regionFields.1, h.exited, fun e => hhm.trans e⟩

/-- A team lives on as it did, each of its threads stands, and no group comes where there was none. -/
structure Team.Stands (a b : Team) : Prop where
  life : b.life = a.life
  length : b.threads.length = a.threads.length
  thread : ∀ tid, (a.thread tid).Stands (b.thread tid)
  groups : a.groups = [] → b.groups = []

theorem Team.Stands.trans {a b c : Team} (h : a.Stands b) (k : b.Stands c) : a.Stands c :=
  ⟨k.life.trans h.life, k.length.trans h.length, fun tid => (h.thread tid).trans (k.thread tid), fun e => k.groups (h.groups e)⟩

/-- The same life and the same threads. -/
theorem Team.Stands.of_threads {a b : Team} (hl : b.life = a.life) (ht : b.threads = a.threads) (hg : a.groups = [] → b.groups = []) : a.Stands b := by
  refine ⟨hl, congrArg List.length ht, fun tid => ?_, hg⟩
  rw [Team.thread, Team.thread, ht]
  exact .refl _

theorem Team.Stands.refl (a : Team) : a.Stands a := .of_threads rfl rfl id

theorem Team.Stands.updThread (a : Team) (tid : Nat) {f : Thread → Thread} (hf : ∀ th : Thread, th.Stands (f th)) : a.Stands (a.updThread tid f) := by
  refine ⟨rfl, Team.length_updThread a tid f, fun i => ?_, id⟩
  rw [Team.thread_updThread]
  split
  · next h => exact h.1 ▸ hf _
  · exact .refl _

theorem Team.life_setReg (a : Team) (tid : Nat) (r : Reg) (x : DWord) : (a.setReg tid r x).life = a.life := by cases r <;> rfl

theorem Team.Stands.setReg (a : Team) (tid : Nat) (r : Reg) (x : DWord) : a.Stands (a.setReg tid r x) :=
  ⟨a.life_setReg tid r x, a.length_setReg tid r x, fun i => .of_same ((SameTeam.setReg a tid r x).2.2 i), fun h => (a.groups_setReg tid r x).trans h⟩

theorem Team.Stands.setOwed (a : Team) (tid : Nat) (r : Reg) (x : DWord) : a.Stands (a.setOwed tid r x) := by
  unfold Team.setOwed
  dsimp only
  have hnoted : a.Stands { a with groups := a.groups.map (fun (e : Nat × Group) => (e.1, e.2.note tid r (a.reg tid r))) } :=
    .of_threads rfl rfl fun h => by simp [h]
  split
  · exact hnoted.trans (.setReg _ tid r x)
  · split
    · exact (hnoted.trans (.setReg _ tid r x)).trans (.of_threads rfl rfl id)
    · exact (hnoted.trans (.setReg _ tid r x)).trans (.updThread _ tid fun _ => Thread.Stands.mk rfl rfl id)

theorem Team.Stands.writeWb (a : Team) (now : Nat) (w : Wb) : a.Stands (a.writeWb now w) := by
  unfold Team.writeWb
  split
  · exact .refl a
  · dsimp only
    split
    · exact .of_threads rfl rfl id
    · exact Team.Stands.trans (b := { a with wbs := a.wbs.filter (fun o => o.id != w.id || o.reg != w.reg) }.flag now 0 w.fl)
        (.of_threads rfl rfl id) (.setOwed _ _ _ _)

theorem Team.Stands.flush (a : Team) (now tid : Nat) : a.Stands (a.flush now tid) := by
  refine List.foldlRecOn (motive := fun b : Team => a.Stands b) _ _ (.refl a) fun b hb w _ => ?_
  split
  · exact hb
  · exact hb.trans (.writeWb b now w)

theorem Team.Stands.leave (a : Team) (tid : Nat) : a.Stands (a.leave tid) := .of_threads rfl rfl fun h => by simp [Team.leave, h]

/-- Some change that keeps the team as it stands, or none. -/
theorem Team.Stands.ite {a b : Team} {p : Prop} [Decidable p] (h : a.Stands b) : a.Stands (if p then b else a) := by
  split
  · exact h
  · exact .refl a

theorem Team.Stands.deliver (a : Team) (tid : Nat) (epc : DWord) (ecause : BitVec 32) (eva : DWord) : a.Stands (a.deliver tid epc ecause eva) := by
  have hpair (b : Team) (n : Nat) (x : DWord) :
      b.Stands (if n + 1 < b.tr.regs then (b.setReg tid (.v n) (x &&& 0xFFFFFFFF)).setReg tid (.v (n + 1)) (x >>> 32) else b) :=
    .ite ((Team.Stands.setReg b _ _ _).trans (.setReg _ _ _ _))
  unfold Team.deliver
  dsimp only
  split
  · exact .refl a
  · exact ((hpair a (bits a.eff.sr.tdel.toNat 6 0) epc).trans (.ite (.setReg _ _ _ _))).trans (hpair _ _ eva)

/-- A team of which one thread has taken a trap that its handler serves. -/
def Team.entered (tm : Team) (now tid : Nat) (va epc : DWord) (ecause : BitVec 32) (eva : DWord) (mid : Option Mid) : Team :=
  ((tm.flush now tid).leave tid |>.updThread tid (fun th => { (th.trapped va epc ecause eva mid) with due := now + 1 })).deliver tid epc ecause eva

theorem Team.Stands.entered (a : Team) (now tid : Nat) (va epc : DWord) (ecause : BitVec 32) (eva : DWord) (mid : Option Mid) :
    a.Stands (a.entered now tid va epc ecause eva mid) := by
  have htrapped (th : Thread) : th.Stands { (th.trapped va epc ecause eva mid) with due := now + 1 } := ⟨rfl, rfl, fun _ => rfl⟩
  exact (((Team.Stands.flush a now tid).trans (.leave _ tid)).trans (.updThread _ tid htrapped)).trans (.deliver _ tid epc ecause eva)

-- A team fault (R361).

/-- No thread of a team is in a region. -/
def Team.Outside (tm : Team) : Prop := ∀ tid, (tm.thread tid).region = none

/-- A team has taken a fault: none of its threads issues again. -/
structure Team.Stopped (tm : Team) : Prop where
  life : tm.life = .faulted
  groups : tm.groups = []
  exited : ∀ tid, tid < tm.threads.length → (tm.thread tid).exited = true

theorem Team.Stands.outside {a b : Team} (h : a.Stands b) (ha : a.Outside) : b.Outside := fun tid => (h.thread tid).region.trans (ha tid)

theorem Team.Stands.stopped {a b : Team} (h : a.Stands b) (ha : a.Stopped) : b.Stopped :=
  ⟨h.life.trans ha.life, h.groups ha.groups, fun tid hl => (h.thread tid).exited.trans (ha.exited tid (h.length ▸ hl))⟩

theorem State.dropRegions_outside {s : State} {t : Nat} {tm : Team} (ht : s.team? t = some tm) (h : tm.Outside) : s.dropRegions t = s := by
  unfold State.dropRegions
  simp only [ht, h _, Option.any_none, Bool.false_eq_true, if_false]
  exact List.foldl_fixed _

/-- A team whose threads have all stopped, by a fault. -/
def Team.stop (tm : Team) : Team :=
  { tm with life := .faulted, groups := [], threads := tm.threads.map (fun th => { th with exited := true, held := false }) }

theorem Team.thread_stop (tm : Team) (tid : Nat) :
    (tm.stop.thread tid).region = (tm.thread tid).region ∧ (tid < tm.threads.length → (tm.stop.thread tid).exited = true) := by
  simp only [Team.thread, Team.stop, List.getElem?_map]
  by_cases hl : tid < tm.threads.length <;> simp [hl]

theorem Team.stopped_stop (tm : Team) : tm.stop.Stopped :=
  ⟨rfl, rfl, fun tid hl => (tm.thread_stop tid).2 (by simpa [Team.stop] using hl)⟩

/-- The FGETs of a team and what they owe go. -/
theorem State.dropFutures_team (s : State) (t : Nat) : ∃ f : Team → Team, (s.dropFutures t).team? t = (s.team? t).map f ∧ ∀ tm, (f tm).threads = tm.threads :=
  ⟨_, State.team?_updTeam_self _ t _, fun _ => rfl⟩

theorem State.teamFault_stops {s : State} {t : Nat} {tm : Team} (ht : s.team? t = some tm) (h : tm.Outside) :
    ∃ tm', (s.teamFault t).team? t = some tm' ∧ tm'.Outside ∧ tm'.Stopped := by
  obtain ⟨s1, horphan, hteams⟩ := State.orphanChecks_eq (List.range tm.threads.length) ht
  have ht1 : s1.team? t = some tm := (congrArg (FMap.get? · t) hteams).trans ht
  obtain ⟨f, hf, hthreads⟩ := (s.orphanChecks t (List.range tm.threads.length)).dropFutures_team t
  let unchecked : Team := (List.range tm.threads.length).foldl (fun tm tid => tm.updThread tid Thread.unchecked) tm
  have hteam : (s.teamFault t).team? t = some (f unchecked).stop := by
    unfold State.teamFault
    simp only [ht, State.dropRegions_outside ht h]
    rw [State.team?_updTeam_self, hf, horphan, State.team?_updTeam_self, ht1]
    rfl
  refine ⟨_, hteam, fun tid => ?_, Team.stopped_stop _⟩
  have hregion : (unchecked.thread tid).region = (tm.thread tid).region :=
    Team.foldUpd_rel (fun a b => b.region = a.region) (fun _ => rfl) (fun _ _ _ h k => k.trans h) _ (fun _ => Thread.unchecked) (fun _ _ => rfl) tm tid
  rw [(Team.thread_stop _ tid).1, Team.thread, hthreads]
  exact hregion.trans (h tid)

-- The trap of one thread outside a region: a fault of its team, or its handler's (R359-R361).

theorem State.teams_routeCode (s : State) (tm : Team) (va : DWord) : (s.routeCode tm va).teams = s.teams := by
  unfold State.routeCode State.noRoute
  split
  · split
    · exact (Reported.contextMc s _ _ _ _).teams
    · rfl
  · rfl

theorem State.teams_observed (s : State) (t tid : Nat) : (s.observed t tid).teams = s.teams := by
  unfold State.observed
  split
  · rfl
  · split <;> rfl

/-- No handler serves a trap of the thread. -/
def State.unserved (s : State) (tm : Team) (tid : Nat) : Prop :=
  tm.eff.sr.tvec.getLsbD 0 = false ∨ (tm.thread tid).hm = true ∨ s.headerAt tm.xlat (tm.eff.sr.tvec &&& ~~~ 1) = false

section

variable {s : State} {t tid : Nat} {tm : Team} (ht : s.team? t = some tm) (hr : (tm.thread tid).region = none) (tr : Trap) (epc : DWord) (mid : Option Mid)

include ht hr

theorem State.enterTrap_unserved (h : s.unserved tm tid) : ∃ s1 : State, s1.teams = s.teams ∧ s.enterTrap t tid tr epc mid = s1.teamFault t := by
  unfold State.enterTrap
  simp only [ht, hr, Option.isSome_none, Bool.false_and, Bool.false_eq_true, if_false]
  by_cases hnone : ((tm.thread tid).hm || !tm.eff.sr.tvec.getLsbD 0) = true
  · exact ⟨s, rfl, if_pos hnone⟩
  · obtain ⟨hhm, htvec⟩ : (tm.thread tid).hm = false ∧ tm.eff.sr.tvec.getLsbD 0 = true := by simpa using hnone
    have hhdr := (h.resolve_left (ne_false_of_eq_true htvec)).resolve_left (ne_true_of_eq_false hhm)
    exact ⟨_, s.teams_routeCode tm _, (if_neg hnone).trans (if_pos (by rw [hhdr]; rfl))⟩

theorem State.enterTrap_served (h : ¬ s.unserved tm tid) :
    ∃ (s1 : State) (f : Team → Team), s1.teams = s.teams ∧ s.enterTrap t tid tr epc mid = s1.updTeam t f ∧ ∀ tm : Team, tm.Stands (f tm) := by
  obtain ⟨htvec, hhm, hhdr⟩ : tm.eff.sr.tvec.getLsbD 0 = true ∧ (tm.thread tid).hm = false ∧ s.headerAt tm.xlat (tm.eff.sr.tvec &&& ~~~ 1) = true := by
    simpa [State.unserved] using h
  unfold State.enterTrap
  simp only [ht, hr, Option.isSome_none, Bool.false_and, Bool.false_eq_true, if_false, htvec, hhm, hhdr, Bool.not_true, Bool.or_self]
  exact ⟨s.observed t tid, fun tm' => tm'.entered _ tid _ _ _ _ _, s.teams_observed t tid, rfl, fun tm' => .entered tm' _ tid _ _ _ _ _⟩

theorem State.enterTrap_stops (ho : tm.Outside) (h : s.unserved tm tid) :
    ∃ tm', (s.enterTrap t tid tr epc mid).team? t = some tm' ∧ tm'.Outside ∧ tm'.Stopped := by
  obtain ⟨s1, hteams, heq⟩ := State.enterTrap_unserved ht hr tr epc mid h
  rw [heq]
  exact State.teamFault_stops ((congrArg (FMap.get? · t) hteams).trans ht) ho

theorem State.enterTrap_stands (h : ¬ s.unserved tm tid) : ∃ tm', (s.enterTrap t tid tr epc mid).team? t = some tm' ∧ tm.Stands tm' := by
  obtain ⟨s1, f, hteams, heq, hf⟩ := State.enterTrap_served ht hr tr epc mid h
  have ht1 : s1.team? t = some tm := (congrArg (FMap.get? · t) hteams).trans ht
  exact ⟨f tm, by rw [heq, State.team?_updTeam_self, ht1, Option.map_some], hf tm⟩

end

-- The traps of several threads, one after another.

/-- A team stops at the latest when these threads have trapped: it has stopped, or one of them is in its trap handler. -/
structure Team.Stopping (tm : Team) (tids : List Nat) : Prop where
  outside : tm.Outside
  stops : tm.Stopped ∨ ∃ tid ∈ tids, (tm.thread tid).hm = true

theorem State.enterTrap_stopping {s : State} {t tid : Nat} {tids : List Nat} {tm : Team} (ht : s.team? t = some tm) (h : tm.Stopping (tid :: tids))
    (tr : Trap) (epc : DWord) (mid : Option Mid) : ∃ tm', (s.enterTrap t tid tr epc mid).team? t = some tm' ∧ tm'.Stopping tids := by
  by_cases hun : s.unserved tm tid
  · obtain ⟨tm', ht', ho, hs⟩ := State.enterTrap_stops ht (h.outside tid) tr epc mid h.outside hun
    exact ⟨tm', ht', ho, .inl hs⟩
  · obtain ⟨tm', ht', hstands⟩ := State.enterTrap_stands ht (h.outside tid) tr epc mid hun
    refine ⟨tm', ht', hstands.outside h.outside, ?_⟩
    rcases h.stops with hs | ⟨i, hi, hhm⟩
    · exact .inl (hstands.stopped hs)
    · have hne : i ≠ tid := fun e => hun (.inr (.inl (e ▸ hhm)))
      exact .inr ⟨i, (List.mem_cons.mp hi).resolve_left hne, (hstands.thread i).hm hhm⟩

theorem State.enterTraps_stop {t : Nat} {epc : DWord} {mid : State → Nat × Trap → Option Mid} (l : List (Nat × Trap)) {s : State} {tm : Team}
    (ht : s.team? t = some tm) (h : tm.Stopping (l.map Prod.fst)) :
    ∃ tm', (l.foldl (fun s x => s.enterTrap t x.1 x.2 epc (mid s x)) s).team? t = some tm' ∧ tm'.Stopped := by
  induction l generalizing s tm with
  | nil => exact ⟨tm, ht, h.stops.resolve_right (by simp)⟩
  | cons x l ih =>
    obtain ⟨tm', ht', h'⟩ := State.enterTrap_stopping ht h x.2 epc (mid s x)
    exact ih ht' h'

/-- Threads that trap, of which the first one is unserved, or one is in its trap handler, stop their team. -/
theorem State.trapEach_stops {s : State} {t gid : Nat} {tm : Team} {g : Group} (ht : s.team? t = some tm) (hg : FMap.get? tm.groups gid = some g)
    (ho : tm.Outside) (skip : Nat) (x : Nat × Trap) (l : List (Nat × Trap))
    (h : s.unserved tm x.1 ∨ ∃ tid ∈ (x :: l).map Prod.fst, (tm.thread tid).hm = true) :
    ∃ tm', (s.trapEach t gid skip (x :: l)).team? t = some tm' ∧ tm'.Stopped := by
  unfold State.trapEach
  simp only [ht, hg]
  rcases h with h | h
  · obtain ⟨tm', ht', ho', hs⟩ := State.enterTrap_stops ht (ho x.1) x.2 g.addr _ ho h
    exact State.enterTraps_stop l ht' ⟨ho', .inl hs⟩
  · exact State.enterTraps_stop (x :: l) ht ⟨ho, .inr h⟩

theorem State.trapThreads_free {s : State} {t gid : Nat} {tm : Team} (ht : s.team? t = some tm) (skip : Nat) {l : List (Nat × Trap)}
    (howes : ∀ x ∈ l, tm.owes x.1 = false) (hwait : s.handlerWait tm = none) :
    s.trapThreads t gid skip l = (s.issued t).trapEach t gid skip l := by
  have hfree : s.trapWait t gid tm (l.map Prod.fst) = none := by
    have : (l.map Prod.fst).any tm.owes = false := by simpa using howes
    simp [State.trapWait, this, hwait]
  unfold State.trapThreads
  simp only [ht, hfree]

/-- TRAP and BKPT: every thread of the group takes the same trap. -/
theorem exec_trap_bkpt {i : Instr} {st : BitVec 2} {n : BitVec 21} (hi : i = .trap st n ∨ i = .bkpt st n) {s : State} {c : Iss} (h : Ready s c {}) :
    ∃ (skip : Nat) (tr : Trap), exec i s = .next (s.trapThreads c.t c.gid skip (c.g.tids.map (fun tid => (tid, tr)))) := by
  rcases hi with rfl | rfl
  · exact ⟨1, { cause := 8, info := n.toNat }, (exec_of_gate rfl h).trans rfl⟩
  · exact ⟨0, { cause := 9, info := n.toNat }, (exec_of_gate rfl h).trans rfl⟩

theorem Team.outside_of_threads {tm : Team} (h : ∀ th ∈ tm.threads, th.region = none) : tm.Outside := by
  intro tid
  unfold Team.thread
  cases hth : tm.threads[tid]? with
  | none => rfl
  | some th => exact h th (List.mem_of_getElem? hth)

/-- Settles O9: the first thread that no handler serves faults the team, and the traps of the others leave it so. -/
theorem trapFaultsTeam : Obligations.TrapFaultsTeam := by
  intro i st n s c hi h hne hregion howes hwait hcase
  obtain ⟨-, ht, hg⟩ := State.iss_eq h.iss
  obtain ⟨skip, tr, hexec⟩ := exec_trap_bkpt hi h
  obtain ⟨tid, tids, htids⟩ := List.exists_cons_of_ne_nil hne
  rw [State.trapThreads_free ht skip (by simpa using howes) hwait, htids] at hexec
  let tm1 : Team := { c.tm with ret := min (c.tm.ret + 1) (2 ^ 32 - 1) }
  have ht1 : (s.issued c.t).team? c.t = some tm1 := (State.team?_updTeam_self _ c.t _).trans (congrArg _ ht)
  have hunserved : (s.issued c.t).unserved tm1 tid ∨ ∃ i ∈ ((tid :: tids).map (fun i => (i, tr))).map Prod.fst, (tm1.thread i).hm = true := by
    rcases hcase with hoff | ⟨i, hi, hhm⟩ | hhdr
    · exact .inl (.inl hoff)
    · exact .inr ⟨i, by simpa [htids] using hi, hhm⟩
    · exact .inl (.inr (.inr hhdr))
  obtain ⟨tm', ht', hs⟩ := State.trapEach_stops (gid := c.gid) ht1 hg (Team.outside_of_threads hregion) skip (tid, tr) (tids.map (fun i => (i, tr))) hunserved
  exact ⟨_, tm', hexec, ht', hs.life, hs.groups, hs.exited⟩

end Sys2Proof.Machine

namespace Sys2Proof.Machine

open Sys2Proof Sys2Proof.Said

-- ERET.skip into a run whose page has no route (R363, R387).

/-- A thread at the first instruction of a run at 0x2000. -/
def returnGroup : Group := { tids := [0], hdr := 0x2000, next := 0x200C, body := [0, 0], trl := none, chk := false }

/-- It is in its trap handler; its record names the run whose header is at 0x1000. -/
def returnTeam : Team :=
  { lastWordTeam with
    threads := [{ pc := 0x2000, npc := 0x200C, hm := true, epc := 0x1000, trMid := some ⟨0x1000, 0, [], 0⟩ }], groups := [(0, returnGroup)] }

/-- That page is page 0 of package 1, to which this package has no route. -/
def unroutedReturn : State := { unroutedRun with teams := [(0, returnTeam)] }

def returnIss : Iss := ⟨0, returnTeam, 0, returnGroup⟩

theorem unroutedReturn_ready : Ready unroutedReturn returnIss {} := ⟨rfl, by decide, by decide, by decide, by decide⟩

/-- Its record can be read, and nothing of it is waited for. -/
theorem unroutedReturn_readable : ∀ tid ∈ returnGroup.tids, ((returnTeam.thread tid).hm = true ∨ (returnTeam.thread tid).rr = true) ∧
    unroutedReturn.blockError returnIss tid = none ∧ (true = true → unroutedReturn.skipWait returnTeam tid = none) := by decide +kernel

/-- The look at the run's length raises the machine check of the page without a route. -/
theorem reports_unroutedReturn : reports (exec (.eretSkip 0) unroutedReturn) = [(0, 0, 2 ^ 44)] := by decide +kernel

/-- Refutes O10: of ERET.skip it does not ask, as O7 does of a legal run, that the page of the run's header is reached. In `unroutedReturn` that page has
no route; the instruction reads the header there for the run's length (R363), which raises the machine check of R387, and so the machine is not as it
was. The statement is about every state; that a run reaches this one is not claimed. -/
theorem not_eretReturns : ¬ Obligations.EretReturns := by
  intro h
  obtain ⟨s', tm, hexec, hmachine, -⟩ := (h 0 true unroutedReturn returnIss unroutedReturn_ready (.inr rfl) (by decide) (by decide)).1 unroutedReturn_readable
  have hraised : s'.mmio.mcr = [(0, 0, 2 ^ 44)] := (congrArg reports hexec).symm.trans reports_unroutedReturn
  have hkept : s'.mmio.mcr = [] := (congrArg (fun s : State => s.mmio.mcr) hmachine :)
  exact absurd (hkept.symm.trans hraised) (by decide)

end Sys2Proof.Machine

namespace Sys2Proof.Machine

open Sys2Proof Sys2Proof.Said

-- Some threads of a group trap (R17, R227).

/-- Of an instruction that comes to a split of its group, which it does again in what the traps leave, some threads trap and the others go on. -/
theorem trapsSome_split {i : Instr} {s : State} {c : Iss} {f : Nat → Option Trap} {k : State → Iss → State} {bad : List (Nat × Trap)}
    {rest : State → Iss → Prop} (hexec : exec i s = .next (s.splitTraps c f k))
    (hbad : c.g.tids.filterMap (fun tid => (f tid).map (fun tr => (tid, tr))) = bad) (hne : bad ≠ [])
    (hrest : ∀ s' c', rest s' c' → exec i s' = .next (k s' c')) : trapsSome i s c bad rest := by
  have hsome : bad.isEmpty = false := by simpa using hne
  refine ⟨fun w hw => ?_, fun hw => ⟨fun hnone => ?_, fun c' hc' h' => ?_⟩⟩
  · simp [hexec, State.splitTraps, hbad, hsome, hw]
  · simp [hexec, State.splitTraps, hbad, hsome, hw, hnone]
  · simp [hexec, State.splitTraps, hbad, hsome, hw, hc', hrest _ _ h']

-- YIELD (R368).

/-- The trap of a thread that may not yield. -/
def Thread.yieldTrap (th : Thread) : Option Trap := if !th.sent || th.yielded then some .illegal else none

/-- A thread whose part in the yield handler has ended. -/
def Thread.yields (th : Thread) : Thread := { th with yielded := true }

theorem Thread.reg_yields (th : Thread) (tid : Nat) (r : Reg) : th.yields.reg tid r = th.reg tid r := by cases r <;> rfl

/-- The threads of a group yield, and the group moves on. -/
def State.yieldAll (gap : Nat) (s : State) (c : Iss) : State :=
  (s.updTeam c.t (fun tm => c.g.tids.foldl (fun tm tid => tm.updThread tid Thread.yields) tm)).advance c.t c.gid gap

/-- Behind its gate YIELD splits the group by who may yield. -/
theorem exec_yield {st : BitVec 2} {s : State} {c : Iss} (h : Apart s c {}) :
    exec (.yield st) s = .next (s.splitTraps c (fun tid => (c.tm.thread tid).yieldTrap) (State.yieldAll (gapOf st))) :=
  congrArg Host.Outcome.next (h.forbiddenFree _)

theorem exec_yield_all {st : BitVec 2} {s : State} {c : Iss} (h : Apart s c {})
    (hsent : ∀ tid ∈ c.g.tids, (c.tm.thread tid).sent = true ∧ (c.tm.thread tid).yielded = false) :
    exec (.yield st) s = .next (s.yieldAll (gapOf st) c) := by
  refine (exec_yield h).trans (congrArg _ (State.splitTraps_none (fun tid htid => ?_) _))
  obtain ⟨hs, hy⟩ := hsent tid htid
  simp [Thread.yieldTrap, hs, hy]

theorem SameThread.yielded {a b : Thread} (h : SameThread a b) : b.yielded = a.yielded := (congrArg Thread.yielded h :)

theorem yield_ends {s : State} {c : Iss} (gap : Nat) (hi : s.iss = some c) (he : c.endsWell) :
    SameMachine s (s.yieldAll gap c) ∧ SameOthers s (s.yieldAll gap c) c.t ∧ ∃ tm, (s.yieldAll gap c).team? c.t = some tm ∧
      (∀ tid ∈ c.g.tids, tid < c.tm.threads.length → (tm.thread tid).yielded = true) ∧
      (∀ tid, tid ∉ c.g.tids → tm.thread tid = c.tm.thread tid) ∧ (∀ tid r, (r.isT = true → c.goesOn) → tm.reg tid r = c.tm.reg tid r) := by
  obtain ⟨-, ht, hg⟩ := State.iss_eq hi
  obtain ⟨hm, ho, tm, htm, hregs, hmoved, -⟩ := State.advance_after gap (fun tm => c.g.tids.foldl (fun tm tid => tm.updThread tid Thread.yields) tm)
    ht hg he (Team.foldUpd_fields _ (fun _ => Thread.yields) _).2.1
  refine ⟨hm, ho, tm, htm, fun tid htid hlen => ?_, fun tid htid => ?_, fun tid r hr => ?_⟩
  · rw [(hregs.team.2.2 tid).yielded, Team.thread_foldUpd c.g.tids (fun _ => Thread.yields) (fun _ _ => rfl) c.tm hlen, if_pos htid]
    rfl
  · exact (hmoved.others tid htid).trans (Team.foldUpd_other c.g.tids (fun _ => Thread.yields) c.tm tid htid)
  · exact (hregs.reg tid r hr).trans (Team.foldUpd_reg c.g.tids (fun _ => Thread.yields) c.tm tid r fun _ th => th.reg_yields tid r)

/-- The threads that may not yield, each with its trap. -/
theorem yieldTraps_eq (tm : Team) (tids : List Nat) : tids.filterMap (fun tid => ((tm.thread tid).yieldTrap).map (fun tr => (tid, tr))) =
    (tids.filter (fun tid => !(tm.thread tid).sent || (tm.thread tid).yielded)).map (fun tid => (tid, Trap.illegal)) := by
  induction tids with
  | nil => rfl
  | cons tid tids ih =>
    rw [List.filterMap_cons, ih, List.filter_cons, Thread.yieldTrap]
    cases !(tm.thread tid).sent || (tm.thread tid).yielded <;> rfl

/-- Settles O11: behind its gate YIELD splits the group, and each thread that is left ends its part. -/
theorem yieldEnds : Obligations.YieldEnds := by
  intro st s c h he
  refine ⟨fun hsent => ?_, fun ⟨tid, htid, hbad⟩ => ?_⟩
  · obtain ⟨hm, ho, tm, htm, hends⟩ := yield_ends (gapOf st) h.iss he
    exact ⟨_, tm, exec_yield_all h hsent, hm, ho, htm, hends⟩
  · refine trapsSome_split (exec_yield h) (yieldTraps_eq c.tm c.g.tids) (fun hnil => ?_) fun s' c' ⟨h', hsent⟩ => exec_yield_all h' hsent
    have hgone := List.filter_eq_nil_iff.mp (List.map_eq_nil_iff.mp hnil) tid htid
    rcases hbad with hbad | hbad <;> simp [hbad] at hgone

end Sys2Proof.Machine

namespace Sys2Proof

theorem FMap.rising_filter {α : Type} (m : FMap α) (p : Nat × α → Bool) (h : FMap.rising m = true) : FMap.rising (m.filter p) = true := by
  induction m with
  | nil => exact h
  | cons e m ih =>
    obtain ⟨k, a⟩ := e
    obtain ⟨hk, hm⟩ := (FMap.rising_cons k a m).mp h
    rw [List.filter_cons]
    split
    · exact (FMap.rising_cons k a _).mpr ⟨fun e he => hk e (List.mem_filter.mp he).1, ih hm⟩
    · exact ih hm

end Sys2Proof

namespace Sys2Proof.Machine

section
open Sys2Proof
set_option Elab.async false
variable {s : State}

/-!
WHAT KEEPS MEMORY CANONICAL (log 1): one rule per function of the model, in the order of their definitions. `f_mem` says that `f` leaves memory as it
is; `f_wf` says that `f` keeps it canonical. A later rule cites the rules of the functions that its own definition calls, and a function with a
continuation asks the same of the continuation. No rule rests on arithmetic, so the arithmetic solvers of `grind` are off, which halves the time. This
part: addresses, faults, interrupts, home units and D-lines.
-/

theorem foldl_invariant {α β : Type} {P : β → Prop} {f : β → α → β} {b : β} (h : P b) (hf : ∀ b a, P b → P (f b a)) (l : List α) :
    P (l.foldl f b) := by
  induction l generalizing b with
  | nil => exact h
  | cons a l ih => exact ih (hf b a h)

theorem foldl_wf {α : Type} {f : State → α → State} {s : State} (h : s.mem.wf = true) (hf : ∀ s a, s.mem.wf = true → (f s a).mem.wf = true)
    (l : List α) : (l.foldl f s).mem.wf = true := foldl_invariant (P := fun s : State => s.mem.wf = true) h hf l

theorem foldl_mem {α : Type} {f : State → α → State} (hf : ∀ s a, (f s a).mem = s.mem) (l : List α) (s : State) : (l.foldl f s).mem = s.mem :=
  foldl_invariant (P := fun s' : State => s'.mem = s.mem) rfl (fun _ _ h => (hf _ _).trans h) l

@[simp] theorem State.fillTlb_mem (s : State) (x : Xlat) (va : DWord) (e : Nat) : (s.fillTlb x va e).mem = s.mem := by
  unfold State.fillTlb
  grind -ring -linarith

@[simp] theorem State.askGrant_mem (s : State) (pa : Nat) (write : Bool) : (s.askGrant pa write).mem = s.mem := by
  unfold State.askGrant
  grind -ring -linarith

@[simp] theorem State.dropRegion_mem (s : State) (t tid : Nat) : (s.dropRegion t tid).mem = s.mem := by
  unfold State.dropRegion
  grind -ring -linarith [State.updTeam_mem]

@[simp] theorem State.acquire_mem (s : State) (core : Nat) : (s.acquire core).mem = s.mem := by
  unfold State.acquire
  grind -ring -linarith [State.updCore_mem]

theorem State.ringEntry_wf (h : s.mem.wf = true) (d kind vector ctx setid : Nat) : (s.ringEntry d kind vector ctx setid).1.mem.wf = true := by
  unfold State.ringEntry
  grind -ring -linarith [State.updDie_mem, Memory.wf_storeNum]

theorem State.interrupt_wf (h : s.mem.wf = true) (d kind vector ctx setid : Nat) : (s.interrupt d kind vector ctx setid).mem.wf = true := by
  unfold State.interrupt
  grind -ring -linarith [State.ringEntry_wf]

theorem State.contextMc_wf (h : s.mem.wf = true) (d str ctx pa : Nat) : (s.contextMc d str ctx pa).mem.wf = true := by
  unfold State.contextMc
  grind -ring -linarith [State.interrupt_wf]

theorem State.recode_wf (h : s.mem.wf = true) (ctx pa n op : Nat) : (s.recode ctx pa n op).mem.wf = true := by
  unfold State.recode
  grind -ring -linarith [foldl_wf, State.contextMc_wf]

theorem State.recode_store_wf (h : s.mem.wf = true) (a n x ctx : Nat) : ({ s with mem := s.mem.storeNum a n x }.recode ctx a n).mem.wf = true := by
  have hm := Memory.wf_storeNum s.mem a n x h
  generalize s.mem.storeNum a n x = m at hm
  exact State.recode_wf (s := { s with mem := m }) hm ctx a n 0

theorem State.noRoute_wf (h : s.mem.wf = true) (die ctx pa : Nat) : (s.noRoute die ctx pa).mem.wf = true := by
  unfold State.noRoute
  grind -ring -linarith [State.contextMc_wf]

theorem State.routeCode_wf (h : s.mem.wf = true) (tm : Team) (va : DWord) : (s.routeCode tm va).mem.wf = true := by
  unfold State.routeCode
  grind -ring -linarith [State.noRoute_wf]

theorem State.readCheck_wf (h : s.mem.wf = true) (die ctx pa n : Nat) : (s.readCheck die ctx pa n).mem.wf = true := by
  unfold State.readCheck
  grind -ring -linarith [foldl_wf, State.contextMc_wf]

theorem State.putArea_cons (s : State) (tm : Team) (w : Nat × Nat × Nat) (l : List (Nat × Nat × Nat)) : s.putArea tm (w :: l) =
    ({ s with mem := s.mem.storeNum (s.areaPa tm + w.1) w.2.1 w.2.2 }.recode tm.ctx (s.areaPa tm + w.1) w.2.1).putArea tm l := rfl

theorem State.putArea_wf (h : s.mem.wf = true) (tm : Team) (l : List (Nat × Nat × Nat)) : (s.putArea tm l).mem.wf = true := by
  induction l generalizing s with
  | nil => exact h
  | cons w l ih =>
    rw [State.putArea_cons]
    exact ih (State.recode_store_wf h ..)

theorem State.imageRegion_wf (h : s.mem.wf = true) (t tid : Nat) (abort : Option Nat) (word : Bool) : (s.imageRegion t tid abort word).mem.wf = true := by
  unfold State.imageRegion
  grind -ring -linarith [State.putArea_wf]

@[simp] theorem State.observed_mem (s : State) (t tid : Nat) : (s.observed t tid).mem = s.mem := by
  unfold State.observed
  grind -ring -linarith [State.acquire_mem]

theorem State.abortRegion_wf (h : s.mem.wf = true) (t tid cause n : Nat) : (s.abortRegion t tid cause n).mem.wf = true := by
  unfold State.abortRegion
  grind -ring -linarith [State.dropRegion_mem, State.observed_mem, State.newId_mem, State.updTeam_mem, State.imageRegion_wf]

@[simp] theorem State.dropRegions_mem (s : State) (t : Nat) : (s.dropRegions t).mem = s.mem := by
  unfold State.dropRegions
  grind -ring -linarith [foldl_mem, State.dropRegion_mem]

theorem State.orphanChecks_wf (h : s.mem.wf = true) (t : Nat) (tids : List Nat) : (s.orphanChecks t tids).mem.wf = true := by
  unfold State.orphanChecks
  grind -ring -linarith [foldl_wf, State.contextMc_wf, State.updTeam_mem]

@[simp] theorem State.dropFutures_mem (s : State) (t : Nat) : (s.dropFutures t).mem = s.mem := by
  unfold State.dropFutures
  grind -ring -linarith [State.updTeam_mem]

theorem State.teamFault_wf (h : s.mem.wf = true) (t : Nat) : (s.teamFault t).mem.wf = true := by
  unfold State.teamFault
  grind -ring -linarith [State.dropFutures_mem, State.orphanChecks_wf, State.dropRegions_mem, State.updTeam_mem]

theorem State.enterTrap_wf (h : s.mem.wf = true) (t tid : Nat) (tr : Trap) (epc : DWord) (mid : Option Mid) :
    (s.enterTrap t tid tr epc mid).mem.wf = true := by
  unfold State.enterTrap
  grind -ring -linarith [State.abortRegion_wf, State.teamFault_wf, State.routeCode_wf, State.updTeam_mem, State.observed_mem]

@[simp] theorem State.issued_mem (s : State) (t : Nat) : (s.issued t).mem = s.mem := by
  unfold State.issued
  grind -ring -linarith [State.updTeam_mem]

theorem State.trapWait_mem {t gid : Nat} {tm : Team} {tids : List Nat} {s' : State} (e : s.trapWait t gid tm tids = some s') : s'.mem = s.mem := by
  unfold State.trapWait at e
  split at e
  · cases e; rfl
  · obtain ⟨pa, -, rfl⟩ := Option.map_eq_some_iff.mp e
    exact (State.hold_mem ..).trans (State.askGrant_mem ..)

theorem State.trapEach_wf (h : s.mem.wf = true) (t gid : Nat) (skip : Nat) (l : List (Nat × Trap)) : (s.trapEach t gid skip l).mem.wf = true := by
  unfold State.trapEach
  grind -ring -linarith [foldl_wf, State.enterTrap_wf]

theorem State.trapThreads_wf (h : s.mem.wf = true) (t gid : Nat) (skip : Nat) (l : List (Nat × Trap)) : (s.trapThreads t gid skip l).mem.wf = true := by
  unfold State.trapThreads
  grind -ring -linarith [State.trapWait_mem, State.trapEach_wf, State.issued_mem]

theorem State.trapAll_wf (h : s.mem.wf = true) (t gid : Nat) (g : Group) (tr : Trap) : (s.trapAll t gid g tr).mem.wf = true := by
  unfold State.trapAll
  grind -ring -linarith [State.trapThreads_wf]

theorem State.endRun_wf (h : s.mem.wf = true) (t gid : Nat) (named : List Reg) : (s.endRun t gid named).mem.wf = true := by
  unfold State.endRun
  grind -ring -linarith [foldl_wf, State.trapWait_mem, State.enterTrap_wf, State.updTeam_mem]

theorem State.advance_wf (h : s.mem.wf = true) (t gid gap : Nat) : (s.advance t gid gap).mem.wf = true := by
  unfold State.advance
  grind -ring -linarith [foldl_wf, State.updTeam_mem, State.endRun_wf]

@[simp] theorem State.writeRegs_mem (s : State) (t gid lat : Nat) (ws : List (Nat × Reg × DWord)) : (s.writeRegs t gid lat ws).mem = s.mem := by
  unfold State.writeRegs
  grind -ring -linarith [foldl_mem, State.updTeam_mem]

theorem State.splitTraps_wf {k : State → Iss → State} (h : s.mem.wf = true) (hk : ∀ (s : State) c, s.mem.wf = true → (k s c).mem.wf = true) (c : Iss) (f :
    Nat → Option Trap) :
    (s.splitTraps c f k).mem.wf = true := by
  unfold State.splitTraps
  grind -ring -linarith [State.trapWait_mem, State.trapEach_wf, State.issued_mem]

theorem State.gateAs_wf {k : State → Iss → State} (h : s.mem.wf = true) (hk : ∀ (s : State) c, s.mem.wf = true → (k s c).mem.wf = true) (u : Use) (whole :
    Bool) :
    (s.gateAs u whole k).mem.wf = true := by
  unfold State.gateAs
  grind -ring -linarith [State.trapAll_wf, State.hold_mem, State.splitTraps_wf]

theorem State.gate_wf {k : State → Iss → State} (h : s.mem.wf = true) (hk : ∀ (s : State) c, s.mem.wf = true → (k s c).mem.wf = true) (u : Use) :
    (s.gate u k).mem.wf = true :=
  State.gateAs_wf h hk u false

theorem State.gateFree_wf {k : State → Iss → State} (h : s.mem.wf = true) (hk : ∀ (s : State) c, s.mem.wf = true → (k s c).mem.wf = true) (u : Use) :
    (s.gateFree u k).mem.wf = true :=
  State.gate_wf h (by grind -ring -linarith [State.hold_mem]) u

theorem State.forbid_wf (h : s.mem.wf = true) {c : Iss} {s' : State} (e : s.forbid c = some s') : s'.mem.wf = true := by
  unfold State.forbid at e
  grind -ring -linarith [foldl_wf, State.abortRegion_wf]

theorem State.outside_wf {k : State → Iss → State} (h : s.mem.wf = true) (hk : ∀ (s : State) c, s.mem.wf = true → (k s c).mem.wf = true) (c : Iss) :
    (s.outside c k).mem.wf = true := by
  unfold State.outside
  grind -ring -linarith [State.forbid_wf, State.issued_mem]

theorem State.forbiddenFree_wf {k : State → Iss → State} (h : s.mem.wf = true) (hk : ∀ (s : State) c, s.mem.wf = true → (k s c).mem.wf = true) (u : Use) :
    (s.forbiddenFree u k).mem.wf = true :=
  State.gateFree_wf h (fun _ c h => State.outside_wf h hk c) u

theorem State.loadCtx_wf (h : s.mem.wf = true) (n : Nat) : (s.loadCtx n).mem.wf = true := by
  unfold State.loadCtx
  grind -ring -linarith [foldl_wf, State.readCheck_wf]

@[simp] theorem State.setRest_mem (s : State) (core unit o : Nat) (b : Byte) : (s.setRest core unit o b).mem = s.mem := by
  unfold State.setRest
  grind -ring -linarith [State.updCore_mem]

@[simp] theorem State.setWindowByte_mem (s : State) (off : Nat) (b : Byte) : (s.setWindowByte off b).mem = s.mem := by
  unfold State.setWindowByte
  grind -ring -linarith [State.setRest_mem, State.updThread_mem, State.updTeam_mem, State.updCore_mem]

theorem State.startDiscard_wf (h : s.mem.wf = true) (t : Nat) : (s.startDiscard t).mem.wf = true := by
  unfold State.startDiscard
  grind -ring -linarith [State.dropFutures_mem, State.orphanChecks_wf, State.dropRegions_mem, State.updTeam_mem]

theorem State.preempt_wf (h : s.mem.wf = true) (d : Nat) : (s.preempt d).mem.wf = true := by
  unfold State.preempt
  grind -ring -linarith [foldl_wf, State.updCore_mem, State.startDiscard_wf, State.updTeam_mem, State.updDie_mem]

@[simp] theorem State.fwApply_mem (s : State) : s.fwApply.mem = s.mem := by
  unfold State.fwApply
  grind -ring -linarith [foldl_mem, State.updDie_mem]

@[simp] theorem State.fwTake_mem (s : State) (d : Nat) : (s.fwTake d).mem = s.mem := by
  unfold State.fwTake
  grind -ring -linarith [State.updDie_mem]

@[simp] theorem State.rwGo_mem (s : State) (v : DWord) : (s.rwGo v).mem = s.mem := by
  unfold State.rwGo
  grind -ring -linarith

@[simp] theorem State.atGo_mem (s : State) (v : DWord) : (s.atGo v).mem = s.mem := by
  unfold State.atGo
  grind -ring -linarith

theorem State.qUpdate_wf (h : s.mem.wf = true) (q l n v : Nat) : (s.qUpdate q l n v).mem.wf = true := by
  unfold State.qUpdate
  grind -ring -linarith [foldl_wf, Memory.wf_storeNum, State.recode_wf, State.updDie_mem]

theorem State.ring_wf (h : s.mem.wf = true) (q wp : Nat) : (s.ring q wp).mem.wf = true := by
  unfold State.ring
  grind -ring -linarith [State.qUpdate_wf]

@[simp] theorem State.setMmio4_mem (s : State) (o x : Nat) : (s.setMmio4 o x).mem = s.mem := by
  unfold State.setMmio4
  grind -ring -linarith [State.fwApply_mem, State.updCore_mem]

theorem State.setMmio8_wf (h : s.mem.wf = true) (o x : Nat) : (s.setMmio8 o x).mem.wf = true := by
  unfold State.setMmio8
  grind -ring -linarith (splits := 60) [State.ring_wf, State.loadCtx_wf, State.preempt_wf, State.setMmio4_mem, State.updDie_mem, State.rwGo_mem,
    State.atGo_mem]

theorem State.setMmio_wf (h : s.mem.wf = true) (o : Nat) (bs : List Byte) : (s.setMmio o bs).mem.wf = true := by
  unfold State.setMmio
  grind -ring -linarith [State.setMmio4_mem, State.setMmio8_wf]

theorem State.setMmioN_wf (fuel o : Nat) (bs : List Byte) (h : s.mem.wf = true) : (s.setMmioN o bs fuel).mem.wf = true := by
  induction fuel generalizing s o bs with
  | zero => exact h
  | succ fuel ih =>
    unfold State.setMmioN
    grind -ring -linarith [State.setMmio_wf]

theorem State.setDevice_wf (h : s.mem.wf = true) (pa : Nat) (bs : List Byte) : (s.setDevice pa bs).mem.wf = true := by
  have window (bs : List Byte) (x : State × Nat) : (bs.foldl (fun (acc : State × Nat) b => (acc.1.setWindowByte acc.2 b, acc.2 + 1)) x).1.mem = x.1.mem := by
    induction bs generalizing x with
    | nil => rfl
    | cons b bs ih => exact (ih _).trans (State.setWindowByte_mem ..)
  unfold State.setDevice
  grind -ring -linarith [State.setMmioN_wf]

theorem State.setTd_wf (h : s.mem.wf = true) (tile e : Nat) (op ctx : Nat) : (s.setTd tile e op ctx).mem.wf = true := by
  unfold State.setTd
  grind -ring -linarith [Memory.wf_storeNum, State.recode_wf]

theorem State.tdStore_wf (h : s.mem.wf = true) (pte : Option Nat) (op ctx pa n : Nat) : (s.tdStore pte op ctx pa n).mem.wf = true := by
  unfold State.tdStore
  grind -ring -linarith [foldl_wf, State.setTd_wf]

@[simp] theorem State.addRaise_mem (s : State) (sid cell : Nat) (amt : Word) : (s.addRaise sid cell amt).mem = s.mem := rfl

@[simp] theorem State.watchRaises_mem (s : State) (pa : Nat) : (s.watchRaises pa).mem = s.mem := by
  unfold State.watchRaises
  grind -ring -linarith [foldl_mem, State.addRaise_mem]

@[simp] theorem State.setGran_mem (s : State) (g : Nat) (x : Gran) : (s.setGran g x).mem = s.mem := rfl

@[simp] theorem State.narrow_mem (s : State) (g r : Nat) (isLo : Bool) (v : Int) : (s.narrow g r isLo v).mem = s.mem := by
  unfold State.narrow
  grind -ring -linarith [State.newId_mem, State.setGran_mem]

@[simp] theorem State.plainWrite_mem (s : State) (g : Nat) : (s.plainWrite g).mem = s.mem := by
  unfold State.plainWrite
  grind -ring -linarith [foldl_mem, State.setGran_mem, State.narrow_mem]

@[simp] theorem State.dropD_mem (s : State) (keep : Option Nat) (line : Nat) : (s.dropD keep line).mem = s.mem := by
  unfold State.dropD
  grind -ring -linarith

@[simp] theorem State.setOwner_mem (s : State) (pa n : Nat) (o : Option Nat) : (s.setOwner pa n o).mem = s.mem := by
  unfold State.setOwner
  grind -ring -linarith [foldl_mem]

@[simp] theorem State.raiseWrite_mem (s : State) (op pa : Nat) : (s.raiseWrite op pa).mem = s.mem := by
  unfold State.raiseWrite
  grind -ring -linarith [State.watchRaises_mem]

theorem State.homeWrite_wf (h : s.mem.wf = true) (w : HomeW) (pa : Nat) (bs : List Byte) : (s.homeWrite w pa bs).mem.wf = true := by
  unfold State.homeWrite
  grind -ring -linarith [foldl_wf, Memory.wf_storeBytes, State.setDevice_wf, State.recode_wf, State.setOwner_mem, State.dropD_mem, State.plainWrite_mem,
    State.tdStore_wf, State.raiseWrite_mem]

theorem State.homeWriteN_wf (fuel : Nat) (w : HomeW) (pa : Nat) (bs : List Byte) (h : s.mem.wf = true) : (s.homeWriteN w pa bs fuel).mem.wf = true := by
  induction fuel generalizing s pa bs with
  | zero => exact h
  | succ fuel ih =>
    unfold State.homeWriteN
    grind -ring -linarith [State.homeWrite_wf]

@[simp] theorem State.ncDone_mem (s : State) (core line : Nat) : (s.ncDone core line).mem = s.mem := rfl

theorem State.writeBackPart_wf (h : s.mem.wf = true) (core line : Nat) (q : Nat → Bool) : (s.writeBackPart core line q).mem.wf = true := by
  unfold State.writeBackPart
  grind -ring -linarith [foldl_wf, State.noRoute_wf, State.homeWrite_wf, State.ncDone_mem, State.updCore_mem]

theorem State.writeBack_wf (h : s.mem.wf = true) (core line : Nat) : (s.writeBack core line).mem.wf = true := by
  unfold State.writeBack
  grind -ring -linarith [State.writeBackPart_wf]

theorem State.release_wf (h : s.mem.wf = true) (core : Nat) : (s.release core).mem.wf = true := by
  unfold State.release
  grind -ring -linarith [foldl_wf, State.writeBack_wf]

theorem State.dropLine_wf (h : s.mem.wf = true) (core line : Nat) : (s.dropLine core line).mem.wf = true := by
  unfold State.dropLine
  grind -ring -linarith [State.updCore_mem, State.writeBack_wf]

theorem State.homePrep_wf (h : s.mem.wf = true) (core pa n : Nat) : (s.homePrep core pa n).mem.wf = true := by
  unfold State.homePrep
  grind -ring -linarith [foldl_wf, State.dropLine_wf]

@[simp] theorem State.askLine_mem (s : State) (line : Nat) (l : CLine) : (s.askLine line l).mem = s.mem := by
  unfold State.askLine
  grind -ring -linarith [foldl_mem, State.askGrant_mem]

theorem State.reclass_wf (h : s.mem.wf = true) {core line coh : Nat} {nc : Bool} {s' : State} (e : s.reclass core line coh nc = some s') :
    s'.mem.wf = true := by
  unfold State.reclass at e
  grind -ring -linarith [State.dropLine_wf]

@[simp] theorem State.setDent_mem (s : State) (line : Nat) (d : DEnt) : (s.setDent line d).mem = s.mem := rfl

theorem State.evict_wf (h : s.mem.wf = true) (core line : Nat) : (s.evict core line).mem.wf = true := by
  unfold State.evict
  grind -ring -linarith [State.dropLine_wf, State.updCore_mem, State.setDent_mem]

theorem State.makeRoom_wf (h : s.mem.wf = true) {core line : Nat} {s' : State} (e : s.makeRoom core line = some s') : s'.mem.wf = true := by
  unfold State.makeRoom at e
  grind -ring -linarith [State.evict_wf]

theorem State.uload_wf (h : s.mem.wf = true) (core ctx pte : Nat) (nc : Bool) (va pa n hint : Nat) :
    (s.uload core ctx pte nc va pa n hint).2.mem.wf = true := by
  unfold State.uload
  extract_lets coh line o
  split
  · exact h
  split
  · exact h
  split
  · simp [h]
  split
  · exact h
  next s' hs' =>
    have hr := State.reclass_wf h hs'
    clear h hs'
    extract_lets home l hit atHome
    grind -ring -linarith [State.updCore_mem, State.makeRoom_wf]

theorem State.ustore_wf (h : s.mem.wf = true) (core ctx pte : Nat) (nc : Bool) (va pa : Nat) (bs : List Byte) (hint : Nat) :
    (s.ustore core ctx pte nc va pa bs hint).2.mem.wf = true := by
  unfold State.ustore
  extract_lets coh line o n who put atHome raised
  have hput (s : State) (d alloc : Bool) : (put s d alloc).mem = s.mem := State.updCore_mem ..
  have hraised (s : State) (h : s.mem.wf = true) : (raised s).mem.wf = true := State.noRoute_wf h ..
  clear_value put raised
  split
  · exact h
  split
  · exact State.homeWrite_wf (hraised s h) ..
  split
  · simp [h]
  split
  · exact h
  next s' hs' =>
    have hr := State.reclass_wf h hs'
    clear h hs'
    grind -ring -linarith [State.updCore_mem, State.homeWrite_wf, foldl_wf, State.makeRoom_wf]

/-!
Canonical memory, continued: run headers, traps, lanes, uniform and cross-thread operations, scratch, atomics and tables.
-/

theorem State.putCrumb_wf (h : s.mem.wf = true) (c : Crumb) : (s.putCrumb c).mem.wf = true := by
  unfold State.putCrumb
  grind -ring -linarith [State.homeWrite_wf, State.noRoute_wf, State.askGrant_mem]

theorem State.crumbsAgain_wf (h : s.mem.wf = true) : s.crumbsAgain.mem.wf = true := by
  unfold State.crumbsAgain
  grind -ring -linarith [foldl_wf, State.putCrumb_wf]

theorem State.crumb_wf (h : s.mem.wf = true) (tm : Team) (cause : BitVec 5) (matrix : Bool) (hdr : DWord) (tid : Nat) :
    (s.crumb tm cause matrix hdr tid).mem.wf = true := by
  unfold State.crumb
  grind -ring -linarith [State.putCrumb_wf]

theorem State.raiseFlags_wf (h : s.mem.wf = true) (c : Iss) (lat : Nat) (fl : BitVec 5) : (s.raiseFlags c lat fl).mem.wf = true := by
  unfold State.raiseFlags
  grind -ring -linarith [State.crumb_wf, State.updTeam_mem]

theorem State.raiseMatrix_wf (h : s.mem.wf = true) (t : Nat) (fl : BitVec 5) (hdr : DWord) (tid : Nat) : (s.raiseMatrix t fl hdr tid).mem.wf = true := by
  unfold State.raiseMatrix
  grind -ring -linarith [State.crumb_wf, State.updTeam_mem]

@[simp] theorem State.scrPut_mem (s : State) (u off : Nat) (bs : List Byte) : (s.scrPut u off bs).mem = s.mem := by
  unfold State.scrPut
  grind -ring -linarith [foldl_mem, State.updTeam_mem]

@[simp] theorem State.scrWrite_mem (s : State) (t a : Nat) (bs : List Byte) : (s.scrWrite t a bs).mem = s.mem := by
  unfold State.scrWrite
  grind -ring -linarith [State.scrPut_mem]

@[simp] theorem State.askRefill_mem (s : State) (t : Nat) (ps : List Nat) : (s.askRefill t ps).mem = s.mem := by
  unfold State.askRefill
  grind -ring -linarith [State.updTeam_mem]

theorem State.phPut_wf (h : s.mem.wf = true) (p : PhAt) (x : Nat) (ctx : Nat) : (s.phPut p x ctx).mem.wf = true := by
  unfold State.phPut
  grind -ring -linarith [State.scrPut_mem, State.homeWrite_wf]

theorem State.phUpdate_wf (h : s.mem.wf = true) (at_ : PhAt) (f : Phase × Nat → Phase × Nat) (ctx : Nat) : (s.phUpdate at_ f ctx).mem.wf = true := by
  unfold State.phUpdate
  grind -ring -linarith [State.phPut_wf]

theorem State.laneRun_wf (h : s.mem.wf = true) (c : Iss) (lat gap : Nat) (f : Nat → List (Nat × Reg × DWord) × BitVec 5) :
    (s.laneRun c lat gap f).mem.wf = true := by
  unfold State.laneRun
  grind -ring -linarith [foldl_wf, State.writeRegs_mem, State.raiseFlags_wf, State.advance_wf]

theorem State.lane1_wf (h : s.mem.wf = true) (lat gap d a : Nat) (f : SysRegs → Word → Word × BitVec 5) : (s.lane1 lat gap d a f).mem.wf = true := by
  unfold State.lane1
  grind -ring -linarith [State.gate_wf, State.laneRun_wf]

theorem State.lane2_wf (h : s.mem.wf = true) (lat gap d a b : Nat) (f : SysRegs → Word → Word → Word × BitVec 5) :
    (s.lane2 lat gap d a b f).mem.wf = true := by
  unfold State.lane2
  grind -ring -linarith [State.gate_wf, State.laneRun_wf]

theorem State.lane3_wf (h : s.mem.wf = true) (lat gap d a b : Nat) (f : SysRegs → Word → Word → Word → Word × BitVec 5) :
    (s.lane3 lat gap d a b f).mem.wf = true := by
  unfold State.lane3
  grind -ring -linarith [State.gate_wf, State.laneRun_wf]

theorem State.laneW1_wf (h : s.mem.wf = true) (lat gap d dn a an : Nat) (f : SysRegs → DWord → DWord × BitVec 5) :
    (s.laneW1 lat gap d dn a an f).mem.wf = true := by
  unfold State.laneW1
  grind -ring -linarith [State.gate_wf, State.laneRun_wf]

theorem State.laneW3_wf (h : s.mem.wf = true) (lat gap d a b : Nat) (rd : Bool) (f : SysRegs → DWord → DWord → DWord → DWord × BitVec 5) :
    (s.laneW3 lat gap d a b rd f).mem.wf = true := by
  unfold State.laneW3
  grind -ring -linarith [State.gate_wf, State.laneRun_wf]

theorem State.laneCmp_wf (h : s.mem.wf = true) (gap : Nat) (m : BitVec 2) (p a b : Nat) (f : Word → Word → Bool × BitVec 5) :
    (s.laneCmp gap m p a b f).mem.wf = true := by
  unfold State.laneCmp
  grind -ring -linarith [State.gate_wf, State.laneRun_wf]

theorem State.uniform_wf (h : s.mem.wf = true) (gap : Nat) (u : Use) (d : Nat) (f : Iss → DWord) : (s.uniform gap u d f).mem.wf = true := by
  unfold State.uniform
  grind -ring -linarith [State.gateAs_wf, State.advance_wf, State.writeRegs_mem]

theorem State.k2_wf (h : s.mem.wf = true) (st : BitVec 2) (d a b : BitVec 6) (f : DWord → DWord → DWord) : (s.k2 st d a b f).mem.wf = true := by
  unfold State.k2
  grind -ring -linarith [State.uniform_wf]

@[simp] theorem State.owe_mem (s : State) (t : Nat) (id : Nat) (owner : Nat) (uniform : Bool) (acq : Bool) (rs : List (Reg × Option DWord)) (fl : BitVec 5)
    (obs : Bool) (also : List Nat) : (s.owe t id owner uniform acq rs fl obs also).mem = s.mem := by
  unfold State.owe
  grind -ring -linarith [foldl_mem, State.updTeam_mem]

@[simp] theorem State.answer_mem (s : State) (t id : Nat) (f : Nat → DWord) : (s.answer t id f).mem = s.mem := by
  unfold State.answer
  grind -ring -linarith [State.updTeam_mem]

theorem State.trapHeader_wf (h : s.mem.wf = true) (t : Nat) (hdr : DWord) (tids : List Nat) (tr : Trap) : (s.trapHeader t hdr tids tr).mem.wf = true := by
  unfold State.trapHeader
  grind -ring -linarith [foldl_wf, State.updTeam_mem, State.askGrant_mem, State.enterTrap_wf]

theorem State.headerFails_wf (h : s.mem.wf = true) (t : Nat) (hdr : DWord) (tids : List Nat) (e : HdrErr) : (s.headerFails t hdr tids e).mem.wf = true := by
  unfold State.headerFails
  grind -ring -linarith [State.trapHeader_wf, State.updTeam_mem, State.askGrant_mem]

theorem State.routeRun_wf (h : s.mem.wf = true) (tm : Team) (hdr : DWord) (len : Nat) (trl : Bool) : (s.routeRun tm hdr len trl).mem.wf = true := by
  unfold State.routeRun
  grind -ring -linarith [State.routeCode_wf]

theorem State.moveK63_wf (h : s.mem.wf = true) (t : Nat) : (s.moveK63 t).mem.wf = true := by
  unfold State.moveK63
  grind -ring -linarith [State.putArea_wf, State.updTeam_mem]

theorem State.sendYield_wf (h : s.mem.wf = true) (t tid : Nat) : (s.sendYield t tid).mem.wf = true := by
  unfold State.sendYield
  grind -ring -linarith [State.abortRegion_wf, State.moveK63_wf, State.updTeam_mem, State.putArea_wf]

theorem State.boundary_wf (h : s.mem.wf = true) (t tid : Nat) : (s.boundary t tid).mem.wf = true := by
  unfold State.boundary
  grind -ring -linarith [State.updTeam_mem, State.sendYield_wf]

theorem State.keepCross_wf (h : s.mem.wf = true) (t gid : Nat) : (s.keepCross t gid).mem.wf = true := by
  unfold State.keepCross
  grind -ring -linarith [foldl_wf, State.updTeam_mem, State.abortRegion_wf, State.boundary_wf]

theorem State.atHeader_wf (h : s.mem.wf = true) (t tid : Nat) : (s.atHeader t tid).mem.wf = true := by
  unfold State.atHeader
  grind -ring -linarith [State.abortRegion_wf, State.updTeam_mem, State.askGrant_mem, State.trapHeader_wf, State.updThread_mem, State.boundary_wf]

@[simp] theorem State.refresh_mem (s : State) (t : Nat) : (s.refresh t).mem = s.mem := by
  unfold State.refresh
  grind -ring -linarith [State.updTeam_mem]

@[simp] theorem State.waitCross_mem (s : State) (t gid : Nat) (as : List DWord) : (s.waitCross t gid as).mem = s.mem := by
  unfold State.waitCross
  grind -ring -linarith [foldl_mem, State.updTeam_mem]

theorem State.branch_wf (h : s.mem.wf = true) (c : Iss) (f : Nat → DWord) : (s.branch c f).mem.wf = true := by
  unfold State.branch
  grind -ring -linarith [foldl_wf, State.advance_wf, State.updTeam_mem]

theorem State.eretThread_wf (h : s.mem.wf = true) (t tid : Nat) (skip : Bool) : (s.eretThread t tid skip).mem.wf = true := by
  unfold State.eretThread
  grind -ring -linarith [State.routeCode_wf, State.updThread_mem, State.updTeam_mem]

theorem State.eret_wf (h : s.mem.wf = true) (gap : Nat) (skip : Bool) : (s.eret gap skip).mem.wf = true := by
  unfold State.eret
  grind -ring -linarith [foldl_wf, State.gate_wf, State.splitTraps_wf, State.hold_mem, State.askGrant_mem, State.advance_wf, State.eretThread_wf]

@[simp] theorem State.only_mem (s : State) (c : Iss) (tids : List Nat) : (s.only c tids).1.mem = s.mem := rfl

@[simp] theorem State.keepAccess_mem (s : State) (c : Iss) (u : Use) (i : Instr) (tlb : List TlbE) (tids : List Nat) :
    (s.keepAccess c u i tlb tids).mem = s.mem := by
  unfold State.keepAccess
  grind -ring -linarith [foldl_mem, State.newId_mem, State.owe_mem, State.updTeam_mem]

theorem State.passed_wf (h : s.mem.wf = true) (c : Iss) (g : Group) (stay : List Nat) (armed : Nat → Bool) : (s.passed c g stay armed).mem.wf = true := by
  unfold State.passed
  grind -ring -linarith [foldl_wf, State.updTeam_mem, State.endRun_wf]

theorem State.holdAccess_wf {k : State → Iss → State} (h : s.mem.wf = true) (hk : ∀ (s : State) c, s.mem.wf = true → (k s c).mem.wf = true) (c : Iss)
    (whole : Bool) (u : Use) :
    (s.holdAccess c whole u k).mem.wf = true := by
  unfold State.holdAccess
  grind -ring -linarith [foldl_wf, State.only_mem, State.issued_mem, State.updGroup_mem, State.keepAccess_mem, State.passed_wf]

@[simp] theorem State.disarm_mem (s : State) (c : Iss) : (s.disarm c).mem = s.mem := by
  unfold State.disarm
  grind -ring -linarith [foldl_mem, State.updTeam_mem]

theorem State.defer_wf (h : s.mem.wf = true) (c : Iss) (u : Use) (gap : Nat) (spend : Bool) (apart : Bool) : (s.defer c u gap spend apart).mem.wf = true := by
  unfold State.defer
  grind -ring -linarith [foldl_wf, State.hold_mem, State.advance_wf, State.keepAccess_mem, State.disarm_mem]

theorem State.inTurn_wf {k : State → State} (h : s.mem.wf = true) (hk : (k s).mem.wf = true) (c : Iss) (u : Use) (gap : Nat) :
    (s.inTurn c u gap k).mem.wf = true := by
  unfold State.inTurn
  grind -ring -linarith [State.defer_wf]

theorem State.gateMem_wf {k : State → Iss → State} (h : s.mem.wf = true) (hk : ∀ (s : State) c, s.mem.wf = true → (k s c).mem.wf = true) (u : Use) (whole :
    Bool) :
    (s.gateMem u k whole).mem.wf = true :=
  State.gateFree_wf h (by grind -ring -linarith [State.holdAccess_wf]) u

theorem State.forbidden_wf {k : State → Iss → State} (h : s.mem.wf = true) (hk : ∀ (s : State) c, s.mem.wf = true → (k s c).mem.wf = true) (u : Use) (whole :
    Bool) :
    (s.forbidden u k whole).mem.wf = true :=
  State.gateMem_wf h (fun _ c h => State.outside_wf h hk c) u whole

theorem State.forbiddenAs_wf {k : State → Iss → State} (h : s.mem.wf = true) (hk : ∀ (s : State) c, s.mem.wf = true → (k s c).mem.wf = true) (acc : Bool)
    (u : Use) :
    (s.forbiddenAs acc u k).mem.wf = true := by
  unfold State.forbiddenAs
  grind -ring -linarith [State.forbidden_wf, State.forbiddenFree_wf]

@[simp] theorem State.ncStored_mem (s : State) (c : Iss) (line : Nat) : (s.ncStored c line).mem = s.mem := by
  unfold State.ncStored
  grind -ring -linarith [foldl_mem, State.updTeam_mem]

theorem State.cross_wf (h : s.mem.wf = true) (u : Use) (lat gap d : Nat) (inp : Iss → Nat → Word × Word × Bool) (f : CrossFn) :
    (s.cross u lat gap d inp f).mem.wf = true := by
  unfold State.cross
  grind -ring -linarith [foldl_wf, State.gate_wf, State.updTeam_mem, State.writeRegs_mem, State.raiseFlags_wf, State.advance_wf, State.hold_mem]

theorem State.vote_wf (h : s.mem.wf = true) (op : Nat) (st : BitVec 2) (d : BitVec 7) (p : BitVec 3) : (s.vote op st d p).mem.wf = true := by
  unfold State.vote
  grind -ring -linarith [State.cross_wf]

theorem State.cross1_wf (h : s.mem.wf = true) (st : BitVec 2) (d a : BitVec 7) (f : CrossFn) : (s.cross1 st d a f).mem.wf = true := by
  unfold State.cross1
  grind -ring -linarith [State.cross_wf]

theorem State.pack_wf (h : s.mem.wf = true) (expand : Bool) (st : BitVec 2) (d a : BitVec 7) (p : BitVec 3) : (s.pack expand st d a p).mem.wf = true := by
  unfold State.pack
  grind -ring -linarith [State.cross_wf]

theorem State.withRelease_wf {k : State → State} (h : s.mem.wf = true) (hk : ∀ s : State, s.mem.wf = true → (k s).mem.wf = true) (c : Iss) (u : Use)
    (gap : Nat) (want : Bool) : (s.withRelease c u gap want k).mem.wf = true := by
  unfold State.withRelease
  grind -ring -linarith [State.release_wf, State.disarm_mem, State.defer_wf]

theorem State.engineIssue_wf {k : State → (Nat → List Nat) → State} (h : s.mem.wf = true)
    (hk : ∀ (s : State) after, s.mem.wf = true → (k s after).mem.wf = true) (c : Iss) (want : Bool) : (s.engineIssue c want k).mem.wf = true := by
  unfold State.engineIssue
  grind -ring -linarith [State.release_wf, State.disarm_mem]

theorem State.oweAll_wf (h : s.mem.wf = true) (c : Iss) (gap : Nat) (f : Nat → List (Reg × Option DWord)) (fl : BitVec 5) :
    (s.oweAll c gap f fl).mem.wf = true := by
  unfold State.oweAll
  grind -ring -linarith [foldl_wf, State.advance_wf, State.newId_mem, State.owe_mem]

theorem State.pinFirst_wf {k : State} (h : s.mem.wf = true) (hk : k.mem.wf = true) (c : Iss) (u : Use) (gap : Nat) (ea : Nat → Nat) (n : Nat)
    (spend : Bool) : (s.pinFirst c u gap ea n k spend).mem.wf = true := by
  unfold State.pinFirst
  grind -ring -linarith [State.askRefill_mem, State.defer_wf]

theorem State.atomRun_wf {wr : State → Nat → Nat → State} (h : s.mem.wf = true) (hw : ∀ (s : State) y v, s.mem.wf = true → (wr s y v).mem.wf = true)
    (sr : SysRegs) (op bytes : Nat) (reqs : List (Nat × Nat × Nat × Nat)) (rd : State → Nat → Nat) :
    (s.atomRun sr op bytes reqs rd wr).1.mem.wf = true :=
  foldl_invariant (P := fun a : State × List (Nat × Nat) × BitVec 5 => a.1.mem.wf = true) h (fun _ _ h => hw _ _ _ h) _

theorem State.atomEach_wf (h : s.mem.wf = true) (sr : SysRegs) (t op bytes : Nat) (reqs : List (Nat × Nat × Nat × Nat)) :
    (s.atomEach sr t op bytes reqs).1.mem.wf = true :=
  foldl_invariant (P := fun a : State × List (Nat × Nat) × BitVec 5 => a.1.mem.wf = true) h (fun _ _ h => by simpa using h) _

theorem State.atomDone_wf (h : s.mem.wf = true) (c : Iss) (gap d : Nat) (z r : BitVec 2) (olds : List (Nat × Nat)) (fl : BitVec 5) :
    (s.atomDone c gap d z r olds fl).mem.wf = true := by
  unfold State.atomDone
  grind -ring -linarith [State.acquire_mem, State.oweAll_wf, State.raiseFlags_wf]

@[simp] theorem State.askHome_mem (s : State) (core : Nat) (pte : Nat) (pa : Nat) (write : Bool) : (s.askHome core pte pa write).mem = s.mem := by
  unfold State.askHome
  grind -ring -linarith [State.askGrant_mem, State.askLine_mem]

@[simp] theorem State.askGrants_mem (s : State) (core : Nat) (write : Bool) (l : List (Nat × Nat)) : (s.askGrants core write l).mem = s.mem := by
  unfold State.askGrants
  grind -ring -linarith [foldl_mem, State.askHome_mem]

theorem State.prepAll_wf (h : s.mem.wf = true) (c : Iss) (l : List (DWord × Nat × Nat)) : (s.prepAll c l).mem.wf = true := by
  unfold State.prepAll
  grind -ring -linarith [foldl_wf, State.noRoute_wf, State.homePrep_wf, State.fillTlb_mem]

@[simp] theorem State.fillAll_mem (s : State) (c : Iss) (l : List (DWord × Nat)) : (s.fillAll c l).mem = s.mem := by
  unfold State.fillAll
  grind -ring -linarith [foldl_mem, State.fillTlb_mem]

@[simp] theorem State.fgetAt_mem (s : State) (c : Iss) (pa d p : Nat) (tids : List Nat) : (s.fgetAt c pa d p tids).mem = s.mem := by
  have owed (acc : State × List (Nat × Nat)) : (tids.foldl (fun (acc : State × List (Nat × Nat)) tid =>
      let (id, s) := acc.1.newId
      (s.owe c.t id tid false true (futRegs p d none none), acc.2 ++ [(c.t, id)])) acc).1.mem = acc.1.mem :=
    foldl_invariant (P := fun a : State × List (Nat × Nat) => a.1.mem = acc.1.mem) rfl (fun _ _ h => by simpa using h) _
  unfold State.fgetAt
  grind -ring -linarith [foldl_mem, State.acquire_mem, State.newId_mem, State.owe_mem]

@[simp] theorem State.answerDeferred_mem (s : State) (pa v : Nat) : (s.answerDeferred pa v).mem = s.mem := by
  unfold State.answerDeferred
  grind -ring -linarith [foldl_mem, State.answer_mem, State.acquire_mem]

@[simp] theorem State.setLock_mem (s : State) (pa : Nat) (l : List (Nat × Nat × Nat)) : (s.setLock pa l).mem = s.mem := by
  unfold State.setLock
  grind -ring -linarith

theorem State.pwaitGo_wf (h : s.mem.wf = true) (c : Iss) (gap : Nat) (ref : PhRef) (ok : Nat → Bool) (after : Thread → Nat → Thread) :
    (s.pwaitGo c gap ref ok after).mem.wf = true := by
  unfold State.pwaitGo
  grind -ring -linarith [foldl_wf, State.acquire_mem, State.updTeam_mem, State.advance_wf, State.hold_mem]

@[simp] theorem State.putHtab_mem (s : State) (h : HTab) : (s.putHtab h).mem = s.mem := by
  unfold State.putHtab
  grind -ring -linarith [State.scrPut_mem]

theorem State.spillWait_wf (h : s.mem.wf = true) (c : Iss) (pte pa : Nat) : (s.spillWait c pte pa).mem.wf = true := by
  unfold State.spillWait
  grind -ring -linarith [State.askHome_mem, State.homePrep_wf, State.hold_mem]

theorem State.hput_wf (h : s.mem.wf = true) (t : HTab) (p : HPos) (k v : Nat) : (s.hput t p k v).mem.wf = true := by
  unfold State.hput
  cases p with
  | slot off => simpa using h
  | spill l => exact foldl_invariant (P := fun a : State × List Byte => a.1.mem.wf = true) h (fun _ _ h => State.homeWrite_wf h ..) l

theorem State.spillRoute_wf (h : s.mem.wf = true) (tm : Team) (l : List HPart) : (s.spillRoute tm l).mem.wf = true := by
  unfold State.spillRoute
  grind -ring -linarith [foldl_wf, State.noRoute_wf]

theorem State.hplace_wf (h : s.mem.wf = true) {tm : Team} {t : HTab} {k x : Word} {r : State × Nat} (e : s.hplace tm t k x = .ok r) : r.1.mem.wf = true := by
  unfold State.hplace at e
  grind -ring -linarith [State.hput_wf, State.putHtab_mem, State.spillRoute_wf]

theorem State.keyed_wf (h : s.mem.wf = true) {tm : Team} {b op t : Nat} {u : BitVec 3} {k : Word} {xs : List Word} {r : State × HRes}
    (e : s.keyed tm b op u t k xs = .ok r) : r.1.mem.wf = true := by
  unfold State.keyed at e
  split at e
  · cases e
  · cases e; exact h
  split at e
  · cases e
  extract_lets s' x0 sr comb at e
  have hr : s'.mem.wf = true := State.spillRoute_wf h ..
  have placed {h : HTab} {k x : Word} {r : State × Nat} (e : s'.hplace tm h k x = .ok r) : r.1.mem.wf = true := State.hplace_wf hr e
  have put (h : HTab) (p : HPos) (k v : Nat) : (s'.hput h p k v).mem.wf = true := State.hput_wf hr ..
  clear_value s' comb
  split at e
  · cases e; exact hr
  · split at e
    · cases e
    · next he => cases e; exact placed he
  · cases e; exact hr
  · cases e; exact hr
  · cases e; simpa using put ..
  · cases e; exact hr
  · cases e; exact put ..
  · split at e
    · cases e
    · next he => cases e; exact placed he

theorem State.keyedAll_wf (h : s.mem.wf = true) {c : Iss} {b op q : Nat} {u : BitVec 3}
    {r : State × List (Nat × List (Reg × Option DWord)) × List (Nat × Trap) × BitVec 5} (e : s.keyedAll c b op u q = .ok r) : r.1.mem.wf = true := by
  suffices all : ∀ r, s.keyedAll c b op u q = .ok r → r.1.mem.wf = true from all r e
  unfold State.keyedAll
  extract_lets keys bad
  refine foldl_invariant (P := fun a : Except _ (State × _) => ∀ r, a = .ok r → r.1.mem.wf = true) (by rintro _ ⟨⟩; exact h) (fun acc g ih => ?_) _
  split
  · rintro _ ⟨⟩
  · have hs := ih _ rfl
    split
    · rintro _ ⟨⟩
    · rintro _ ⟨⟩; exact hs
    · next e => rintro _ ⟨⟩; exact State.keyed_wf hs e

theorem State.hashOp_wf (h : s.mem.wf = true) (st : BitVec 2) (op : Nat) (u : BitVec 3) (k : BitVec 6) (q : BitVec 7) :
    (s.hashOp st op u k q).mem.wf = true := by
  refine State.forbidden_wf h (fun s c h => ?_) _ _
  dsimp only
  split
  · exact State.spillWait_wf h ..
  refine State.splitTraps_wf h (fun s c h => ?_) _ _
  split
  · exact State.spillWait_wf h ..
  · next e => exact State.oweAll_wf (State.raiseFlags_wf (State.keyedAll_wf h e) ..) ..

theorem State.hashEach_wf {f : State → Iss → Nat → Except HStop (State × List (Reg × Option DWord))} (h : s.mem.wf = true)
    (hf : ∀ {s s' : State} {c tid r}, s.mem.wf = true → f s c tid = .ok (s', r) → s'.mem.wf = true) (st : BitVec 2) (use : Use) :
    (s.hashEach st use f).mem.wf = true := by
  unfold State.hashEach
  extract_lets all
  have hall (s : State) (c : Iss) (h : s.mem.wf = true) : ∀ r, all s c = .ok r → r.1.mem.wf = true := by
    refine foldl_invariant (P := fun a : Except _ (State × _) => ∀ r, a = .ok r → r.1.mem.wf = true) (by rintro _ ⟨⟩; exact h) (fun acc tid ih => ?_) _
    split
    · rintro _ ⟨⟩
    · have hs := ih _ rfl
      split
      · rintro _ ⟨⟩
      · rintro _ ⟨⟩; exact hs
      · next e => rintro _ ⟨⟩; exact hf hs e
  clear_value all
  refine State.forbidden_wf h (fun s c h => ?_) _ _
  split
  · exact State.spillWait_wf h ..
  refine State.splitTraps_wf h (fun s c h => ?_) _ _
  split
  · exact State.spillWait_wf h ..
  · next e => exact State.oweAll_wf (hall s c h _ e) ..

@[simp] theorem State.clearTable_mem (s : State) (h : HTab) : (s.clearTable h).mem = s.mem := by
  unfold State.clearTable
  grind -ring -linarith [foldl_mem, State.putHtab_mem, State.scrPut_mem]

theorem State.splitAborts_wf {k : State → Iss → State} (h : s.mem.wf = true) (hk : ∀ (s : State) c, s.mem.wf = true → (k s c).mem.wf = true) (c : Iss) (f :
    Nat → Option Nat) :
    (s.splitAborts c f k).mem.wf = true := by
  unfold State.splitAborts
  grind -ring -linarith [foldl_wf, State.abortRegion_wf, State.issued_mem]

theorem State.xGate_wf {k : State → Iss → State} (h : s.mem.wf = true) (hk : ∀ (s : State) c, s.mem.wf = true → (k s c).mem.wf = true) (u : Use) (ea :
    Iss → State → Nat → DWord) (n : Nat)
    (write : Bool) : (s.xGate u ea n write k).mem.wf = true :=
  State.gateFree_wf h (fun _ _ h => State.splitTraps_wf h (fun _ _ h => State.splitAborts_wf h hk _ _) _ _) u

@[simp] theorem State.sendReq_mem (s : State) (c : Iss) (tid : Nat) (write : Bool) (va : DWord) (pa pte n : Nat) (own : FMap Byte) (wbs : List Nat) :
    (s.sendReq c tid write va pa pte n own wbs).mem = s.mem := by
  unfold State.sendReq
  grind -ring -linarith [State.newId_mem]

@[simp] theorem State.narrowFor_mem (s : State) (g x : Nat) (write : Bool) : (s.narrowFor g x write).mem = s.mem := by
  unfold State.narrowFor
  grind -ring -linarith [foldl_mem, State.narrow_mem, State.setGran_mem]

@[simp] theorem State.updRegion_mem (s : State) (t tid : Nat) (f : Region → Region) : (s.updRegion t tid f).mem = s.mem := by
  unfold State.updRegion
  grind -ring -linarith [State.updThread_mem]

@[simp] theorem State.dropClean_mem (s : State) (core line : Nat) : (s.dropClean core line).mem = s.mem := by
  unfold State.dropClean
  grind -ring -linarith [State.updCore_mem]

theorem State.writeBackReady_wf (h : s.mem.wf = true) (core line : Nat) (q : Nat → Bool) : (s.writeBackReady core line q).mem.wf = true := by
  unfold State.writeBackReady
  grind -ring -linarith [State.writeBackPart_wf]

theorem State.applyAt_wf (h : s.mem.wf = true) (x : Nat) (r : Region) (core ctx g p : Nat) : (s.applyAt x r core ctx g p).mem.wf = true := by
  unfold State.applyAt
  grind -ring -linarith [foldl_wf, State.writeBackReady_wf, State.homeWrite_wf, State.setGran_mem, State.narrow_mem, State.dropClean_mem]

/-!
Canonical memory, continued: copies, phase objects, fences, regions, the engine and the matrix units.
-/

theorem State.vroute_wf (h : s.mem.wf = true) (x : Xlat) (va : DWord) (n : Nat) : (s.vroute x va n).mem.wf = true := by
  unfold State.vroute
  grind -ring -linarith [foldl_wf, State.noRoute_wf]

@[simp] theorem State.updOp_mem (s : State) (id : Nat) (f : Op → Op) : (s.updOp id f).mem = s.mem := rfl

theorem State.engPrep_wf (h : s.mem.wf = true) (o : Op) (pa n : Nat) : (s.engPrep o pa n).mem.wf = true := by
  unfold State.engPrep
  grind -ring -linarith [State.homePrep_wf]

theorem State.count_wf (h : s.mem.wf = true) (id : Nat) (o : Op) (f : Phase × Nat → Phase × Nat) : (s.count id o f).mem.wf = true := by
  unfold State.count
  grind -ring -linarith [State.noRoute_wf, State.engPrep_wf, State.updOp_mem, State.phUpdate_wf]

theorem State.countLand_wf (h : s.mem.wf = true) (id : Nat) (o : Op) (n : Nat) : (s.countLand id o n).mem.wf = true := by
  unfold State.countLand
  grind -ring -linarith [State.updOp_mem, State.count_wf]

theorem State.locPut_wf (h : s.mem.wf = true) (id : Nat) (o : Op) (l : Loc) (bs : List Byte) : (s.locPut id o l bs).mem.wf = true := by
  refine foldl_invariant (P := fun a : State × List Byte => a.1.mem.wf = true) h (fun acc p h => ?_) _
  grind -ring -linarith [State.engPrep_wf, State.homeWriteN_wf, State.scrPut_mem, State.updCore_mem]

theorem State.placesWait_mem {o : Op} {sides : List ((Nat × Nat × Nat) × Bool)} {s' : State} (e : s.placesWait o sides = some s') : s'.mem = s.mem := by
  unfold State.placesWait at e
  grind -ring -linarith [foldl_mem, State.askGrant_mem, State.askLine_mem]

theorem State.chunkWait_mem {o : Op} {c : Chunk} {s' : State} (e : s.chunkWait o c = some s') : s'.mem = s.mem :=
  State.placesWait_mem e

@[simp] theorem State.settleRow_mem (s : State) (id : Nat) (o : Op) (c : Chunk) : (s.settleRow id o c).mem = s.mem := by
  unfold State.settleRow
  grind -ring -linarith [State.updOp_mem, State.updCore_mem]

@[simp] theorem State.keepPiece_mem (s : State) (id : Nat) (o : Op) (c : Chunk) (bs : List Byte) : (s.keepPiece id o c bs).mem = s.mem := by
  unfold State.keepPiece
  grind -ring -linarith [foldl_mem, State.updOp_mem]

theorem State.routes_wf (h : s.mem.wf = true) (o : Op) (c : Chunk) : (s.routes o c).mem.wf = true := by
  unfold State.routes
  grind -ring -linarith [foldl_wf, State.noRoute_wf]

theorem State.readPrep_wf (h : s.mem.wf = true) (o : Op) (l : Loc) (n : Nat) : (s.readPrep o l n).mem.wf = true := by
  unfold State.readPrep
  grind -ring -linarith [foldl_wf, State.engPrep_wf]

theorem State.lateRelease_wf (h : s.mem.wf = true) (id : Nat) (o : Op) : (s.lateRelease id o).mem.wf = true := by
  unfold State.lateRelease
  grind -ring -linarith [foldl_wf, State.updOp_mem, State.release_wf]

theorem State.landPiece_wf (h : s.mem.wf = true) (id : Nat) (o : Op) (c : Chunk) : (s.landPiece id o c).mem.wf = true := by
  unfold State.landPiece
  grind -ring -linarith [foldl_wf, State.settleRow_mem, State.routes_wf, State.readPrep_wf, State.locPut_wf, State.keepPiece_mem, State.updOp_mem,
    State.countLand_wf]

@[simp] theorem State.updCell_mem (s : State) (sid cell : Nat) (f : Cell → Cell) : (s.updCell sid cell f).mem = s.mem := rfl

theorem State.joinSet_mem {id : Nat} {o : Op} {c : Chunk} {s' : State} (e : s.joinSet id o c = some s') : s'.mem = s.mem := by
  unfold State.joinSet at e
  grind -ring -linarith [State.updOp_mem]

@[simp] theorem State.failSlot_mem (s : State) (o : Op) (e : Eng) (args : List DWord) (bs : List Byte) (status : Nat) :
    (s.failSlot o e args bs status).mem = s.mem := by
  unfold State.failSlot
  grind -ring -linarith [State.updCore_mem]

@[simp] theorem State.failOn_mem (s : State) (id : Nat) (va : DWord) : (s.failOn id va).mem = s.mem := by
  unfold State.failOn
  grind -ring -linarith [State.updOp_mem]

theorem State.openOp_wf (h : s.mem.wf = true) (id : Nat) (o : Op) (e : Eng) (args : List DWord) : (s.openOp id o e args).mem.wf = true := by
  unfold State.openOp
  grind -ring -linarith [State.placesWait_mem, State.readPrep_wf, State.askGrant_mem, State.updOp_mem, State.failOn_mem, State.vroute_wf, State.failSlot_mem,
    State.updCore_mem, State.updCell_mem]

@[simp] theorem State.scanStart_mem (s : State) (id tile : Nat) : (s.scanStart id tile).mem = s.mem := rfl

@[simp] theorem State.scanBegin_mem (s : State) (id : Nat) (o : Op) (ws : List (Nat × Nat)) : (s.scanBegin id o ws).mem = s.mem := by
  unfold State.scanBegin
  grind -ring -linarith [foldl_mem, State.scanStart_mem, State.updOp_mem]

@[simp] theorem State.scanFirst_mem (s : State) (id : Nat) (o : Op) (c : Chunk) : (s.scanFirst id o c).mem = s.mem := by
  unfold State.scanFirst
  grind -ring -linarith [State.scanBegin_mem]

theorem State.fillTile_wf (h : s.mem.wf = true) (id : Nat) (o : Op) (k : Nat) (va : DWord) (fmt e : Nat) : (s.fillTile id o k va fmt e).mem.wf = true := by
  unfold State.fillTile
  grind -ring -linarith [State.updCore_mem, State.updOp_mem, State.locPut_wf, State.countLand_wf]

@[simp] theorem State.fillBlocks_mem (s : State) (id : Nat) (o : Op) (k : Nat) (va : DWord) : (s.fillBlocks id o k va).mem = s.mem := by
  unfold State.fillBlocks
  grind -ring -linarith [State.updOp_mem]

@[simp] theorem State.classTile_mem (s : State) (id : Nat) (o : Op) (va : DWord) (e : Nat) : (s.classTile id o va e).mem = s.mem := by
  unfold State.classTile
  grind -ring -linarith [State.updOp_mem, State.scanStart_mem]

theorem State.landAll_wf (h : s.mem.wf = true) (id : Nat) (cs : List Chunk) : (s.landAll id cs).mem.wf = true := by
  unfold State.landAll
  grind -ring -linarith [foldl_wf, State.scanFirst_mem, State.landPiece_wf]

theorem State.landNext_wf (h : s.mem.wf = true) (id : Nat) : (s.landNext id).mem.wf = true := by
  unfold State.landNext
  split
  · exact h
  split
  · exact State.lateRelease_wf h ..
  split
  next now rest _ =>
    extract_lets s'
    have hs' : s'.mem.wf = true := by simpa [s'] using h
    clear_value s'
    clear h
    split
    · exact hs'
    split
    · exact hs'
    split
    · exact State.openOp_wf hs' ..
    · simpa using hs'
    split
    · grind -ring -linarith [State.updOp_mem, State.failOn_mem]
    split
    · simpa using hs'
    grind -ring -linarith [State.updOp_mem, State.joinSet_mem, State.classTile_mem, State.routes_wf, State.readPrep_wf, State.landAll_wf, State.locPut_wf,
    State.chunkWait_mem,
      State.fillTile_wf]

theorem State.unhold_wf (h : s.mem.wf = true) (u : FaultUnit) (o : Op) : (s.unhold u o).mem.wf = true := by
  unfold State.unhold
  grind -ring -linarith [State.placesWait_mem, State.count_wf, State.updOp_mem]

theorem State.unpark_wf (h : s.mem.wf = true) (fu : Nat) (u : FaultUnit) (back : Bool) : (s.unpark fu u back).mem.wf = true := by
  unfold State.unpark
  grind -ring -linarith [foldl_wf, State.updOp_mem, State.unhold_wf]

@[simp] theorem State.unscan_mem (s : State) (id : Nat) : (s.unscan id).mem = s.mem := rfl

theorem State.closeTile_wf (h : s.mem.wf = true) (id : Nat) (o : Op) (va : DWord) (pa fmt : Nat) : (s.closeTile id o va pa fmt).1.mem.wf = true := by
  unfold State.closeTile
  grind -ring -linarith [State.setTd_wf]

theorem State.closeTiles_wf (h : s.mem.wf = true) (id : Nat) (o : Op) : (s.closeTiles id o).mem.wf = true := by
  unfold State.closeTiles
  grind -ring -linarith [foldl_wf, State.closeTile_wf, State.unscan_mem]

@[simp] theorem State.closeFill_mem (s : State) (o : Op) (k fmt : Nat) : (s.closeFill o k fmt).mem = s.mem := by
  unfold State.closeFill
  grind -ring -linarith [State.updCore_mem]

theorem State.raiseBad_wf (h : s.mem.wf = true) (o : Op) : (s.raiseBad o).mem.wf = true := by
  unfold State.raiseBad
  grind -ring -linarith [State.contextMc_wf, State.updThread_mem]

@[simp] theorem State.noAcquire_mem (s : State) (t id : Nat) : (s.noAcquire t id).mem = s.mem := by
  unfold State.noAcquire
  grind -ring -linarith [State.updTeam_mem]

theorem State.finish_wf (h : s.mem.wf = true) (id : Nat) (o : Op) : (s.finish id o).mem.wf = true := by
  unfold State.finish
  grind -ring -linarith [foldl_wf, State.unscan_mem, State.closeTile_wf, State.closeFill_mem, State.updCell_mem, State.closeTiles_wf, State.raiseBad_wf,
    State.answer_mem, State.noAcquire_mem, State.updOp_mem]

@[simp] theorem State.addOp_mem (s : State) (o : Op) : (s.addOp o).2.mem = s.mem := by
  unfold State.addOp
  grind -ring -linarith [State.newId_mem, State.updTeam_mem]

theorem State.issueEach_wf {one : State → Nat → State} (h : s.mem.wf = true) (ho : ∀ (s : State) tid, s.mem.wf = true → (one s tid).mem.wf = true)
    (c : Iss) (gap : Nat) (room : State → Bool) : (s.issueEach c gap room one).mem.wf = true := by
  have each (l : List Nat) : (l.foldl (fun (acc : State × Bool) tid =>
      if acc.2 || !room acc.1 then (acc.1, true)
      else ((one acc.1 tid).updThread c.t tid (fun th => { th with part := true }), false)) (s, false)).1.mem.wf = true := by
    refine foldl_invariant (P := fun a : State × Bool => a.1.mem.wf = true) h (fun acc tid h => ?_) l
    grind -ring -linarith [State.updThread_mem]
  unfold State.issueEach
  grind -ring -linarith [State.updTeam_mem, State.advance_wf, State.hold_mem]

theorem State.copyOne_wf (h : s.mem.wf = true) (c : Iss) (cls : Nat) (kd : List Nat) (kind : OpKind) (chunks : List Chunk) (after : List Nat) (tid : Nat) :
    (s.copyOne c cls kd kind chunks after tid).mem.wf = true := by
  unfold State.copyOne
  grind -ring -linarith [State.newId_mem, State.owe_mem, State.writeRegs_mem, State.addOp_mem, State.landNext_wf]

theorem State.copies_wf (h : s.mem.wf = true) (st : BitVec 2) (u : Use) (cls : Nat) (kd : List Nat) (op : Iss → OpKind × List Chunk) :
    (s.copies st u cls kd op).mem.wf = true := by
  unfold State.copies
  grind -ring -linarith [State.forbiddenFree_wf, State.engineIssue_wf, State.issueEach_wf, State.copyOne_wf]

theorem State.recCopy_wf (h : s.mem.wf = true) (st : BitVec 2) (e : Eng) (cls n : Nat) (kd : List Nat) (a b : BitVec 6) :
    (s.recCopy st e cls n kd a b).mem.wf = true := by
  unfold State.recCopy
  grind -ring -linarith [State.copies_wf]

theorem State.lineOp_wf (h : s.mem.wf = true) (st : BitVec 2) (d a b : BitVec 6) (flush : Bool) : (s.lineOp st d a b flush).mem.wf = true := by
  refine State.forbiddenFree_wf h (fun s c h => State.inTurn_wf h ?_ c _ _) _
  extract_lets len ls
  split
  · grind -ring -linarith [foldl_wf, State.askLine_mem, State.defer_wf]
  next core s' token _ =>
    have hs' : s'.mem.wf = true := by grind -ring -linarith [foldl_wf, State.writeBack_wf, State.updCore_mem, State.ncDone_mem]
    exact State.advance_wf (foldl_invariant (P := fun a : State × Nat => a.1.mem.wf = true) hs' (fun _ _ h => by simpa using h) _) ..

theorem State.phaseOp_wf (h : s.mem.wf = true) (st : BitVec 2) (u : Use) (d a : BitVec 6) (g : BitVec 1) (reads : Bool) (pre : Iss → Nat)
    (rel : Option (State → PhAt → Bool)) (f : Iss → Phase × Nat → (Phase × Nat) × Nat × Nat) : (s.phaseOp st u d a g reads pre rel f).mem.wf = true := by
  refine State.forbiddenAs_wf h (fun s c h => State.inTurn_wf h ?_ c _ _) _ _
  grind -ring -linarith [foldl_wf, State.newId_mem, State.owe_mem, State.advance_wf, State.trapAll_wf, State.askHome_mem, State.fillTlb_mem, State.defer_wf,
    State.homePrep_wf, State.noRoute_wf, State.withRelease_wf, State.phUpdate_wf]

@[simp] theorem State.contributed_mem (s : State) (first : Nat) (e : Nat × Op × Nat × Bool) : (s.contributed first e).mem = s.mem := by
  unfold State.contributed
  grind -ring -linarith [State.updOp_mem]

theorem State.setElem_wf (h : s.mem.wf = true) (l : List (Nat × Op × Nat × Bool)) (w : Nat × List (Nat × Nat)) : (s.setElem l w).mem.wf = true := by
  unfold State.setElem
  grind -ring -linarith [foldl_wf, State.updOp_mem, State.homeWriteN_wf, State.homeWrite_wf]

theorem State.setPrep_wf (h : s.mem.wf = true) (l : List (Nat × Op × Nat × Bool)) (ps : List (Nat × Nat)) : (s.setPrep l ps).mem.wf = true := by
  unfold State.setPrep
  grind -ring -linarith [foldl_wf, State.homePrep_wf, State.scanBegin_mem, State.updOp_mem]

theorem State.tokens_wf {f : State → Nat → State × DWord} (h : s.mem.wf = true) (hf : ∀ (s : State) tid, s.mem.wf = true → (f s tid).1.mem.wf = true)
    (c : Iss) (gap d : Nat) : (s.tokens c gap d f).mem.wf = true := by
  unfold State.tokens
  grind -ring -linarith [foldl_wf, State.newId_mem, State.owe_mem, State.advance_wf]

@[simp] theorem State.tryRel_mem (s : State) (rel : Nat) : (s.tryRel rel).mem = s.mem := by
  unfold State.tryRel
  grind -ring -linarith [foldl_mem, State.updCore_mem, State.answer_mem]

@[simp] theorem State.holdMatrix_mem (s : State) (c : Iss) (m : Mat) : (s.holdMatrix c m).mem = s.mem := by
  unfold State.holdMatrix
  grind -ring -linarith [foldl_mem, State.newId_mem, State.hold_mem, State.updTeam_mem]

theorem State.matrix_wf (h : s.mem.wf = true) (st : BitVec 2) (u : Use) (f : Iss → State → Mat) : (s.matrix st u f).mem.wf = true := by
  refine State.gateFree_wf h (fun s c h => ?_) _
  grind -ring -linarith [State.trapAll_wf, State.holdMatrix_mem, State.splitTraps_wf, State.engineIssue_wf, State.issueEach_wf, State.updTeam_mem,
    State.addOp_mem]

theorem State.accMove_wf (h : s.mem.wf = true) (st : BitVec 2) (k : BitVec 6) (d : BitVec 7) (store : Bool) : (s.accMove st k d store).mem.wf = true := by
  unfold State.accMove
  grind -ring -linarith [State.gateFree_wf, State.trapAll_wf, State.engineIssue_wf, State.issueEach_wf, State.newId_mem, State.owe_mem, State.addOp_mem]

theorem State.accElem_wf {go : State → Iss → (Nat → Nat) → BitVec 5 → State} (h : s.mem.wf = true)
    (hg : ∀ (s : State) c row fl, s.mem.wf = true → (go s c row fl).mem.wf = true) (u : Use) (k n : Nat) (half : Option Nat) :
    (s.accElem u k n half go).mem.wf = true := by
  refine State.gate_wf h (fun s c h => ?_) _
  grind -ring -linarith [State.splitTraps_wf, State.hold_mem, State.updCore_mem, State.raiseFlags_wf]

/-!
Canonical memory, continued: teams, sets, launches and queues. Of an operation that answers with a `Res`, the rule is about every state in it.
-/

theorem State.storeArea_wf (h : s.mem.wf = true) (t kind : Nat) : (s.storeArea t kind).mem.wf = true := by
  unfold State.storeArea
  split
  · exact h
  next tm _ =>
    extract_lets a bad m s1 s2
    have hm : m.wf = true := foldl_invariant (P := fun m : Memory => m.wf = true) h (fun _ _ h => Memory.wf_storeNum _ _ _ _ h) _
    have h1 : s1.mem.wf = true := by
      clear_value m
      refine foldl_wf ?_ ?_ _
      · exact hm
      · intro s b h
        exact h
    have h2 : s2.mem.wf = true := foldl_wf h1 (fun _ _ h => State.contextMc_wf h ..) _
    exact h2

theorem State.loadArea_wf (h : s.mem.wf = true) (t : Nat) : (s.loadArea t).mem.wf = true := by
  unfold State.loadArea
  grind -ring -linarith [foldl_wf, State.readCheck_wf, State.updTeam_mem]

@[simp] theorem State.resume_mem (s : State) (t : Nat) : (s.resume t).mem = s.mem := by
  unfold State.resume
  grind -ring -linarith [State.updTeam_mem]

theorem State.activate_wf (h : s.mem.wf = true) (t base : Nat) (rotated : Bool) : (s.activate t base rotated).mem.wf = true := by
  unfold State.activate
  grind -ring -linarith [State.updTeam_mem, State.updCore_mem, State.putArea_wf, State.loadArea_wf, State.acquire_mem, State.resume_mem]

theorem State.lateWrite_wf (h : s.mem.wf = true) (t : Nat) (tm : Team) (w : Wb) (more : Bool) (x : DWord) : (s.lateWrite t tm w more x).mem.wf = true := by
  unfold State.lateWrite
  grind -ring -linarith [State.putArea_wf, State.updThread_mem]

theorem State.dissolve_wf (h : s.mem.wf = true) (t : Nat) : (s.dissolve t).mem.wf = true := by
  unfold State.dissolve
  grind -ring -linarith [foldl_wf, State.endRun_wf, State.updTeam_mem]

@[simp] theorem State.noteFull_mem (s : State) (core : Nat) : (s.noteFull core).mem = s.mem := by
  unfold State.noteFull
  grind -ring -linarith [State.updCore_mem]

theorem State.park_wf (h : s.mem.wf = true) (t : Nat) : (s.park t).mem.wf = true := by
  unfold State.park
  grind -ring -linarith [State.updTeam_mem, State.storeArea_wf, State.dissolve_wf, State.noteFull_mem]

@[simp] theorem State.clearAcc_mem (s : State) (tm : Team) : (s.clearAcc tm).mem = s.mem := by
  unfold State.clearAcc
  grind -ring -linarith [foldl_mem, State.updCore_mem]

theorem State.putTeam_wf (h : s.mem.wf = true) {t : Nat} {tm : Team} {core : Nat} {new : Bool} {s' : State} (e : s.putTeam t tm core new = some s') :
    s'.mem.wf = true := by
  unfold State.putTeam at e
  grind -ring -linarith [State.updDie_mem, State.clearAcc_mem, State.activate_wf, State.noteFull_mem]

@[simp] theorem State.releaseTeam_mem (s : State) (t : Nat) : (s.releaseTeam t).mem = s.mem := by
  unfold State.releaseTeam
  grind -ring -linarith [State.updCore_mem, State.updDie_mem]

/-- Whatever an operation on a set, a launch or a queue comes to, a state that it leaves has memory in canonical form. -/
def Res.wf : Res → Prop
  | .done s _ => s.mem.wf = true
  | .wait s => s.mem.wf = true
  | .bad s _ => s.mem.wf = true
  | .fail _ _ => True

theorem Res.wf_done (h : s.mem.wf = true) (v : List Nat) : (Res.done s v).wf := h

theorem Res.wf_wait (h : s.mem.wf = true) : (Res.wait s).wf := h

theorem Res.wf_bad (h : s.mem.wf = true) (b : Nat × DWord × Nat) : (Res.bad s b).wf := h

theorem State.askGrant_wf (h : s.mem.wf = true) (pa : Nat) (write : Bool) : (s.askGrant pa write).mem.wf = true :=
  (congrArg Memory.wf (State.askGrant_mem ..)).trans h

theorem State.sideRes_wf (h : s.mem.wf = true) (e : Side) : (s.sideRes e).wf := by
  unfold State.sideRes
  grind -ring -linarith [Res.wf, State.askGrant_mem]

theorem State.vseen_wf (h : s.mem.wf = true) (x : Xlat) (va : DWord) (n : Nat) : (s.vseen x va n).mem.wf = true := by
  unfold State.vseen
  grind -ring -linarith [State.contextMc_wf, State.vroute_wf]

theorem State.sawTags_wf (h : s.mem.wf = true) (x : Xlat) (e : SSet) (c : Nat) : (s.sawTags x e c).mem.wf = true := by
  unfold State.sawTags
  grind -ring -linarith [State.vseen_wf]

theorem State.sawRaises_wf (h : s.mem.wf = true) (x : Xlat) (e : SSet) : (s.sawRaises x e).mem.wf = true := by
  refine foldl_invariant (P := fun p : State × SSet => p.1.mem.wf = true) h (fun p r h => ?_) _
  grind -ring -linarith [State.sawTags_wf]

theorem State.opRaise_wf (h : s.mem.wf = true) (x : Xlat) (va : DWord) (cell amt : Nat) : (s.opRaise x va cell amt).wf := by
  unfold State.opRaise
  grind -ring -linarith [Res.wf, State.addRaise_mem]

theorem State.opQuery_wf (h : s.mem.wf = true) (x : Xlat) (va : DWord) (cell : Nat) : (s.opQuery x va cell).wf := by
  unfold State.opQuery
  grind -ring -linarith [Res.wf]

theorem State.sawDependents_wf (h : s.mem.wf = true) (x : Xlat) (e : SSet) (c : Nat) : (s.sawDependents x e c).mem.wf = true := by
  unfold State.sawDependents
  grind -ring -linarith [State.vseen_wf]

theorem State.prefetchRange_wf (h : s.mem.wf = true) (x : Xlat) (va : DWord) (n : Nat) : (s.prefetchRange x va n).mem.wf = true := by
  unfold State.prefetchRange
  grind -ring -linarith [foldl_wf, State.noRoute_wf, State.fillTlb_mem, State.askGrant_mem]

theorem State.prefetchCell_wf (h : s.mem.wf = true) (x : Xlat) (e : SSet) (c : Nat) : (s.prefetchCell x e c).1.mem.wf = true := by
  unfold State.prefetchCell
  grind -ring -linarith [State.askGrant_mem, State.vroute_wf, State.prefetchRange_wf]

theorem State.lookAhead_wf (h : s.mem.wf = true) (sid : Nat) : (s.lookAhead sid).mem.wf = true := by
  unfold State.lookAhead
  split
  · exact h
  split
  · exact h
  extract_lets now r
  have hr : r.1.mem.wf = true := by
    refine foldl_invariant (P := fun a : State × List Nat => a.1.mem.wf = true) h (fun acc c h => ?_) _
    grind -ring -linarith [State.prefetchCell_wf]
  exact hr

theorem State.opCommit_wf (h : s.mem.wf = true) (x : Xlat) (t a w0 w1 : Nat) : (s.opCommit x t a w0 w1).wf := by
  unfold State.opCommit
  extract_lets st dep amt res
  have hst (n : Nat) : (st n).wf := h
  clear_value st
  split
  · exact hst _
  split
  · exact hst _
  split
  · exact hst _
  split
  · exact hst _
  next e _ =>
    extract_lets s1 s2
    have h1 : s1.mem.wf = true := by grind -ring -linarith [State.sawDependents_wf]
    have h2 : s2.mem.wf = true := by grind -ring -linarith [State.sawTags_wf]
    split
    · exact hst _
    split
    · exact hst _
    split
    · exact hst _
    · exact h
    next l _ =>
    split
    · exact hst _
    split
    · exact hst _
    split
    · exact State.sideRes_wf h _
    next ds _ =>
    extract_lets rs nv s3
    split
    · exact State.sideRes_wf h _
    next e' _ =>
    extract_lets s4
    have h3 : s3.mem.wf = true := State.sawRaises_wf h2 ..
    exact State.lookAhead_wf (s := s4) h3 _

theorem State.unitWrite_wf (h : s.mem.wf = true) {x : Xlat} {va : DWord} {bs : List Byte} {s' : State} (e : s.unitWrite x va bs = .ok s') :
    s'.mem.wf = true := by
  unfold State.unitWrite at e
  grind -ring -linarith [State.homeWriteN_wf, State.noRoute_wf]

theorem State.deadWrite_wf (h : s.mem.wf = true) {dead : List Nat} {x : Xlat} {va : DWord} {bs : List Byte} {s' : State}
    (e : s.deadWrite dead x va bs = .ok s') : s'.mem.wf = true := by
  unfold State.deadWrite at e
  grind -ring -linarith [State.unitWrite_wf]

@[simp] theorem State.unitAsk_mem (s : State) (x : Xlat) (va : DWord) : (s.unitAsk x va).mem = s.mem := by
  unfold State.unitAsk
  grind -ring -linarith [State.askGrant_mem]

theorem State.unitAsk_wf (h : s.mem.wf = true) (x : Xlat) (va : DWord) : (s.unitAsk x va).mem.wf = true :=
  (congrArg Memory.wf (State.unitAsk_mem ..)).trans h

theorem State.startCells_wf (h : s.mem.wf = true) {x : Xlat} {e : SSet} {r : Res} (he : s.startCells x e = .error r) : r.wf := by
  suffices all : ∀ r, s.startCells x e = .error r → r.wf from all r he
  refine foldl_invariant (P := fun a : Except Res _ => ∀ r, a = .error r → r.wf) (by rintro _ ⟨⟩) (fun acc c ih => ?_) _
  grind -ring -linarith [Res.wf, State.askGrant_mem, State.sideRes_wf]

theorem State.sawStart_wf (h : s.mem.wf = true) (x : Xlat) (e : SSet) (cells : FMap Cell) (wa : DWord) (wn : Nat) :
    (s.sawStart x e cells wa wn).mem.wf = true := by
  unfold State.sawStart
  grind -ring -linarith [foldl_wf, State.vroute_wf, State.vseen_wf]

theorem State.begin_wf (h : s.mem.wf = true) (x : Xlat) (e : SSet) (cells : FMap Cell) (bad : List (Nat × Nat)) (watch : List (Nat × Nat × Word))
    (dead : List Nat) : (s.begin x e cells bad watch dead).wf := by
  unfold State.begin
  grind -ring -linarith [Res.wf, State.deadWrite_wf, State.unitAsk_mem, foldl_wf, State.contextMc_wf, State.lookAhead_wf]

theorem State.opStart_wf (h : s.mem.wf = true) (x : Xlat) (va : DWord) (dead : List Nat) : (s.opStart x va dead).wf := by
  unfold State.opStart
  split
  · exact Res.wf_done h _
  split
  · trivial
  · exact Res.wf_wait (State.askGrant_wf h ..)
  · exact Res.wf_bad h _
  next bs _ =>
    have h1 := State.vroute_wf h x va 256
    generalize s.vroute x va 256 = s1 at h1
    extract_lets pa e wa wn
    split
    · exact Res.wf_done h1 _
    split
    · exact Res.wf_done h1 _
    split
    · exact Res.wf_done h1 _
    split
    · trivial
    · exact Res.wf_wait (State.askGrant_wf h1 ..)
    · exact Res.wf_bad h1 _
    split
    · trivial
    split
    · next hc => exact State.startCells_wf h1 hc
    · exact State.begin_wf (State.sawStart_wf h1 ..) ..

theorem State.opStop_wf (h : s.mem.wf = true) (x : Xlat) (va : DWord) (wb : Option (Nat × Nat)) (cmd : Option Nat) : (s.opStop x va wb cmd).wf := by
  unfold State.opStop
  grind -ring -linarith [Res.wf, State.askGrant_mem]

@[simp] theorem State.parkSet_mem (s : State) (sid : Nat) (e : SSet) (va : DWord) : (s.parkSet sid e va).mem = s.mem := by
  unfold State.parkSet
  grind -ring -linarith [State.newId_mem]

theorem State.setWrite_ok_wf (h : s.mem.wf = true) {sid : Nat} {e : SSet} {va : DWord} {bs : List Byte} {s' : State}
    (he : s.setWrite sid e va bs = .ok s') : s'.mem.wf = true := by
  unfold State.setWrite at he
  grind -ring -linarith [State.unitWrite_wf]

theorem State.setWrite_error_mem {sid : Nat} {e : SSet} {va : DWord} {bs : List Byte} {s' : State}
    (he : s.setWrite sid e va bs = .error s') : s'.mem = s.mem := by
  unfold State.setWrite at he
  grind -ring -linarith [State.unitAsk_mem, State.parkSet_mem]

theorem State.setWrites_wf (h : s.mem.wf = true) {sid : Nat} {e : SSet} {l : List (DWord × List Byte)} {s' : State}
    (he : s.setWrites sid e l = .ok s' ∨ s.setWrites sid e l = .error s') : s'.mem.wf = true := by
  suffices all : ∀ s', s.setWrites sid e l = .ok s' ∨ s.setWrites sid e l = .error s' → s'.mem.wf = true from all s' he
  refine foldl_invariant (P := fun a : Except State State => ∀ s', a = .ok s' ∨ a = .error s' → s'.mem.wf = true) (by grind -ring -linarith)
    (fun acc w ih => ?_) _
  grind -ring -linarith [State.setWrite_ok_wf, State.setWrite_error_mem]

theorem State.dispatch_wf (h : s.mem.wf = true) {die sid : Nat} {e : SSet} {cell : Nat} {c : Cell} {s' : State}
    (he : s.dispatch die sid e cell c = some s') : s'.mem.wf = true := by
  unfold State.dispatch at he
  grind -ring -linarith [State.newId_mem, State.putTeam_wf, State.lookAhead_wf, State.acquire_mem]

theorem State.slotTry_wf (h : s.mem.wf = true) {die : Nat} {w : FMap Int} {fuel : Nat} {classes : List Nat} {s' : State}
    (e : s.slotTry die w fuel classes = some s') : s'.mem.wf = true := by
  induction fuel generalizing classes with
  | zero => cases e
  | succ fuel ih =>
    unfold State.slotTry at e
    extract_lets d at e
    split at e
    · cases e
    extract_lets ss n last after pick at e
    split at e
    · next sid s1 hs =>
      obtain ⟨p, -, hp⟩ := Option.bind_eq_some_iff.mp hs
      obtain ⟨s2, hd, hs2⟩ := Option.map_eq_some_iff.mp hp
      cases hs2
      rw [← Option.some.inj e, State.updDie_mem]
      exact State.dispatch_wf h hd
    · exact ih e

theorem State.settleCell_wf (h : s.mem.wf = true) (tm : Team) (fault : Bool) : (s.settleCell tm fault).mem.wf = true := by
  unfold State.settleCell
  grind -ring -linarith [State.lookAhead_wf]

theorem State.cellError_wf (h : s.mem.wf = true) (half : Nat) : (s.cellError half).mem.wf = true := by
  unfold State.cellError
  grind -ring -linarith [foldl_wf, State.contextMc_wf, State.lookAhead_wf]

theorem State.arriveAt_wf (h : s.mem.wf = true) {x : Xlat} {va : DWord} {s' : State} (e : s.arriveAt x va = .ok s') : s'.mem.wf = true := by
  unfold State.arriveAt at e
  grind -ring -linarith [State.noRoute_wf, State.phUpdate_wf]

theorem State.deadArrive_wf (h : s.mem.wf = true) {dead : List Nat} {x : Xlat} {va : DWord} {s' : State} (e : s.deadArrive dead x va = .ok s') :
    s'.mem.wf = true := by
  unfold State.deadArrive at e
  grind -ring -linarith [State.arriveAt_wf]

theorem State.writesOut_wf (sid : Nat) (e : SSet) (l : List (DWord × List Byte)) (h : s.mem.wf = true) : (s.writesOut sid e l).1.mem.wf = true := by
  induction l generalizing s with
  | nil => exact h
  | cons w l ih =>
    unfold State.writesOut
    grind -ring -linarith [State.setWrite_ok_wf, State.setWrite_error_mem]

@[simp] theorem State.updSet_mem (s : State) (sid : Nat) (f : SSet → SSet) : (s.updSet sid f).mem = s.mem := rfl

theorem State.signalSet_wf (h : s.mem.wf = true) (sid : Nat) (e : SSet) (l : List (DWord × List Byte)) : (s.signalSet sid e l).mem.wf = true := by
  unfold State.signalSet
  grind -ring -linarith [State.writesOut_wf, State.updSet_mem, State.interrupt_wf, State.deadArrive_wf, State.unitAsk_mem, State.parkSet_mem]

@[simp] theorem State.stopDone_mem (s : State) (e : SSet) : (s.stopDone e).mem = s.mem := by
  unfold State.stopDone
  grind -ring -linarith [State.answer_mem]

theorem State.opLaunch_wf (h : s.mem.wf = true) (x : Xlat) (a : Ask) : (s.opLaunch x a).wf := by
  unfold State.opLaunch
  grind -ring -linarith (splits := 40) [Res.wf, State.askGrant_mem, State.vroute_wf, State.newId_mem, State.updDie_mem]

theorem State.putGrid_wf (h : s.mem.wf = true) {lid : Nat} {l : Launch} {cl q : Nat} {s' : State} (e : s.putGrid lid l cl q = some s') :
    s'.mem.wf = true := by
  unfold State.putGrid at e
  split at e
  · cases e
  · obtain ⟨s1, h1, rfl⟩ := Option.map_eq_some_iff.mp e
    simpa using State.putTeam_wf (by simpa using h) h1

theorem State.putAll_wf (h : s.mem.wf = true) {lid : Nat} {l : Launch} {cl : Nat} {qs : List Nat} {s' : State} (e : s.putAll lid l cl qs = some s') :
    s'.mem.wf = true := by
  suffices all : ∀ s', s.putAll lid l cl qs = some s' → s'.mem.wf = true from all s' e
  refine foldl_invariant (P := fun a : Option State => ∀ s', a = some s' → s'.mem.wf = true) (by rintro _ ⟨⟩; exact h) (fun acc q ih s' e => ?_) _
  obtain ⟨s1, h1, h2⟩ := Option.bind_eq_some_iff.mp e
  exact State.putGrid_wf (ih _ h1) h2

theorem State.placeLaunch_wf (h : s.mem.wf = true) {lid : Nat} {l : Launch} {s' : State} (e : s.placeLaunch lid l = some s') : s'.mem.wf = true := by
  unfold State.placeLaunch at e
  split at e
  · obtain ⟨cl, -, hc⟩ := List.exists_of_findSome?_eq_some e
    obtain ⟨s1, h1, rfl⟩ := Option.map_eq_some_iff.mp hc
    have := State.putGrid_wf h h1
    exact this
  · obtain ⟨cl, -, hc⟩ := List.exists_of_findSome?_eq_some e
    obtain ⟨s1, h1, rfl⟩ := Option.map_eq_some_iff.mp hc
    have := State.putAll_wf h h1
    exact this

theorem State.placeSaved_wf (h : s.mem.wf = true) {t : Nat} {tm : Team} {s' : State} (e : s.placeSaved t tm = some s') : s'.mem.wf = true := by
  obtain ⟨i, -, hi⟩ := List.exists_of_findSome?_eq_some e
  obtain ⟨core, -, hc⟩ := Option.bind_eq_some_iff.mp hi
  exact State.putTeam_wf h hc

theorem State.placeId_wf (h : s.mem.wf = true) {id : Nat} {r : Nat × State} (e : s.placeId id = some r) : r.2.mem.wf = true := by
  unfold State.placeId at e
  split at e
  · obtain ⟨s1, h1, rfl⟩ := Option.map_eq_some_iff.mp e
    exact State.placeLaunch_wf h h1
  · obtain ⟨s1, h1, rfl⟩ := Option.map_eq_some_iff.mp e
    exact State.placeSaved_wf h h1
  · cases e

theorem State.finishLaunch_wf (h : s.mem.wf = true) (lid : Nat) : (s.finishLaunch lid).mem.wf = true := by
  unfold State.finishLaunch
  split
  · exact h
  next l _ =>
    extract_lets gone status count x park
    have hg (s : State) (h : s.mem.wf = true) : (gone s).mem.wf = true := h
    clear_value gone
    split
    · exact h
    split
    · exact hg _ h
    split
    · exact hg _ h
    have hp (va : DWord) : (park va).mem.wf = true := by
      simp only [park]
      split
      · exact h
      · exact (State.newId_mem s).symm ▸ h
    have ha (va : DWord) : (s.unitAsk x va).mem.wf = true := (State.unitAsk_mem ..).symm ▸ h
    clear_value park
    split
    · exact ha _
    · exact hp _
    next s1 hw =>
    have h1 := State.deadWrite_wf h hw
    split
    · next s2 hr => exact hg _ (State.deadArrive_wf h1 hr)
    · exact ha _
    · exact hp _

theorem State.finishLaunches_wf (h : s.mem.wf = true) : s.finishLaunches.mem.wf = true := by
  unfold State.finishLaunches
  grind -ring -linarith [foldl_wf, State.finishLaunch_wf]

@[simp] theorem State.qview_mem (s : State) (die q : Nat) : (s.qview die q).1.mem = s.mem := by
  unfold State.qview
  grind -ring -linarith [State.updDie_mem]

theorem State.opQput_wf (h : s.mem.wf = true) (x : Xlat) (va : DWord) (w : Nat) (cmd : List DWord) (dead : List Nat) : (s.opQput x va w cmd dead).wf := by
  unfold State.opQput
  extract_lets st
  have hst (n : Nat) : (st n).wf := h
  clear_value st
  split
  · trivial
  split
  · exact hst _
  · exact hst _
  next q _ _ =>
    split
    · exact hst _
    split
    · exact h
    extract_lets n
    have h1 : (s.qview x.die q).1.mem.wf = true := (State.qview_mem ..).symm ▸ h
    split
    next s1 wp rp hv =>
    rw [hv] at h1
    split
    · exact h1
    extract_lets slot at_
    split
    · trivial
    · exact Res.wf_wait (State.unitAsk_wf h1 ..)
    · next hw => exact State.qUpdate_wf (State.deadWrite_wf h1 hw) ..

theorem State.tryOp_wf (h : s.mem.wf = true) (o : Op) (e : Eng) (args : List DWord) : (s.tryOp o e args).1.wf := by
  unfold State.tryOp
  extract_lets x va w d m bad a
  clear_value x va w
  split
  · have := State.opRaise_wf h x va (bits w 23 0) (bits w 63 32)
    grind -ring -linarith [Res.wf]
  · exact State.opQuery_wf h ..
  · have hr : ∀ r, o.team.map (fun t => s.opCommit x t va.toNat w (arg args 2).toNat) = some r → r.wf := by
      rintro r hr
      obtain ⟨t, -, rfl⟩ := Option.map_eq_some_iff.mp hr
      exact State.opCommit_wf h ..
    split
    · next hd => exact Res.wf_done (hr _ hd) _
    · next hd => exact hr _ hd
    · exact Res.wf_done h _
  · exact State.opStart_wf h ..
  · exact State.opStop_wf h ..
  · clear_value a bad
    have hr : (if bad = true then Res.done s [0, 5] else s.opLaunch x a).wf := by
      split
      · exact h
      · exact State.opLaunch_wf h x a
    generalize (if bad = true then Res.done s [0, 5] else s.opLaunch x a) = r at hr
    split
    · exact Res.wf_done hr _
    · exact hr
  · have := State.opQput_wf h x va w (args.drop 2) o.dead
    grind -ring -linarith [Res.wf]
  · exact h

theorem State.endOp_wf (h : s.mem.wf = true) (id : Nat) (o : Op) (v : List Nat) (nv : Bool) : (s.endOp id o v nv).mem.wf = true := by
  unfold State.endOp
  grind -ring -linarith [foldl_wf, State.answer_mem, State.crumb_wf, State.updTeam_mem]

theorem State.directNext_wf (h : s.mem.wf = true) (id : Nat) (o : Op) (e : Eng) (args : List DWord) : (s.directNext id o e args).mem.wf = true := by
  unfold State.directNext
  split
  · exact State.endOp_wf h ..
  split
  · exact State.endOp_wf (State.raiseBad_wf h ..) ..
  next args _ =>
    have hr := State.tryOp_wf (s := s.updOp id (fun o => { o with kind := .record e args })) (by simpa using h) o e args
    generalize State.tryOp _ o e args = r at hr
    grind -ring -linarith [Res.wf, State.endOp_wf, State.raiseBad_wf, State.updOp_mem]

theorem State.opNext_wf (h : s.mem.wf = true) (id : Nat) : (s.opNext id).mem.wf = true := by
  unfold State.opNext
  grind -ring -linarith [State.landNext_wf, State.lateRelease_wf, State.directNext_wf]

theorem State.direct_wf (h : s.mem.wf = true) (st : BitVec 2) (u : Use) (rel : Bool) (e : Eng) (kd : List Nat) (pd : Option Nat)
    (args : State → Iss → List DWord) : (s.direct st u rel e kd pd args).mem.wf = true := by
  refine State.forbiddenFree_wf h (fun s c h => State.engineIssue_wf h (fun s after h => State.advance_wf ?_ ..) c rel) _
  refine foldl_invariant (P := fun a : State × Option Nat => a.1.mem.wf = true) h (fun acc tid h => ?_) _
  grind -ring -linarith [State.newId_mem, State.owe_mem, State.addOp_mem, State.opNext_wf]

theorem State.rotate_wf (h : s.mem.wf = true) {core t : Nat} {tm : Team} {fuel : Nat} {s' : State} (e : s.rotate core t tm fuel = some s') :
    s'.mem.wf = true := by
  induction fuel generalizing s with
  | zero => cases e
  | succ fuel ih =>
    unfold State.rotate at e
    grind -ring -linarith [State.activate_wf, State.park_wf]

theorem State.rotateFirst_wf (h : s.mem.wf = true) {core fuel : Nat} {l : List (Nat × Team)} {s' : State} (e : s.rotateFirst core fuel l = some s') :
    s'.mem.wf = true := by
  induction fuel generalizing l with
  | zero => cases e
  | succ fuel ih =>
    unfold State.rotateFirst at e
    split at e
    · cases e
    next t tm _ =>
      cases hr : s.rotate core t tm 17 with
      | none => rw [hr] at e; exact ih e
      | some s1 => rw [hr] at e; exact Option.some.inj e ▸ State.rotate_wf h hr

@[simp] theorem State.tally_mem (s : State) (tm : Team) : (s.tally tm).mem = s.mem := by
  unfold State.tally
  grind -ring -linarith

theorem State.gather_wf (h : s.mem.wf = true) (t : Nat) (tm : Team) : (s.gather t tm).mem.wf = true := by
  unfold State.gather
  grind -ring -linarith [foldl_wf, State.release_wf, State.loadArea_wf, State.dissolve_wf, State.abortRegion_wf]

@[simp] theorem State.freeCores_mem (s : State) (die : Nat) : (s.freeCores die).mem = s.mem := by
  unfold State.freeCores
  grind -ring -linarith [foldl_mem, State.updCore_mem]

/-!
Canonical memory, continued: holders, host writes, packages, commands and boot.
-/

theorem State.collectPage_wf (h : s.mem.wf = true) (page : Nat) (drop : Bool) : (s.collectPage page drop).mem.wf = true := by
  unfold State.collectPage
  grind -ring -linarith [foldl_wf, State.writeBack_wf, State.updCore_mem]

@[simp] theorem State.setHolder_mem (s : State) (page : Nat) (h : Holder) : (s.setHolder page h).mem = s.mem := rfl

theorem State.serve_wf (fuel page : Nat) (h : s.mem.wf = true) : (s.serve page fuel).mem.wf = true := by
  induction fuel generalizing s with
  | zero => exact h
  | succ fuel ih =>
    unfold State.serve
    grind -ring -linarith [State.setHolder_mem, State.collectPage_wf]

theorem State.holderRequest_wf (h : s.mem.wf = true) (pkg page : Nat) (write : Bool) : (s.holderRequest pkg page write).mem.wf = true := by
  unfold State.holderRequest
  grind -ring -linarith [State.serve_wf, State.setHolder_mem]

theorem State.recall_wf (h : s.mem.wf = true) (page : Nat) (invalidate : Bool) : (s.recall page invalidate).mem.wf = true := by
  unfold State.recall
  grind -ring -linarith [State.collectPage_wf]

theorem State.recallsAgain_wf (h : s.mem.wf = true) : s.recallsAgain.mem.wf = true := by
  unfold State.recallsAgain
  grind -ring -linarith [foldl_wf, State.recall_wf]

theorem State.privGate_wf {k : Iss → State} (h : s.mem.wf = true) (hk : ∀ c, (k c).mem.wf = true) (u : Use) : (s.privGate u k).mem.wf = true :=
  State.gate_wf h (by grind -ring -linarith [State.trapAll_wf]) u

@[simp] theorem State.postpone_mem (s : State) (pa : Nat) (bs : List Byte) : (s.postpone pa bs).mem = s.mem := rfl

theorem State.outWrite_wf (h : s.mem.wf = true) (pa : Nat) (bs : List Byte) : (s.outWrite pa bs).mem.wf = true := by
  unfold State.outWrite
  grind -ring -linarith [foldl_wf, State.postpone_mem, State.askGrant_mem, State.homeWriteN_wf]

theorem Memory.wf_filter (m : Memory) (p : Host.Cell → Bool) (h : m.wf = true) : Memory.wf (m.filter p) = true := by
  obtain ⟨h1, h2⟩ := (Memory.wf_iff m).mp h
  exact (Memory.wf_iff _).mpr ⟨FMap.rising_filter _ _ h1, fun c hc => h2 c (List.mem_filter.mp hc).1⟩

theorem State.renumber_wf (h : s.mem.wf = true) (new : Nat) : (s.renumber new).mem.wf = true :=
  foldl_invariant (P := fun m : Memory => m.wf = true) (Memory.wf_filter _ _ h) (fun _ _ h => Memory.wf_store _ _ _ h) _

theorem State.takeOver_wf (h : s.mem.wf = true) (pkg : Nat) : (s.takeOver pkg).mem.wf = true := by
  unfold State.takeOver
  grind -ring -linarith [State.renumber_wf]

theorem State.spares_wf (h : s.mem.wf = true) : s.spares.mem.wf = true := by
  unfold State.spares
  grind -ring -linarith [foldl_wf, State.takeOver_wf]

@[simp] theorem State.parkCmd_mem (s : State) (q : Nat) (va : DWord) (write : Bool) : (s.parkCmd q va write).mem = s.mem := by
  unfold State.parkCmd
  grind -ring -linarith [State.newId_mem]

theorem State.begins_wf {k : Cmd → Xlat → State} (h : s.mem.wf = true) (hk : ∀ c x, (k c x).mem.wf = true) (q op : Nat) :
    (s.begins q op k).mem.wf = true := by
  unfold State.begins
  grind -ring -linarith

@[simp] theorem State.cmdEnd_mem (s : State) (q st : Nat) : (s.cmdEnd q st).mem = s.mem := rfl

@[simp] theorem State.cmdRun_mem (s : State) (q : Nat) (op : Option Nat) : (s.cmdRun q op).mem = s.mem := rfl

theorem State.cmdRes_wf {r : Res} {k : State → List Nat → State} (h : s.mem.wf = true) (hr : r.wf)
    (hk : ∀ s v, s.mem.wf = true → (k s v).mem.wf = true) (q : Nat) : (s.cmdRes q r k).mem.wf = true := by
  unfold State.cmdRes
  grind -ring -linarith [Res.wf, State.contextMc_wf, State.cmdEnd_mem, State.parkCmd_mem]

theorem State.parkCmd_wf (h : s.mem.wf = true) (q : Nat) (va : DWord) (write : Bool) : (s.parkCmd q va write).mem.wf = true :=
  (congrArg Memory.wf (State.parkCmd_mem ..)).trans h

theorem State.complete_wf (h : s.mem.wf = true) (q : Nat) (c : Cmd) : (s.complete q c).mem.wf = true := by
  unfold State.complete
  extract_lets x fin ph arrive
  have hfin (s : State) (h : s.mem.wf = true) : (fin s).mem.wf = true := State.qUpdate_wf h ..
  clear_value fin
  have harr (s1 : State) (h1 : s1.mem.wf = true) : (arrive s1).mem.wf = true := by
    simp only [arrive]
    split
    · exact hfin _ h1
    split
    · next hd => exact hfin _ (State.deadArrive_wf h1 hd)
    · exact State.unitAsk_wf h ..
    · exact State.parkCmd_wf h ..
  clear_value arrive
  split
  · next hw => exact harr _ (State.deadWrite_wf h hw)
  · exact State.unitAsk_wf h ..
  · exact State.parkCmd_wf h ..

@[simp] theorem State.start_mem (s : State) (src : Nat) : (s.start src).mem = s.mem := rfl

@[simp] theorem State.fail_mem (s : State) (src reason : Nat) : (s.fail src reason).mem = s.mem := rfl

/-!
Canonical memory, instruction by instruction and event by event: each meaning is a composition of the operations above.
-/

/-- A step's outcome leaves memory in canonical form, if it leaves a state at all. -/
def Out.wf : Out → Prop
  | .next s => s.mem.wf = true
  | _ => True

theorem execMovi_wf (h : s.mem.wf = true) (st : BitVec 2) (d : BitVec 7) (i : BitVec 16) : Out.wf (execMovi st d i s) := by
  unfold execMovi
  grind -ring -linarith [Out.wf, State.gate_wf, State.laneRun_wf]

theorem execMovk_wf (h : s.mem.wf = true) (st : BitVec 2) (k : BitVec 6) (v : BitVec 7) : Out.wf (execMovk st k v s) := by
  unfold execMovk
  grind -ring -linarith [Out.wf, State.gate_wf, State.laneRun_wf]

theorem execPlog_wf (h : s.mem.wf = true) (st : BitVec 2) (d : BitVec 3) (c : BitVec 4) (a b : BitVec 3) : Out.wf (execPlog st d c a b s) := by
  unfold execPlog
  grind -ring -linarith [Out.wf, State.gate_wf, State.laneRun_wf]

theorem execSel_wf (h : s.mem.wf = true) (st : BitVec 2) (p : BitVec 2) (d a b : BitVec 7) : Out.wf (execSel st p d a b s) := by
  unfold execSel
  grind -ring -linarith [Out.wf, State.gate_wf, State.laneRun_wf]

theorem execRunh_wf (h : s.mem.wf = true) (len : BitVec 5) (trl : BitVec 1) (pred : BitVec 3) (sense : BitVec 1) (chk : BitVec 1) :
    Out.wf (execRunh len trl pred sense chk s) := by
  unfold execRunh
  split
  · exact h
  next c0 _ =>
  extract_lets s1 s2
  have h1 : s1.mem.wf = true := foldl_wf h (fun _ _ h => State.atHeader_wf h ..) _
  have h2 : s2.mem.wf = true := (congrArg Memory.wf (State.refresh_mem s1 c0.t)).trans h1
  clear_value s1 s2
  split
  · exact h2
  next c _ =>
  extract_lets hdr x zero
  split
  · refine State.headerFails_wf ?_ ..
    split
    · exact State.routeRun_wf h2 ..
    · exact h2
  next body tw next _ =>
  extract_lets s3 as s4
  have h3 : s3.mem.wf = true := State.routeCode_wf h2 ..
  have h4 : s4.mem.wf = true := (congrArg Memory.wf (State.waitCross_mem s3 c.t c.gid as)).trans h3
  clear_value s3 s4
  grind -ring -linarith [Out.wf, State.updTeam_mem]

theorem execRunt_wf (h : s.mem.wf = true) (c0 c1 c2 : BitVec 7) (cnt : BitVec 4) : Out.wf (execRunt c0 c1 c2 cnt s) := by
  unfold execRunt
  grind -ring -linarith [Out.wf, State.endRun_wf]

theorem execBra_wf (h : s.mem.wf = true) (cond : BitVec 4) (sense : BitVec 1) (off : BitVec 20) : Out.wf (execBra cond sense off s) := by
  unfold execBra
  grind -ring -linarith [Out.wf, State.gate_wf, State.branch_wf]

theorem execCall_wf (h : s.mem.wf = true) (v : BitVec 7) (imm : BitVec 16) : Out.wf (execCall v imm s) := by
  unfold execCall
  grind -ring -linarith [Out.wf, State.gate_wf, State.writeRegs_mem, State.branch_wf]

theorem execRet_wf (h : s.mem.wf = true) (v : BitVec 7) : Out.wf (execRet v s) := by
  unfold execRet
  grind -ring -linarith [Out.wf, State.gate_wf, State.branch_wf]

theorem execJmpk_wf (h : s.mem.wf = true) (k : BitVec 6) : Out.wf (execJmpk k s) := by
  unfold execJmpk
  grind -ring -linarith [Out.wf, State.gate_wf, State.branch_wf]

theorem execExit_wf (h : s.mem.wf = true) : Out.wf (execExit s) := by
  unfold execExit
  grind -ring -linarith [Out.wf, foldl_wf, State.gate_wf, State.advance_wf, State.updTeam_mem, State.orphanChecks_wf]

theorem execTrap_wf (h : s.mem.wf = true) (_st : BitVec 2) (n : BitVec 21) : Out.wf (execTrap _st n s) := by
  unfold execTrap
  grind -ring -linarith [Out.wf, State.gate_wf, State.trapThreads_wf]

theorem execBkpt_wf (h : s.mem.wf = true) (_st : BitVec 2) (n : BitVec 21) : Out.wf (execBkpt _st n s) := by
  unfold execBkpt
  grind -ring -linarith [Out.wf, State.gate_wf, State.trapThreads_wf]

theorem execYield_wf (h : s.mem.wf = true) (st : BitVec 2) : Out.wf (execYield st s) := by
  unfold execYield
  grind -ring -linarith [Out.wf, foldl_wf, State.forbiddenFree_wf, State.splitTraps_wf, State.advance_wf, State.updTeam_mem]

theorem execSign_wf (h : s.mem.wf = true) (st : BitVec 2) (n : BitVec 3) : Out.wf (execSign st n s) := by
  unfold execSign
  grind -ring -linarith [Out.wf, foldl_wf, State.gate_wf, State.trapAll_wf, State.updTeam_mem, State.advance_wf, State.hold_mem]

theorem execCvset_wf (h : s.mem.wf = true) (st : BitVec 2) (n : BitVec 3) (i : BitVec 11) : Out.wf (execCvset st n i s) := by
  unfold execCvset
  grind -ring -linarith [Out.wf, State.gate_wf, State.trapAll_wf, State.advance_wf, State.updTeam_mem]

theorem execKcmp_wf (h : s.mem.wf = true) (st : BitVec 2) (a b : BitVec 6) : Out.wf (execKcmp st a b s) := by
  unfold execKcmp
  grind -ring -linarith [Out.wf, State.gate_wf, State.advance_wf, State.writeRegs_mem]

theorem execKld_wf (h : s.mem.wf = true) (st : BitVec 2) (d a o : BitVec 6) (w h : BitVec 2) : Out.wf (execKld st d a o w h s) := by
  unfold execKld
  grind -ring -linarith [Out.wf, State.gateMem_wf, State.trapAll_wf, State.uload_wf, State.fillTlb_mem, State.defer_wf, State.newId_mem, State.advance_wf,
    State.owe_mem, State.noRoute_wf]

theorem execKst_wf (h : s.mem.wf = true) (st : BitVec 2) (d a o : BitVec 6) (w h : BitVec 2) : Out.wf (execKst st d a o w h s) := by
  unfold execKst
  grind -ring -linarith [Out.wf, State.forbidden_wf, State.trapAll_wf, State.defer_wf, State.fillTlb_mem, State.disarm_mem, State.release_wf,
    State.ustore_wf, State.ncStored_mem, State.advance_wf]

theorem execKwr_wf (h : s.mem.wf = true) (st : BitVec 2) (k : BitVec 6) (e : BitVec 8) : Out.wf (execKwr st k e s) := by
  unfold execKwr
  grind -ring -linarith [Out.wf, State.gate_wf, State.updTeam_mem, State.writeRegs_mem, State.advance_wf]

theorem execLds_wf (h : s.mem.wf = true) (st w : BitVec 2) (d a o : BitVec 7) : Out.wf (execLds st w d a o s) := by
  unfold execLds
  grind -ring -linarith [Out.wf, State.gateMem_wf, State.splitTraps_wf, State.pinFirst_wf, State.oweAll_wf]

theorem execSts_wf (h : s.mem.wf = true) (st w : BitVec 2) (d a o : BitVec 7) : Out.wf (execSts st w d a o s) := by
  unfold execSts
  grind -ring -linarith [Out.wf, foldl_wf, State.gateMem_wf, State.splitTraps_wf, State.pinFirst_wf, State.withRelease_wf, State.advance_wf,
    State.scrWrite_mem]

theorem execAtoms_wf (h : s.mem.wf = true) (st r : BitVec 2) (d a : BitVec 7) (o : BitVec 5) (z : BitVec 2) : Out.wf (execAtoms st r d a o z s) := by
  refine State.forbidden_wf h (fun s c0 h => State.splitTraps_wf h (fun s c h => State.pinFirst_wf h ?_ ..) ..) ..
  exact State.withRelease_wf h (fun s h => State.atomDone_wf (State.atomEach_wf h ..) ..) ..

theorem execAtomg_wf (h : s.mem.wf = true) (st r : BitVec 2) (d a : BitVec 7) (o : BitVec 5) (z : BitVec 2) : Out.wf (execAtomg st r d a o z s) := by
  refine State.forbidden_wf h (fun s c0 h => State.splitTraps_wf h (fun s c h => ?_) ..) ..
  extract_lets at_ l tr
  split
  · exact State.defer_wf (by simpa using h) ..
  · refine State.withRelease_wf h (fun s h => ?_) ..
    extract_lets s1 reqs
    have h1 : s1.mem.wf = true := State.prepAll_wf h ..
    clear_value s1 reqs
    grind -ring -linarith [State.atomDone_wf, State.atomRun_wf, State.homeWrite_wf]

theorem execFget_wf (h : s.mem.wf = true) (st : BitVec 2) (d a : BitVec 7) (p : BitVec 3) : Out.wf (execFget st d a p s) := by
  unfold execFget
  grind -ring -linarith [Out.wf, foldl_wf, State.forbidden_wf, State.splitTraps_wf, State.defer_wf, State.fillAll_mem, State.askGrants_mem, State.prepAll_wf,
    State.advance_wf, State.fgetAt_mem]

theorem execFput_wf (h : s.mem.wf = true) (st : BitVec 2) (d a : BitVec 7) (p : BitVec 3) : Out.wf (execFput st d a p s) := by
  unfold execFput
  grind -ring -linarith [Out.wf, foldl_wf, State.forbidden_wf, State.splitTraps_wf, State.defer_wf, State.fillAll_mem, State.askGrants_mem,
    State.withRelease_wf, State.prepAll_wf, State.advance_wf, State.answerDeferred_mem, State.homeWrite_wf, State.newId_mem, State.owe_mem]

theorem execQlock_wf (h : s.mem.wf = true) (st : BitVec 2) (d a : BitVec 7) (p : BitVec 3) : Out.wf (execQlock st d a p s) := by
  unfold execQlock
  grind -ring -linarith [Out.wf, foldl_wf, State.forbidden_wf, State.splitTraps_wf, State.defer_wf, State.fillAll_mem, State.askGrants_mem, State.prepAll_wf,
    State.advance_wf, State.newId_mem, State.owe_mem, State.setLock_mem]

theorem execQunlock_wf (h : s.mem.wf = true) (st : BitVec 2) (a : BitVec 7) : Out.wf (execQunlock st a s) := by
  unfold execQunlock
  grind -ring -linarith [Out.wf, foldl_wf, State.forbidden_wf, State.splitTraps_wf, State.defer_wf, State.fillAll_mem, State.askGrants_mem,
    State.withRelease_wf, State.prepAll_wf, State.advance_wf, State.setLock_mem]

theorem execFence_wf (h : s.mem.wf = true) (st : BitVec 2) (cl : BitVec 2) (d : BitVec 7) (e : BitVec 2) : Out.wf (execFence st cl d e s) := by
  unfold execFence
  grind -ring -linarith [Out.wf, foldl_wf, State.gateFree_wf, State.writeRegs_mem, State.updTeam_mem, State.advance_wf]

theorem execPwaitS_wf (h : s.mem.wf = true) (st : BitVec 2) (k : BitVec 6) (v : BitVec 7) : Out.wf (execPwaitS st k v s) := by
  unfold execPwaitS
  grind -ring -linarith [Out.wf, State.forbiddenFree_wf, State.trapAll_wf, State.pwaitGo_wf]

theorem execPwaitG_wf (h : s.mem.wf = true) (st : BitVec 2) (k : BitVec 6) (v : BitVec 7) : Out.wf (execPwaitG st k v s) := by
  unfold execPwaitG
  grind -ring -linarith [Out.wf, State.forbiddenFree_wf, State.trapAll_wf, State.hold_mem, State.askHome_mem, State.homePrep_wf, State.fillTlb_mem,
    State.noRoute_wf, State.pwaitGo_wf]

theorem execPwaitCnt_wf (h : s.mem.wf = true) (st : BitVec 2) (cnt : BitVec 2) (thr : BitVec 7) : Out.wf (execPwaitCnt st cnt thr s) := by
  unfold execPwaitCnt
  grind -ring -linarith [Out.wf, State.forbiddenFree_wf, State.pwaitGo_wf]

theorem execPwaitFence_wf (h : s.mem.wf = true) (st : BitVec 2) (v : BitVec 7) : Out.wf (execPwaitFence st v s) := by
  unfold execPwaitFence
  grind -ring -linarith [Out.wf, State.forbiddenFree_wf, State.pwaitGo_wf]

theorem execPwaitLock_wf (h : s.mem.wf = true) (st : BitVec 2) (v : BitVec 7) : Out.wf (execPwaitLock st v s) := by
  unfold execPwaitLock
  grind -ring -linarith [Out.wf, State.forbiddenFree_wf, State.pwaitGo_wf]

theorem execHdrain_wf (h : s.mem.wf = true) (st : BitVec 2) (k : BitVec 6) (q : BitVec 7) : Out.wf (execHdrain st k q s) := by
  unfold execHdrain
  grind -ring -linarith [Out.wf, foldl_wf, State.hashEach_wf, State.scrPut_mem, State.spillRoute_wf, State.clearTable_mem]

theorem execHstat_wf (h : s.mem.wf = true) (st : BitVec 2) (k : BitVec 6) (q : BitVec 7) : Out.wf (execHstat st k q s) := by
  unfold execHstat
  grind -ring -linarith [Out.wf, State.hashEach_wf]

theorem execHclaim_wf (h : s.mem.wf = true) (st : BitVec 2) (k : BitVec 6) (q : BitVec 7) : Out.wf (execHclaim st k q s) := by
  unfold execHclaim
  grind -ring -linarith [Out.wf, State.hashEach_wf, State.clearTable_mem]

theorem execHrel_wf (h : s.mem.wf = true) (st : BitVec 2) (k : BitVec 6) (q : BitVec 7) : Out.wf (execHrel st k q s) := by
  unfold execHrel
  grind -ring -linarith [Out.wf, State.hashEach_wf, State.scrPut_mem]

theorem execXbegin_wf (h : s.mem.wf = true) (st : BitVec 2) (e : BitVec 1) (k : BitVec 6) (v : BitVec 7) : Out.wf (execXbegin st e k v s) := by
  unfold execXbegin
  grind -ring -linarith [Out.wf, foldl_wf, State.forbiddenFree_wf, State.hold_mem, State.advance_wf, State.updTeam_mem]

theorem execXend_wf (h : s.mem.wf = true) (st : BitVec 2) (k : BitVec 6) (v : BitVec 7) : Out.wf (execXend st k v s) := by
  unfold execXend
  grind -ring -linarith [Out.wf, foldl_wf, State.gateFree_wf, State.splitTraps_wf, State.splitAborts_wf, State.engineIssue_wf, State.newId_mem,
    State.owe_mem, State.updThread_mem, State.advance_wf, State.updTeam_mem]

theorem execXabort_wf (h : s.mem.wf = true) (st : BitVec 2) (n : BitVec 7) : Out.wf (execXabort st n s) := by
  unfold execXabort
  grind -ring -linarith [Out.wf, foldl_wf, State.gateFree_wf, State.abortRegion_wf, State.issued_mem, State.advance_wf]

theorem execXrd_wf (h : s.mem.wf = true) (st : BitVec 2) (e : BitVec 1) (v : BitVec 7) : Out.wf (execXrd st e v s) := by
  unfold execXrd
  grind -ring -linarith [Out.wf, State.gate_wf, State.oweAll_wf]

theorem execXld_wf (h : s.mem.wf = true) (st w : BitVec 2) (d a : BitVec 7) (o : BitVec 6) : Out.wf (execXld st w d a o s) := by
  unfold execXld
  grind -ring -linarith [Out.wf, foldl_wf, State.xGate_wf, State.fillAll_mem, State.advance_wf, State.newId_mem, State.updThread_mem, State.sendReq_mem,
    State.owe_mem]

theorem execXst_wf (h : s.mem.wf = true) (st w : BitVec 2) (d a : BitVec 7) (o : BitVec 6) : Out.wf (execXst st w d a o s) := by
  unfold execXst
  grind -ring -linarith [Out.wf, foldl_wf, State.xGate_wf, State.fillAll_mem, State.advance_wf, State.updThread_mem, State.sendReq_mem]

theorem execGranuleRequest_wf (h : s.mem.wf = true) (req : Nat) : Out.wf (execGranuleRequest req s) := by
  unfold execGranuleRequest
  grind -ring -linarith [Out.wf, foldl_wf, State.askHome_mem, State.answer_mem, State.updThread_mem, State.abortRegion_wf, State.homePrep_wf,
    State.setGran_mem, State.narrowFor_mem]

theorem execNarrowing_wf (h : s.mem.wf = true) (msg : Nat) : Out.wf (execNarrowing msg s) := by
  unfold execNarrowing
  grind -ring -linarith [Out.wf, State.imageRegion_wf, State.updThread_mem]

theorem execSeal_wf (h : s.mem.wf = true) (team thread : Nat) : Out.wf (execSeal team thread s) := by
  unfold execSeal
  grind -ring -linarith [Out.wf, State.updRegion_mem, State.release_wf, State.setGran_mem, State.imageRegion_wf, State.updThread_mem, State.abortRegion_wf]

theorem execCommitApply_wf (h : s.mem.wf = true) (team thread : Nat) : Out.wf (execCommitApply team thread s) := by
  unfold execCommitApply
  grind -ring -linarith [Out.wf, State.askGrant_mem, State.updRegion_mem, State.applyAt_wf, State.acquire_mem, State.dropRegion_mem, State.updTeam_mem]

theorem execFaultUnitPark_wf (h : s.mem.wf = true) (op : Nat) : Out.wf (execFaultUnitPark op s) := by
  unfold execFaultUnitPark
  grind -ring -linarith [Out.wf, foldl_wf, State.updOp_mem, State.placesWait_mem, State.count_wf, State.newId_mem]

theorem execCpyredSetInstall_wf (h : s.mem.wf = true) (start n : Nat) : Out.wf (execCpyredSetInstall start n s) := by
  unfold execCpyredSetInstall
  grind -ring -linarith [Out.wf, foldl_wf, State.askHome_mem, State.contributed_mem, State.setElem_wf, State.setPrep_wf]

theorem execEngineRetire_wf (h : s.mem.wf = true) (team cls : Nat) : Out.wf (execEngineRetire team cls s) := by
  unfold execEngineRetire
  grind -ring -linarith [Out.wf, State.updTeam_mem, State.raiseMatrix_wf]

theorem execSclaim_wf (h : s.mem.wf = true) (st : BitVec 2) (d a : BitVec 6) : Out.wf (execSclaim st d a s) := by
  unfold execSclaim
  grind -ring -linarith [Out.wf, foldl_wf, State.forbiddenFree_wf, State.tokens_wf, State.updCore_mem]

theorem execSrel_wf (h : s.mem.wf = true) (st : BitVec 2) (d a : BitVec 6) : Out.wf (execSrel st d a s) := by
  unfold execSrel
  grind -ring -linarith [Out.wf, foldl_wf, State.forbiddenFree_wf, State.advance_wf, State.newId_mem, State.owe_mem, State.tryRel_mem]

theorem execSclass_wf (h : s.mem.wf = true) (st : BitVec 2) (d a : BitVec 6) : Out.wf (execSclass st d a s) := by
  unfold execSclass
  grind -ring -linarith [Out.wf, State.forbiddenFree_wf, State.tokens_wf]

theorem execAzero_wf (h : s.mem.wf = true) (st : BitVec 2) (k : BitVec 6) : Out.wf (execAzero st k s) := by
  unfold execAzero
  grind -ring -linarith [Out.wf, State.gateFree_wf, State.trapAll_wf, State.engineIssue_wf, State.issueEach_wf, State.addOp_mem]

theorem execAwin_wf (h : s.mem.wf = true) (st : BitVec 2) (k : BitVec 6) : Out.wf (execAwin st k s) := by
  unfold execAwin
  grind -ring -linarith [Out.wf, foldl_wf, State.gate_wf, State.trapAll_wf, State.advance_wf, State.updTeam_mem]

theorem execArd_wf (h : s.mem.wf = true) (st : BitVec 2) (k : BitVec 6) (d : BitVec 7) (n : BitVec 6) (h : BitVec 1) : Out.wf (execArd st k d n h s) := by
  unfold execArd
  grind -ring -linarith [Out.wf, State.accElem_wf, State.oweAll_wf]

theorem execAwr_wf (h : s.mem.wf = true) (st : BitVec 2) (k : BitVec 6) (d : BitVec 7) (n : BitVec 6) (h : BitVec 1) : Out.wf (execAwr st k d n h s) := by
  unfold execAwr
  grind -ring -linarith [Out.wf, foldl_wf, State.accElem_wf, State.advance_wf, State.updCore_mem]

theorem execApromo_wf (h : s.mem.wf = true) (st : BitVec 2) (n : BitVec 7) : Out.wf (execApromo st n s) := by
  unfold execApromo
  grind -ring -linarith [Out.wf, State.gate_wf, State.advance_wf, State.updTeam_mem]

theorem execEngineComplete_wf (h : s.mem.wf = true) (op : Nat) : Out.wf (execEngineComplete op s) := by
  unfold execEngineComplete
  split
  · exact h
  next o _ =>
  split
  · exact h
  split
  · exact h
  split
  · exact h
  · grind -ring -linarith [Out.wf, State.finish_wf]
  · split
    · exact h
    · grind -ring -linarith [Out.wf, State.finish_wf, State.updCore_mem]
  · grind -ring -linarith [Out.wf, State.finish_wf, State.updCore_mem]
  · exact State.lookAhead_wf (State.finish_wf h ..) _
  · exact State.finish_wf h ..

theorem execRaiseAbsorb_wf (h : s.mem.wf = true) (sid : Nat) : Out.wf (execRaiseAbsorb sid s) := by
  unfold execRaiseAbsorb
  grind -ring -linarith [Out.wf, State.lookAhead_wf, State.sawTags_wf, State.askGrant_mem, State.parkSet_mem]

theorem execDispatchSlot_wf (h : s.mem.wf = true) (die : Nat) : Out.wf (execDispatchSlot die s) := by
  unfold execDispatchSlot
  extract_lets s1 w classes
  have h1 : s1.mem.wf = true := (congrArg Memory.wf (State.fwTake_mem s die)).trans h
  cases hs : s1.slotTry die w classes.length classes with
  | none => exact h
  | some s2 => exact State.slotTry_wf h1 hs

theorem execQuiescenceRecord_wf (h : s.mem.wf = true) (sid : Nat) : Out.wf (execQuiescenceRecord sid s) := by
  unfold execQuiescenceRecord
  grind -ring -linarith [Out.wf, State.signalSet_wf, State.updSet_mem]

theorem execSstopComplete_wf (h : s.mem.wf = true) (sid : Nat) : Out.wf (execSstopComplete sid s) := by
  unfold execSstopComplete
  grind -ring -linarith [Out.wf, State.setWrites_wf, State.stopDone_mem]

theorem execTeamPlace_wf (h : s.mem.wf = true) (die : Nat) : Out.wf (execTeamPlace die s) := by
  unfold execTeamPlace
  split
  · next d s1 hs =>
    obtain ⟨id, -, hid⟩ := List.exists_of_findSome?_eq_some hs
    have h1 := State.placeId_wf h hid
    split
    · exact h1
    · exact h
  · exact h

theorem execResultWriteback_wf (h : s.mem.wf = true) (team i : Nat) : Out.wf (execResultWriteback team i s) := by
  unfold execResultWriteback
  grind -ring -linarith [Out.wf, State.acquire_mem, State.updTeam_mem, State.lateWrite_wf]

theorem execFenceComplete_wf (h : s.mem.wf = true) (team thread : Nat) : Out.wf (execFenceComplete team thread s) := by
  unfold execFenceComplete
  grind -ring -linarith [Out.wf, State.release_wf, State.updThread_mem]

theorem execScratchPageRefill_wf (h : s.mem.wf = true) (team page : Nat) : Out.wf (execScratchPageRefill team page s) := by
  unfold execScratchPageRefill
  grind -ring -linarith [Out.wf, State.updTeam_mem, State.updCore_mem]

theorem execWaiterReevaluate_wf (h : s.mem.wf = true) (team : Nat) : Out.wf (execWaiterReevaluate team s) := by
  unfold execWaiterReevaluate
  grind -ring -linarith [Out.wf, State.updTeam_mem]

theorem execFaultReplay_wf (h : s.mem.wf = true) (fu : Nat) : Out.wf (execFaultReplay fu s) := by
  unfold execFaultReplay
  grind -ring -linarith [Out.wf, State.unpark_wf, State.finishLaunch_wf]

theorem execFaultDeclareUnserviceable_wf (h : s.mem.wf = true) (fu : Nat) : Out.wf (execFaultDeclareUnserviceable fu s) := by
  unfold execFaultDeclareUnserviceable
  grind -ring -linarith [Out.wf, State.unpark_wf, State.opNext_wf, State.updOp_mem, State.finishLaunch_wf]

theorem execTeamActivate_wf (h : s.mem.wf = true) (core : Nat) : Out.wf (execTeamActivate core s) := by
  unfold execTeamActivate
  grind -ring -linarith [Out.wf, State.activate_wf]

theorem execTeamPark_wf (h : s.mem.wf = true) (core : Nat) : Out.wf (execTeamPark core s) := by
  unfold execTeamPark
  grind -ring -linarith [Out.wf, State.park_wf]

theorem execRotation_wf (h : s.mem.wf = true) (core : Nat) : Out.wf (execRotation core s) := by
  unfold execRotation
  extract_lets due
  split
  · exact h
  cases hr : s.rotateFirst core due.length due with
  | none => exact h
  | some s1 => exact State.rotateFirst_wf h hr

theorem execTeamRetire_wf (h : s.mem.wf = true) (team : Nat) : Out.wf (execTeamRetire team s) := by
  unfold execTeamRetire
  grind -ring -linarith [Out.wf, State.settleCell_wf, State.dropRegions_mem, State.release_wf, State.releaseTeam_mem, State.tally_mem, State.finishLaunch_wf]

theorem execDiscardRequeue_wf (h : s.mem.wf = true) (team : Nat) : Out.wf (execDiscardRequeue team s) := by
  unfold execDiscardRequeue
  grind -ring -linarith [Out.wf, State.settleCell_wf, State.releaseTeam_mem]

theorem execTeamSave_wf (h : s.mem.wf = true) (team : Nat) : Out.wf (execTeamSave team s) := by
  unfold execTeamSave
  grind -ring -linarith [Out.wf, State.updTeam_mem, State.gather_wf, State.startDiscard_wf, State.contextMc_wf, State.storeArea_wf, State.updCore_mem,
    State.updDie_mem]

theorem execPreemptionComplete_wf (h : s.mem.wf = true) (die : Nat) : Out.wf (execPreemptionComplete die s) := by
  unfold execPreemptionComplete
  grind -ring -linarith [Out.wf, State.interrupt_wf, State.updDie_mem, State.freeCores_mem]

theorem execLineReadRequest_wf (h : s.mem.wf = true) (core line : Nat) : Out.wf (execLineReadRequest core line s) := by
  unfold execLineReadRequest
  grind -ring -linarith [Out.wf, foldl_wf, State.makeRoom_wf, State.updCore_mem, State.setDent_mem]

theorem execExclusiveRequest_wf (h : s.mem.wf = true) (core line : Nat) : Out.wf (execExclusiveRequest core line s) := by
  unfold execExclusiveRequest
  grind -ring -linarith [Out.wf, foldl_wf, State.updCore_mem, State.setDent_mem]

theorem execInvalidation_wf (h : s.mem.wf = true) (core line : Nat) : Out.wf (execInvalidation core line s) := by
  unfold execInvalidation
  grind -ring -linarith [Out.wf, State.updCore_mem, State.setDent_mem]

theorem execInvalidationAck_wf (h : s.mem.wf = true) (_core line : Nat) : Out.wf (execInvalidationAck _core line s) := by
  unfold execInvalidationAck
  grind -ring -linarith [Out.wf, State.setDent_mem]

theorem execEvictionNotice_wf (h : s.mem.wf = true) (core line : Nat) : Out.wf (execEvictionNotice core line s) := by
  unfold execEvictionNotice
  grind -ring -linarith [Out.wf, State.evict_wf, State.askLine_mem]

theorem execExclusiveGrant_wf (h : s.mem.wf = true) (core line : Nat) : Out.wf (execExclusiveGrant core line s) := by
  unfold execExclusiveGrant
  grind -ring -linarith [Out.wf, State.askGrant_mem, State.makeRoom_wf, State.homeWrite_wf, State.noRoute_wf, State.setDent_mem, State.updCore_mem]

theorem execLineWriteback_wf (h : s.mem.wf = true) (core line : Nat) : Out.wf (execLineWriteback core line s) := by
  unfold execLineWriteback
  grind -ring -linarith [Out.wf, State.writeBack_wf, State.askLine_mem]

theorem execRecallAnswer_wf (h : s.mem.wf = true) (pkg page : Nat) : Out.wf (execRecallAnswer pkg page s) := by
  unfold execRecallAnswer
  grind -ring -linarith [Out.wf, State.serve_wf, State.setHolder_mem]

theorem execHolderRelease_wf (h : s.mem.wf = true) (pkg page : Nat) : Out.wf (execHolderRelease pkg page s) := by
  unfold execHolderRelease
  grind -ring -linarith [Out.wf, State.collectPage_wf, State.setHolder_mem]

theorem execHolderGrant_wf (h : s.mem.wf = true) (page : Nat) (excl : Bool) : Out.wf (execHolderGrant page excl s) := by
  unfold execHolderGrant
  grind -ring -linarith [Out.wf, State.serve_wf]

theorem execSrd_wf (h : s.mem.wf = true) (st : BitVec 2) (k : BitVec 6) (r : BitVec 15) : Out.wf (execSrd st k r s) := by
  unfold execSrd
  grind -ring -linarith [Out.wf, State.privGate_wf, State.newId_mem, State.advance_wf, State.owe_mem]

theorem execSwr_wf (h : s.mem.wf = true) (st : BitVec 2) (k : BitVec 6) (r : BitVec 15) : Out.wf (execSwr st k r s) := by
  unfold execSwr
  grind -ring -linarith [Out.wf, State.privGate_wf, State.advance_wf]

theorem execTlbi_wf (h : s.mem.wf = true) (st : BitVec 2) (k : BitVec 6) : Out.wf (execTlbi st k s) := by
  unfold execTlbi
  grind -ring -linarith [Out.wf, State.privGate_wf, State.advance_wf, State.hold_mem, State.newId_mem]

theorem execTlbShootdownAck_wf (h : s.mem.wf = true) (die shoot : Nat) : Out.wf (execTlbShootdownAck die shoot s) := by
  unfold execTlbShootdownAck
  grind -ring -linarith [Out.wf, foldl_wf, State.dropLine_wf, State.release_wf, State.updDie_mem]

theorem execHostWrite_wf (h : s.mem.wf = true) (pa : Nat) (data : List (BitVec 8)) : Out.wf (execHostWrite pa data s) := by
  unfold execHostWrite
  grind -ring -linarith [Out.wf, foldl_wf, State.outWrite_wf]

theorem execControlCoreAccess_wf (h : s.mem.wf = true) (write : Bool) (pa w : Nat) (v : BitVec 64) : Out.wf (execControlCoreAccess write pa w v s) := by
  unfold execControlCoreAccess
  grind -ring -linarith [Out.wf, State.outWrite_wf]

theorem execFlitReceive_wf (h : s.mem.wf = true) (intact : Bool) (pa : Nat) (data : List (BitVec 8)) : Out.wf (execFlitReceive intact pa data s) := by
  unfold execFlitReceive
  grind -ring -linarith [Out.wf, State.postpone_mem, State.homeWriteN_wf]

theorem execPackageFailure_wf (h : s.mem.wf = true) (pkg : Nat) : Out.wf (execPackageFailure pkg s) := by
  unfold execPackageFailure
  grind -ring -linarith [Out.wf, foldl_wf, State.serve_wf]

theorem execThermalThrottle_wf (h : s.mem.wf = true) (cluster : Nat) : Out.wf (execThermalThrottle cluster s) := by
  unfold execThermalThrottle
  grind -ring -linarith [Out.wf]

theorem execThrottleEnd_wf (h : s.mem.wf = true) (cluster : Nat) : Out.wf (execThrottleEnd cluster s) := by
  unfold execThrottleEnd
  grind -ring -linarith [Out.wf]

theorem execDoorbell_wf (h : s.mem.wf = true) (q : Nat) (wp : BitVec 64) : Out.wf (execDoorbell q wp s) := by
  unfold execDoorbell
  grind -ring -linarith [Out.wf, State.ring_wf]

theorem execReplicaInvalidate_wf (h : s.mem.wf = true) (die q : Nat) : Out.wf (execReplicaInvalidate die q s) := by
  unfold execReplicaInvalidate
  grind -ring -linarith [Out.wf, State.updDie_mem]

theorem execQueueFetch_wf (h : s.mem.wf = true) (q : Nat) : Out.wf (execQueueFetch q s) := by
  unfold execQueueFetch
  grind -ring -linarith [Out.wf, Memory.wf_storeNum, State.askGrant_mem, State.qUpdate_wf, State.contextMc_wf, State.vroute_wf]

theorem execLaunch_wf (h : s.mem.wf = true) (q : Nat) : Out.wf (execLaunch q s) := by
  unfold execLaunch
  grind -ring -linarith [Out.wf, State.begins_wf, State.cmdRes_wf, State.opLaunch_wf, State.cmdRun_mem, State.cmdEnd_mem]

theorem execStartSet_wf (h : s.mem.wf = true) (q : Nat) : Out.wf (execStartSet q s) := by
  unfold execStartSet
  grind -ring -linarith [Out.wf, State.begins_wf, State.cmdRes_wf, State.opStart_wf, State.cmdEnd_mem]

theorem execStopSet_wf (h : s.mem.wf = true) (q : Nat) : Out.wf (execStopSet q s) := by
  unfold execStopSet
  grind -ring -linarith [Out.wf, State.begins_wf, State.cmdRes_wf, State.opStop_wf, State.cmdRun_mem, State.cmdEnd_mem]

theorem execRaise_wf (h : s.mem.wf = true) (q : Nat) : Out.wf (execRaise q s) := by
  unfold execRaise
  grind -ring -linarith [Out.wf, State.begins_wf, State.cmdRes_wf, State.opRaise_wf, State.cmdEnd_mem]

theorem execCopy_wf (h : s.mem.wf = true) (q : Nat) : Out.wf (execCopy q s) := by
  unfold execCopy
  grind -ring -linarith [Out.wf, State.begins_wf, State.addOp_mem, State.cmdRun_mem]

theorem execSignal_wf (h : s.mem.wf = true) (q : Nat) : Out.wf (execSignal q s) := by
  unfold execSignal
  grind -ring -linarith [Out.wf, State.begins_wf, State.cmdEnd_mem, State.arriveAt_wf, State.unitAsk_mem, State.parkCmd_mem]

theorem execWait_wf (h : s.mem.wf = true) (q : Nat) : Out.wf (execWait q s) := by
  unfold execWait
  grind -ring -linarith [Out.wf, State.begins_wf, State.cmdEnd_mem, State.parkCmd_mem, State.askGrant_mem, State.noRoute_wf, State.contextMc_wf]

theorem execCommandComplete_wf (h : s.mem.wf = true) (q : Nat) : Out.wf (execCommandComplete q s) := by
  unfold execCommandComplete
  grind -ring -linarith [Out.wf, State.complete_wf]

theorem execRegisterWrite_wf (h : s.mem.wf = true) (off : Nat) (v : BitVec 64) : Out.wf (execRegisterWrite off v s) := by
  unfold execRegisterWrite
  grind -ring -linarith [Out.wf, State.setMmio4_mem, State.setMmio8_wf]

theorem State.keptMem_wf (h : s.mem.wf = true) : s.keptMem.wf = true := Memory.wf_filter _ _ h

theorem execDeviceReset_wf (h : s.mem.wf = true) : Out.wf (execDeviceReset s) := State.keptMem_wf h

theorem execBootImageVerified_wf (h : s.mem.wf = true) : Out.wf (execBootImageVerified s) := by
  unfold execBootImageVerified
  grind -ring -linarith [Out.wf, State.start_mem, State.fail_mem]

theorem execRecoveryImageVerified_wf (h : s.mem.wf = true) : Out.wf (execRecoveryImageVerified s) := by
  unfold execRecoveryImageVerified
  grind -ring -linarith [Out.wf, State.start_mem, State.fail_mem]

theorem execAttestReportReady_wf (h : s.mem.wf = true) : Out.wf (execAttestReportReady s) := by
  unfold execAttestReportReady
  split
  · exact h
  · exact h

/-!
Canonical memory, all instructions and events together.
-/

/-- Executing any instruction or event keeps memory in canonical form. -/
theorem exec_wf (h : s.mem.wf = true) (i : Instr) : Out.wf (exec i s) := by
  cases i with
  | iadd | isub | imul | imin | imax | and | or | xor | andn | shl | shr | sar | rol | bfx | bfxS | mov | iadd16 | isub16 | imul16 | imin16 | imax16
  | and16 | or16 | xor16 | shl16 | shr16 | sar16 | fadd | fmul | fmin | fmax | fminNum | fmaxNum | hadd | hmul | fadd16 | fmul16 | fmin16 | fmax16 =>
    exact State.lane2_wf h ..
  | imad | bfi | addmin | addmax | ffma | hfma | hfmaBf16x2 => exact State.lane3_wf h ..
  | popc | clz | ctz | brev | not | abs | neg | iaddi | andi | ori | xori | shli | shri | sari | roli | fneg | fabs | frcp | fsqrt | frsq | fexp2
  | flog2 | fsin | fcos => exact State.lane1_wf h ..
  | movi => exact execMovi_wf h ..
  | movk => exact execMovk_wf h ..
  | icmp | fcmp => exact State.laneCmp_wf h ..
  | plog => exact execPlog_wf h ..
  | sel => exact execSel_wf h ..
  | dadd | dmul | dfma => exact State.laneW3_wf h ..
  | dneg | dabs | drcp | dsqrt | cvt => exact State.laneW1_wf h ..
  | runh => exact execRunh_wf h ..
  | runt => exact execRunt_wf h ..
  | bra => exact execBra_wf h ..
  | call => exact execCall_wf h ..
  | ret => exact execRet_wf h ..
  | jmpk => exact execJmpk_wf h ..
  | exit => exact execExit_wf h
  | trap st n => exact execTrap_wf h st n
  | bkpt st n => exact execBkpt_wf h st n
  | yield => exact execYield_wf h ..
  | eret | eretSkip => exact State.eret_wf h ..
  | nop | stall => exact State.gate_wf h (fun _ _ h => State.advance_wf h ..) _
  | sign => exact execSign_wf h ..
  | cvset => exact execCvset_wf h ..
  | kadd | ksub | kmul | kand | kor | kxor | kshl | kshr | ksar | kmin | kmax | kminn | kmaxn => exact State.k2_wf h ..
  | kcmp => exact execKcmp_wf h ..
  | kaddi | kldi | krd | kmovv => exact State.uniform_wf h ..
  | kld => exact execKld_wf h ..
  | kst => exact execKst_wf h ..
  | kwr => exact execKwr_wf h ..
  | elect | shfl => exact State.cross_wf h ..
  | voteAny | voteAll | voteBallot => exact State.vote_wf h ..
  | matchAny | credAdd | credMin | credMax | cscanIncl | cscanExcl => exact State.cross1_wf h ..
  | compress | expand => exact State.pack_wf h ..
  | lds => exact execLds_wf h ..
  | sts => exact execSts_wf h ..
  | atoms => exact execAtoms_wf h ..
  | atomg => exact execAtomg_wf h ..
  | fget => exact execFget_wf h ..
  | fput => exact execFput_wf h ..
  | qlock => exact execQlock_wf h ..
  | qunlock => exact execQunlock_wf h ..
  | fence => exact execFence_wf h ..
  | pwaitS => exact execPwaitS_wf h ..
  | pwaitG => exact execPwaitG_wf h ..
  | pwaitCnt => exact execPwaitCnt_wf h ..
  | pwaitFence => exact execPwaitFence_wf h ..
  | pwaitLock => exact execPwaitLock_wf h ..
  | hins | hprobe | hdel | hacc => exact State.hashOp_wf h ..
  | hdrain => exact execHdrain_wf h ..
  | hstat => exact execHstat_wf h ..
  | hclaim => exact execHclaim_wf h ..
  | hrel => exact execHrel_wf h ..
  | xbegin => exact execXbegin_wf h ..
  | xend => exact execXend_wf h ..
  | xabort => exact execXabort_wf h ..
  | xrd => exact execXrd_wf h ..
  | xld => exact execXld_wf h ..
  | xst => exact execXst_wf h ..
  | granuleRequest => exact execGranuleRequest_wf h ..
  | narrowing => exact execNarrowing_wf h ..
  | commitApply => exact execCommitApply_wf h ..
  | faultUnitPark => exact execFaultUnitPark_wf h ..
  | cpy | cpyredArr | cpyredOrd | icpy | isct | sread | pref => exact State.recCopy_wf h ..
  | tclass => exact State.copies_wf h ..
  | cflush | cinv => exact State.lineOp_wf h ..
  | binit | barrive | bexpect => exact State.phaseOp_wf h ..
  | cpyredSetInstall => exact execCpyredSetInstall_wf h ..
  | engineRetire => exact execEngineRetire_wf h ..
  | sclaim => exact execSclaim_wf h ..
  | srel => exact execSrel_wf h ..
  | slotRelease => exact (congrArg Memory.wf (State.tryRel_mem ..)).trans h
  | sclass => exact execSclass_wf h ..
  | mma | mmasp | mmag => exact State.matrix_wf h ..
  | azero => exact execAzero_wf h ..
  | ald | ast => exact State.accMove_wf h ..
  | awin => exact execAwin_wf h ..
  | ard => exact execArd_wf h ..
  | awr => exact execAwr_wf h ..
  | apromo => exact execApromo_wf h ..
  | engineComplete => exact execEngineComplete_wf h ..
  | raiseAbsorb => exact execRaiseAbsorb_wf h ..
  | dispatchSlot => exact execDispatchSlot_wf h ..
  | quiescenceRecord => exact execQuiescenceRecord_wf h ..
  | sstopComplete => exact execSstopComplete_wf h ..
  | teamPlace => exact execTeamPlace_wf h ..
  | engineBytesLand => exact State.opNext_wf h ..
  | scommit | sraise | squery | sstart | sstop | glaunch | qput => exact State.direct_wf h ..
  | resultWriteback => exact execResultWriteback_wf h ..
  | fenceComplete => exact execFenceComplete_wf h ..
  | scratchPageRefill => exact execScratchPageRefill_wf h ..
  | waiterReevaluate => exact execWaiterReevaluate_wf h ..
  | faultReplay => exact execFaultReplay_wf h ..
  | faultDeclareUnserviceable => exact execFaultDeclareUnserviceable_wf h ..
  | teamActivate => exact execTeamActivate_wf h ..
  | teamPark => exact execTeamPark_wf h ..
  | rotation => exact execRotation_wf h ..
  | teamRetire => exact execTeamRetire_wf h ..
  | preemptionRequest => exact State.preempt_wf h ..
  | discardRequeue => exact execDiscardRequeue_wf h ..
  | teamSave => exact execTeamSave_wf h ..
  | preemptionComplete => exact execPreemptionComplete_wf h ..
  | prqLateClear | controlLoopRetune | lifeRecordUpdate | fwctlBadClear | mcrAck | irqRpWrite | irqLostClear => exact h
  | lineReadRequest => exact execLineReadRequest_wf h ..
  | exclusiveRequest => exact execExclusiveRequest_wf h ..
  | invalidation => exact execInvalidation_wf h ..
  | invalidationAck core line => exact execInvalidationAck_wf h core line
  | evictionNotice => exact execEvictionNotice_wf h ..
  | exclusiveGrant => exact execExclusiveGrant_wf h ..
  | lineWriteback => exact execLineWriteback_wf h ..
  | holderReadRequest | holderWriteRequest => exact State.holderRequest_wf h ..
  | recallDowngrade | recallInvalidate => exact State.recall_wf h ..
  | recallAnswer => exact execRecallAnswer_wf h ..
  | holderRelease => exact execHolderRelease_wf h ..
  | holderGrant => exact execHolderGrant_wf h ..
  | srd => exact execSrd_wf h ..
  | swr => exact execSwr_wf h ..
  | tlbi => exact execTlbi_wf h ..
  | tlbShootdownAck => exact execTlbShootdownAck_wf h ..
  | hostWrite => exact execHostWrite_wf h ..
  | controlCoreAccess => exact execControlCoreAccess_wf h ..
  | flitReceive => exact execFlitReceive_wf h ..
  | packageFailure => exact execPackageFailure_wf h ..
  | thermalThrottle => exact execThermalThrottle_wf h ..
  | throttleEnd => exact execThrottleEnd_wf h ..
  | doorbell => exact execDoorbell_wf h ..
  | replicaInvalidate => exact execReplicaInvalidate_wf h ..
  | queueFetch => exact execQueueFetch_wf h ..
  | launch => exact execLaunch_wf h ..
  | startSet => exact execStartSet_wf h ..
  | stopSet => exact execStopSet_wf h ..
  | raise => exact execRaise_wf h ..
  | copy => exact execCopy_wf h ..
  | signal => exact execSignal_wf h ..
  | wait => exact execWait_wf h ..
  | commandComplete => exact execCommandComplete_wf h ..
  | queueSuspendClear =>
    show Out.wf (execQueueSuspendClear _ s)
    unfold execQueueSuspendClear
    grind -ring -linarith [Out.wf, State.qUpdate_wf]
  | ctload => exact State.loadCtx_wf h ..
  | fwctlApply => exact (congrArg Memory.wf (State.fwApply_mem ..)).trans h
  | registerWrite => exact execRegisterWrite_wf h ..
  | deviceReset => exact execDeviceReset_wf h
  | bootImageVerified => exact execBootImageVerified_wf h
  | rwgo => exact (congrArg Memory.wf (State.rwGo_mem ..)).trans h
  | recoveryImageVerified => exact execRecoveryImageVerified_wf h
  | atgo => exact (congrArg Memory.wf (State.atGo_mem ..)).trans h
  | attestReportReady => exact execAttestReportReady_wf h
  | _ => exact execSeal_wf h .. -- SEAL, whose name is a word of Lean's own

/-!
Canonical memory, the choice of what issues, the end of a clock, and the step.
-/

theorem State.reenter_wf (h : s.mem.wf = true) (t gid : Nat) : (s.reenter t gid).mem.wf = true := by
  unfold State.reenter
  split
  · exact h
  next tm _ =>
  split
  · exact h
  next g _ =>
  split
  · exact h
  next m _ =>
  extract_lets trap
  have htrap (tr : Trap) : (trap tr).mem.wf = true := State.trapHeader_wf h ..
  clear_value trap
  split
  · exact htrap _
  split
  · exact State.headerFails_wf h ..
  next w _ =>
  rename State => s1
  have h1 : s1.mem.wf = true := State.routeCode_wf h ..
  clear_value s1
  split
  · exact State.trapHeader_wf h1 ..
  split
  · refine State.headerFails_wf ?_ ..
    split
    · exact State.routeRun_wf h1 ..
    · exact h1
  · grind -ring -linarith [State.updTeam_mem, State.routeCode_wf]

theorem State.atRun_wf (h : s.mem.wf = true) (t gid : Nat) : (s.atRun t gid).1.mem.wf = true := by
  unfold State.atRun
  split
  · exact h
  next tm _ =>
  split
  · exact h
  next g _ =>
  split
  · exact State.trapHeader_wf h ..
  split
  · exact State.headerFails_wf h ..
  · extract_lets s1
    have h1 : s1.mem.wf = true := State.routeCode_wf h ..
    clear_value s1
    split
    · exact h1
    · exact State.trapHeader_wf h1 ..

theorem State.inRun_wf (h : s.mem.wf = true) (t gid : Nat) (g : Group) : (s.inRun t gid g).1.mem.wf = true := by
  unfold State.inRun
  grind -ring -linarith [State.trapAll_wf, State.endRun_wf]

theorem State.take_wf (h : s.mem.wf = true) (core : Nat) (p : Pick) : (s.take core p).1.mem.wf = true := by
  unfold State.take
  grind -ring -linarith [State.inRun_wf, State.updTeam_mem, State.reenter_wf, State.keepCross_wf, State.atRun_wf]

theorem outState_wf (h : s.mem.wf = true) {o : Out} (ho : Out.wf o) : (outState s o).mem.wf = true := by
  cases o with
  | next s' => exact ho
  | refused | fault => exact h

theorem State.lateTry_wf (h : s.mem.wf = true) (t : Nat) (tm : Team) (l : Later) : (s.lateTry t tm l).mem.wf = true := by
  unfold State.lateTry
  extract_lets d dies base at_ s1 again back s2 units
  have h1 : s1.mem.wf = true := outState_wf (s := at_) h (exec_wf (s := at_) h l.instr)
  have hb : back.mem.wf = true := h1
  have h2 : s2.mem.wf = true := hb
  clear_value s1 back s2
  split
  · exact h
  split
  · exact hb
  · refine foldl_wf ?_ (fun s x h => ?_) _
    · exact h2
    · grind -ring -linarith [State.contextMc_wf]

theorem State.latersAgain_wf (h : s.mem.wf = true) : s.latersAgain.mem.wf = true := by
  unfold State.latersAgain
  grind -ring -linarith [foldl_wf, State.lateTry_wf]

@[simp] theorem State.coreError_mem (s : State) (unit core w : Nat) : (s.coreError unit core w).mem = s.mem := by
  unfold State.coreError
  grind -ring -linarith [State.updThread_mem, State.updTeam_mem, State.updCore_mem]

theorem State.errors_wf (h : s.mem.wf = true) : s.errors.mem.wf = true := by
  unfold State.errors
  grind -ring -linarith [foldl_wf, State.cellError_wf, State.coreError_mem]

theorem State.tick_wf (h : s.mem.wf = true) : s.tick.mem.wf = true := by
  unfold State.tick
  grind -ring -linarith [foldl_wf, State.spares_wf, State.crumbsAgain_wf, State.recallsAgain_wf, State.finishLaunches_wf, State.latersAgain_wf,
    State.errors_wf, State.lookAhead_wf]

theorem State.issue_wf (h : s.mem.wf = true) : s.issue.1.mem.wf = true := by
  unfold State.issue
  grind -ring -linarith [State.tick_wf, State.take_wf]

theorem step_wf (h : s.mem.wf = true) : Out.wf (step s) := by
  have hi := State.issue_wf h
  unfold step
  split
  · next e rest _ => exact exec_wf (s := { s with agenda := rest }) h e
  · grind -ring -linarith [Out.wf, exec_wf]

end

/-- Settles O58: a step is the execution of an event, or the choice of an issue and the execution of what it takes, and each keeps memory canonical. -/
theorem stepKeepsInv : Obligations.StepKeepsInv := by
  unfold Obligations.StepKeepsInv
  intro s s' h e
  have hw := step_wf h
  rw [e] at hw
  exact hw

end Sys2Proof.Machine

namespace Sys2Proof.Machine

section
open Sys2Proof

/-! Boot (R6, R384-R386): memory after a reset, the sources that the ROM tries, and the bits of an attestation report. -/

theorem FMap.get?_filter {α : Type} (m : FMap α) (p : Nat → Bool) (k : Nat) (h : FMap.rising m = true) :
    FMap.get? (m.filter (fun e => p e.1)) k = if p k then m.get? k else none := by
  ext a
  constructor
  · intro ha
    obtain ⟨hm, hp⟩ := List.mem_filter.mp (FMap.mem_of_get? _ _ _ ha)
    rw [if_pos hp]
    exact FMap.get?_of_mem h hm
  · intro ha
    by_cases hp : p k
    · rw [if_pos hp] at ha
      exact FMap.get?_of_mem (FMap.rising_filter m _ h) (List.mem_filter.mpr ⟨FMap.mem_of_get? _ _ _ ha, hp⟩)
    · rw [if_neg hp] at ha
      cases ha

theorem Memory.byte_filter (m : Memory) (p : Nat → Bool) (b : Nat) (h : m.wf = true) :
    Memory.byte (m.filter (fun c => p c.1)) b = if p b then m.byte b else 0 := by
  unfold Memory.byte FMap.getD
  rw [FMap.get?_filter m p b ((Memory.wf_iff m).mp h).1]
  split <;> rfl

/-- What a reset leaves of memory reads 0 where the tile directory was and where it will be (R302, R374). -/
theorem State.byte_keptMem (s : State) (b : Nat) (h : s.mem.wf = true) : s.keptMem.byte b =
    if (s.local s.mmio.tdbase.toNat ≤ b ∧ b < s.local s.mmio.tdbase.toNat + 2 ^ 31) ∨ (s.local 0 ≤ b ∧ b < s.local 0 + 2 ^ 31) then 0 else s.mem.byte b := by
  have hr : State.reset.mmio.tdbase.toNat = 0 := rfl
  unfold State.keptMem
  rw [hr]
  extract_lets out
  rw [Memory.byte_filter s.mem (fun a => out (s.local s.mmio.tdbase.toNat) a && out (s.local 0) a) b h]
  generalize s.local s.mmio.tdbase.toNat = x
  generalize s.local 0 = y
  have hout (base : Nat) : out base b = true ↔ ¬ (base ≤ b ∧ b < base + 2 ^ 31) := by
    simp only [out, Bool.or_eq_true, decide_eq_true_eq]
    omega
  simp only [Bool.and_eq_true, hout, ← not_or, ite_not]

theorem setWidth_ofNat_add (w : Nat) {n k : Nat} (a : BitVec n) (b : BitVec k) (h : n ≤ w) :
    (BitVec.ofNat w (a.toNat + b.toNat * 2 ^ n)).setWidth n = a := by
  apply BitVec.eq_of_toNat_eq
  rw [BitVec.toNat_setWidth, BitVec.toNat_ofNat, Nat.mod_mod_of_dvd _ (Nat.pow_dvd_pow 2 h), Nat.add_mul_mod_self_right, Nat.mod_eq_of_lt a.isLt]

theorem extractLsb'_ofNat_add (w : Nat) {n k : Nat} (a : BitVec n) (b : BitVec k) (h : w = n + k) :
    (BitVec.ofNat w (a.toNat + b.toNat * 2 ^ n)).extractLsb' n k = b := by
  subst h
  apply BitVec.eq_of_toNat_eq
  have ha := a.isLt
  have hdiv : (a.toNat + b.toNat * 2 ^ n) / 2 ^ n = b.toNat := by
    rw [Nat.add_mul_div_right _ _ (Nat.two_pow_pos n), Nat.div_eq_of_lt ha, Nat.zero_add]
  rw [BitVec.extractLsb'_toNat, BitVec.toNat_ofNat, Nat.shiftRight_eq_div_pow, Nat.pow_add, Nat.mod_mul_right_div_self, hdiv, Nat.mod_mod,
    Nat.mod_eq_of_lt b.isLt]

section
variable {s : State} (h1 : s.boot.state = 1)
include h1

theorem bootImageVerified_spi (hv : s.verdict 1 = 0) : exec .bootImageVerified s = .next (s.start 1) := by
  simp [exec, execBootImageVerified, h1, hv]

theorem bootImageVerified_nvme (hv : s.verdict 1 ≠ 0) (hw : s.verdict 2 = 0) :
    exec .bootImageVerified s = .next (({ s with boot := { s.boot with reason := s.verdict 1 } } : State).start 2) := by
  simp [exec, execBootImageVerified, h1, hv, hw]

theorem bootImageVerified_fails (hv : s.verdict 1 ≠ 0) (hw : s.verdict 2 ≠ 0) : exec .bootImageVerified s = .next (s.fail 2 (s.verdict 2)) := by
  simp [exec, execBootImageVerified, h1, hv, hw]

end

theorem recoveryImageVerified_passes {s : State} (h4 : s.boot.state = 4) (hv : s.verdict 3 = 0) : exec .recoveryImageVerified s = .next (s.start 3) := by
  simp [exec, execRecoveryImageVerified, h4, hv]

theorem recoveryImageVerified_fails {s : State} (h4 : s.boot.state = 4) (hv : s.verdict 3 ≠ 0) :
    exec .recoveryImageVerified s = .next (s.fail 3 (s.verdict 3)) := by
  simp [exec, execRecoveryImageVerified, h4, hv]

theorem attestReportReady_eq {s : State} (hb : s.boot.busy = true) : exec .attestReportReady s = .next { s with boot := { s.boot with
    report := BitVec.ofNat 1808 (s.boot.statement.toNat + (Config.ed448Sign s.boot.statement).toNat * 2 ^ 896), busy := false, ready := true } } := by
  show execAttestReportReady s = _
  unfold execAttestReportReady
  rw [if_neg (by simp [hb])]

end

/-- Settles O52: each event is its own branch; what a reset leaves of memory is a filter of the list, and a report is its statement below its signature. -/
theorem bootEvents : Obligations.BootEvents := by
  unfold Obligations.BootEvents
  intro s v
  refine ⟨⟨_, rfl, fun hm b => State.byte_keptMem s b hm, rfl, rfl, rfl, rfl, rfl⟩, fun h1 => ⟨?_, ?_, ?_⟩, ?_, fun h4 => ⟨?_, ?_⟩, ?_, fun hb => ?_⟩
  · exact bootImageVerified_spi h1
  · exact bootImageVerified_nvme h1
  · exact fun hv hw => ⟨_, bootImageVerified_fails h1 hv hw, rfl, rfl, rfl⟩
  · simp [exec, execRwgo, State.rwGo]
  · exact recoveryImageVerified_passes h4
  · exact fun hv => ⟨_, recoveryImageVerified_fails h4 hv, rfl, rfl, rfl⟩
  · simp [exec, execAtgo, State.atGo]
  · refine ⟨_, attestReportReady_eq hb, rfl, rfl, ?_, ?_, rfl⟩
    · exact setWidth_ofNat_add 1808 _ _ (Nat.le_add_right 896 912)
    · exact extractLsb'_ofNat_add 1808 _ _ rfl

/-- Settles O60: each register is read off the initial state. -/
theorem resetState : Obligations.ResetState := by
  unfold Obligations.ResetState
  refine ⟨rfl, rfl, rfl, rfl, rfl, rfl, rfl, fun _ => rfl, fun _ => rfl, rfl, fun _ => rfl, rfl, rfl, rfl, rfl, rfl, rfl, fun n => ?_,
    fun _ => ?_, fun _ => ?_⟩
  · cases n with
    | zero => rfl
    | succ n => rfl
  · exact ⟨rfl, rfl, rfl, rfl, rfl, rfl, rfl, rfl, rfl, rfl, rfl⟩
  · exact ⟨rfl, rfl, rfl, rfl, rfl, rfl, rfl⟩

end Sys2Proof.Machine

namespace Sys2Proof.Machine

section
open Sys2Proof

/-! Queues (R377-R381): a doorbell, the next entry, how a command begins, and its end. -/

/-- A doorbell that comes while no write to home units is pending rings at once; its conditions are those of R378. -/
theorem doorbell_eq (s : State) (q : Nat) (wp : BitVec 64) (hl : s.units.late = []) : exec (.doorbell q wp) s = .next (s.ring q wp.toNat) := by
  show execDoorbell q wp s = _
  rw [execDoorbell, hl]
  rfl

theorem State.ring_eq (s : State) (q wp : Nat) : s.ring q wp =
    if q < 1024 ∧ s.qRlogOk q = true ∧ s.qfield q 74 74 = 0 ∧ s.qfield q 75 75 = 1 ∧ s.qfield q 191 128 ≤ wp ∧ wp - s.qfield q 255 192 ≤ 2 ^ s.qfield q 68 64
    then s.qUpdate q 128 64 wp else s := by
  simp only [State.ring, Bool.and_eq_true, decide_eq_true_eq, beq_iff_eq, and_assoc]

/-- A queue that may fetch: the kernel runs, the record is enabled, not suspended and of a legal size, and an entry waits (R379). -/
theorem queueFetch_ok {s : State} {q : Nat} {bs : List Byte} (hb : s.boot.state = 2) (hq : q < 1024) (he : s.qfield q 75 75 = 1) (hs : s.qfield q 76 76 = 0)
    (hr : s.qRlogOk q = true) (hw : s.qfield q 255 192 < s.qfield q 191 128) (hv : (s.ctx (s.queueXlat q).ctx).v = true) (hc : FMap.get? s.cmds q = none)
    {va : DWord} (hva : va = BitVec.ofNat 64 (s.qfield q 63 0 + 64 * (s.qfield q 255 192 % 2 ^ s.qfield q 68 64)))
    (hg : s.vget (s.queueXlat q) va 64 = .ok bs) {c : Cmd} (hcmd : c = { bytes := bs, entry := va }) : exec (.queueFetch q) s =
      .next (({ s with cmds := FMap.set s.cmds q (if c.badop then { c with stage := 3, status := 13 } else c) } : State).vroute (s.queueXlat q) va 64) := by
  subst hva hcmd
  show execQueueFetch q s = _
  simp only [execQueueFetch, hb, he, hs, hr, hv, hc, hg, hq, hw]
  rfl

/-- The engine copy that a COPY command starts: it belongs to no team (R380). -/
def Cmd.copyOp (c : Cmd) (x : Xlat) : Op :=
  { team := none, ctx := x.ctx, tid := 0, hdr := 0, core := x.die * 192, priv := x.priv, cls := 4
    kind := .record .cpy [c.va 16, c.va 24, c.va 32, c.va 40, c.va 48, BitVec.ofNat 64 (c.num 56 4)]
    chunks := [⟨.skip, .skip, 0, 0, .record⟩] }

section
variable {s : State} {q : Nat} {c : Cmd} (hc : FMap.get? s.cmds q = some c) (hh : s.cmdHeld q = false)
include hc hh

theorem State.begins_eq {op : Nat} (h1 : c.stage = 1) (ho : c.num 0 1 = op) (k : Cmd → Xlat → State) : s.begins q op k = k c (s.queueXlat q) := by
  simp [State.begins, hc, hh, h1, ho]

theorem launch_done (h1 : c.stage = 1) (ho : c.num 0 1 = 1) {s1 : State} {v : List Nat} (hr : s.opLaunch (s.queueXlat q)
      { rec_ := c.va 16, ext := (c.num 24 2, c.num 26 2, c.num 28 2), curve := c.num 30 1 % 4, cohort := c.num 31 1, prio := s.qfield q 73 72,
        table := c.va 32, cmd := some q } = .done s1 v) :
    exec (.launch q) s = .next (if nth v 1 = 0 then s1.cmdRun q none else s1.cmdEnd q (nth v 1)) := by
  show execLaunch q s = _
  rw [execLaunch, State.begins_eq hc hh h1 ho]
  simp only [hr]
  rfl

theorem startSet_done (h1 : c.stage = 1) (ho : c.num 0 1 = 2) {s1 : State} {v : List Nat} (hr : s.opStart (s.queueXlat q) (c.va 16) c.dead = .done s1 v) :
    exec (.startSet q) s = .next (s1.cmdEnd q (nth v 0 / 2 ^ 32)) := by
  show execStartSet q s = _
  rw [execStartSet, State.begins_eq hc hh h1 ho, hr]
  rfl

theorem stopSet_done (h1 : c.stage = 1) (ho : c.num 0 1 = 3) {s1 : State} {v : List Nat} :
    s.opStop (s.queueXlat q) (c.va 16) none (some q) = .done s1 v → exec (.stopSet q) s = .next (match v with | [] => s1.cmdRun q none | w :: _ => s1.cmdEnd q (w / 2 ^ 32)) := by
  intro hr
  show execStopSet q s = _
  rw [execStopSet, State.begins_eq hc hh h1 ho, hr]
  cases v <;> rfl

theorem raise_done (h1 : c.stage = 1) (ho : c.num 0 1 = 4) {s1 : State} {v : List Nat}
    (hr : s.opRaise (s.queueXlat q) (c.va 16) (c.num 24 3) (c.num 28 4) = .done s1 v) : exec (.raise q) s = .next (s1.cmdEnd q (nth v 1)) := by
  show execRaise q s = _
  rw [execRaise, State.begins_eq hc hh h1 ho, hr]
  rfl

theorem copy_eq (h1 : c.stage = 1) (ho : c.num 0 1 = 5) : ∃ o : Op, o.team = none ∧ o.ctx = (s.queueXlat q).ctx ∧
    o.kind = .record .cpy [c.va 16, c.va 24, c.va 32, c.va 40, c.va 48, BitVec.ofNat 64 (c.num 56 4)] ∧
    exec (.copy q) s = .next ((s.addOp o).2.cmdRun q (some s.nextId)) := by
  refine ⟨c.copyOp (s.queueXlat q), rfl, rfl, rfl, ?_⟩
  show execCopy q s = _
  rw [execCopy, State.begins_eq hc hh h1 ho]
  rfl

theorem signal_ok (h1 : c.stage = 1) (ho : c.num 0 1 = 6) (ha : (c.va 16).toNat % 16 = 0) {s1 : State}
    (hr : s.arriveAt (s.queueXlat q) (c.va 16) = .ok s1) : exec (.signal q) s = .next (s1.cmdEnd q 0) := by
  show execSignal q s = _
  rw [execSignal, State.begins_eq hc hh h1 ho]
  simp only [ha, hr, ne_eq, not_true_eq_false, if_false]

/-- WAIT looks at its object, after the machine check that its first look raises (log 53). -/
theorem wait_eq (h1 : c.stage = 1) (ho : c.num 0 1 = 7) (ha : (c.va 16).toNat % 16 = 0) {e : Nat}
    (hx : s.xlate (s.queueXlat q) false (c.va 16) .rmw = .ok e) (hg : s.needsGrant (some e) (paOf e (c.va 16)) false = false) {s0 : State}
    (h0 : s0 = if c.seen then s else ({ s with cmds := FMap.upd s.cmds q (fun c => { c with seen := true }) } : State).noRoute (s.queueXlat q).die
      (s.queueXlat q).ctx (paOf e (c.va 16))) (hp : s0.poisoned (paOf e (c.va 16)) 16 = none) :
    exec (.wait q) s = .next (if (Phase.ofNat (s0.phGet (.mem (paOf e (c.va 16)) e))).past (c.num 24 2) = true then s0.cmdEnd q 0 else s0) := by
  show execWait q s = _
  rw [execWait, State.begins_eq hc hh h1 ho]
  simp only [ha, hx, hg, ← h0, hp, ne_eq, not_true_eq_false, if_false, Bool.false_eq_true]

theorem commandComplete_eq (h3 : c.stage = 3) : exec (.commandComplete q) s = .next (s.complete q c) := by
  show execCommandComplete q s = _
  simp only [execCommandComplete, hc, hh, h3, if_false, Bool.false_eq_true]

end

/-- The end of a command: the record's rp moves past its entry, and the queue is free for the next (R380). -/
def State.pastEntry (s : State) (q : Nat) : State :=
  { s.qUpdate q 192 64 (s.qfield q 255 192 + 1) with cmds := FMap.erase (s.qUpdate q 192 64 (s.qfield q 255 192 + 1)).cmds q }

theorem State.complete_no_phase {s s1 : State} {q : Nat} {c : Cmd}
    (hw : s.deadWrite c.dead (s.queueXlat q) (c.entry + 4) (natLe 4 (c.status + c.count * 2 ^ 8)) = .ok s1) (hp : c.va 8 = 0) :
    s.complete q c = s1.pastEntry q := by
  simp only [State.complete, hw, hp, if_true]
  rfl

theorem State.complete_arrives {s s1 s2 : State} {q : Nat} {c : Cmd}
    (hw : s.deadWrite c.dead (s.queueXlat q) (c.entry + 4) (natLe 4 (c.status + c.count * 2 ^ 8)) = .ok s1) (hp : c.va 8 ≠ 0)
    (ha : s1.deadArrive c.dead (s.queueXlat q) (c.va 8) = .ok s2) : s.complete q c = s2.pastEntry q := by
  simp only [State.complete, hw, hp, if_false, ha]
  rfl

end

/-- Settles O50: each event of a queue, by the equation of its case. -/
theorem queueEvents : Obligations.QueueEvents := by
  refine ⟨fun s q wp hl => ?_, fun s die q hr => ⟨_, rfl, ?_, fun d hd => ?_, fun hq => ?_⟩, fun s q bs hb hq he hs hr hw hv hc => ?_, fun s q c hc hh => ?_⟩
  · rw [doorbell_eq s q wp hl, State.ring_eq]
    exact ⟨fun ok => by rw [if_pos ok], fun ok => by rw [if_neg ok]⟩
  · rw [State.die_updDie_self]
    exact (FMap.get?_erase _ q q hr).trans (if_pos rfl)
  · rw [State.die_updDie, if_neg hd]
  · show execQueueSuspendClear q s = _
    rw [execQueueSuspendClear, if_pos hq]
  · exact fun hg => queueFetch_ok hb hq he hs hr hw hv hc rfl hg rfl
  · refine ⟨fun h1 => ⟨fun ho s1 v => launch_done hc hh h1 ho, fun ho s1 v => startSet_done hc hh h1 ho, fun ho s1 v => stopSet_done hc hh h1 ho,
      fun ho s1 v => raise_done hc hh h1 ho, copy_eq hc hh h1, fun ho ha s1 => signal_ok hc hh h1 ho ha,
      fun ho ha e hx hg => wait_eq hc hh h1 ho ha hx hg rfl⟩, fun h3 s1 hw => ⟨fun hp => ?_, fun hp s2 ha => ?_⟩⟩
    · rw [commandComplete_eq hc hh h3, State.complete_no_phase hw hp]
      rfl
    · rw [commandComplete_eq hc hh h3, State.complete_arrives hw hp ha]
      rfl

end Sys2Proof.Machine
